-- ==== Sys2Proof/Word.lean ====
section
/-! DEFINITION. The words of the G980 (R2, R3) and the operand and record types that instructions and moves carry. -/

namespace Sys2Proof

/-- A 64-bit word (R3). -/
abbrev Word := BitVec 64
/-- A 32-bit instruction, literal or FP32 word (R3). -/
abbrev Word32 := BitVec 32
/-- A byte (R3). -/
abbrev Byte := BitVec 8

/-- A 5-bit register field of the x, f or w file (R40). -/
abbrev Reg := Fin 32

/-- Operand b of the RRR format: register, constant-bank entry (C = 1) or literal (L = 1) (R28, R34, R134). -/
inductive OpB where
  | reg (r : Reg)
  | bank (c : Fin 32)
  | lit (v : Word32)
  deriving DecidableEq, Repr

/-- An operand that takes a register or a literal and no constant-bank entry (majors 0x0E, 0x13 to 0x16). -/
inductive OpL where
  | reg (r : Reg)
  | lit (v : Word32)
  deriving DecidableEq, Repr

/-- Operand c of the RRRR format: register or constant-bank entry (R34). -/
inductive OpC where
  | reg (r : Reg)
  | bank (c : Fin 32)
  deriving DecidableEq, Repr

/-- An n-bit immediate or offset field, or the literal word that replaces it (R28, Table 2.1). -/
inductive Imm (n : Nat) where
  | imm (v : BitVec n)
  | lit (v : Word32)
  deriving DecidableEq, Repr

/-- The P bit of scalar floating point: .W is FP32, .D is FP64 (R143). -/
inductive Prec where
  | w
  | d
  deriving DecidableEq, Repr

/-- The rm field of major 0x0F: 0 is FRM (R143). -/
inductive RmField where
  | frm
  | rtz
  | rup
  | rdn
  deriving DecidableEq, Repr

/-- The order of a STORE: 0 plain, 2 .rel, 3 .now (Table 2.9). -/
inductive StOrder where
  | plain
  | rel
  | now
  deriving DecidableEq, Repr

/-- The order of an atomic (Table 2.10). -/
inductive AmoOrder where
  | rlx
  | acq
  | rel
  | ar
  deriving DecidableEq, Repr

/-- The sixteen element-type codes of Table 10.1. -/
inductive Fmt where
  | fp32 | fp64 | bf16 | fp16 | e4m3 | e5m2 | int8 | int32
  | uint8 | int64 | mxfp4 | e8m0 | fp6e2m3 | fp6e3m2 | int4 | e2m1
  deriving DecidableEq, Repr

/-- A context: cell 0-2047 (linear index, R17) and context 0-31 (actor contexts 0-15, strand slots 16-31, Table 17.4). -/
structure CtxId where
  cell : Nat
  slot : Nat
  deriving DecidableEq, Repr

/-- A message: the header of Table 5.4 and its payload words. `full` is header bit FULL (class 62). -/
structure Message where
  dest : BitVec 40
  mb : Fin 8
  len : Nat
  cls : Nat
  full : Bool
  typ : BitVec 8
  sender : BitVec 40
  seq : BitVec 24
  stime : BitVec 32
  pcoff : BitVec 32
  gtid : Word
  payload : List Word
  deriving DecidableEq, Repr

/-- Where an arriving message comes from: an entry of a cell's outbound queue (R109), or a peer module over Ryoft (R22), with the
module that sends it and the ASID its sending context runs under. `refused` is an entry for a peer module that its receiver there
refuses (R118), `rejected` one that the peer's hub rejects for an inactive launch slot (R26). -/
inductive MsgSrc where
  | outbound (cell idx : Nat)
  | refused (cell idx : Nat)
  | rejected (cell idx : Nat)
  | peer (fromModule asid : Nat) (m : Message)
  deriving DecidableEq, Repr

/-- A gateway queue: an ordered pair of dies of the module, or of modules (R46). -/
inductive GwId where
  | die (src dst : Nat)
  | module (src dst : Nat)
  deriving DecidableEq, Repr

/-- What the outside supplies to a delivery of a module-pair gateway queue (R46, R52, R53, R396, R401). -/
inductive PeerEntry where
  /-- what this module's request finds in the word at its home on the peer -/
  | word (v : Word)
  /-- a peer's store, atomic or fill request for a word homed on this module -/
  | store (addr : Nat) (mask data : Word)
  | atomic (addr size op : Nat) (b cmp : Word)
  | fillReq (addr : Nat)
  /-- the peer's fabric gateway cache has dropped its copy of a word -/
  | evicted (addr : Nat)
  /-- a registration at the peer reaches the copy that this module holds -/
  | update (addr : Nat) (v : Word)
  /-- a peer member's access to this member's Keystone share, by offset in the share -/
  | shareLoad (lslot off : Nat)
  | shareStore (lslot off : Nat) (mask data : Word)
  | shareAtomic (lslot off size op : Nat) (b cmp : Word)
  deriving DecidableEq, Repr

/-- A packet of the Ryoft fabric (R391 to R394): source and destination module, virtual channel (Table 21.1), the per-pair
sequence number, its 1 to 4 flits, and the ports that it has still to take, one at each module on its way. -/
structure RyPacket where
  src : Nat
  dst : Nat
  channel : Fin 6
  seq : Nat
  flits : List (BitVec 512)
  route : List (Fin 30)
  deriving DecidableEq, Repr

/-- What the outside says of the flits of a Ryoft unit: nothing more, the packets that they complete (no rule gives a packet's layout),
or that the control flit asks for a unit again, by its PSEQ (R391, R398). -/
inductive FlitNote where
  | none
  | packets (ps : List RyPacket)
  | resend (pseq : BitVec 16)
  deriving DecidableEq, Repr

/-- Where a notice comes from: an entry of the notices under way here, or a REJECT notice of a peer's cell (R116). -/
inductive NoticeSrc where
  | own (idx : Nat)
  | peer (asid : Nat) (m : Message)
  deriving DecidableEq, Repr

/-- One unit of a Ryoft link on the wire (R398): a sealed pair of flits or a plain unit. `kinds` are the two flit kinds
(0 data, 1 control, 2 idle), `pseq` the link header's PSEQ, `cipher` the 128 bytes and `tag` the 96-bit tag. -/
structure WireUnit where
  sealed : Bool
  kind0 : Fin 4
  kind1 : Fin 4
  pseq : BitVec 16
  cipher : BitVec 1024
  tag : BitVec 96
  deriving DecidableEq, Repr

/-- The placement choice that R379 leaves to a die dispatcher: for each group of the batch the cluster store offset of its
scratch grant and of each member's frame. -/
structure PlaceChoice where
  scratchOff : Nat
  frameOffs : List Nat
  deriving DecidableEq, Repr

/-- One gather or scatter lane on its way to an owner's Mortar agent on another module (R365): the two modules, the owner's launch
slot and actor index there, the part and the element in its interior, the requester's address and its trigger's MSGID (for a REJECT
notice, R368), and the requester's own numbers for the instruction and its lane. -/
structure PeerLane where
  fromModule : Nat
  toModule : Nat
  lslot : Nat
  slotNo : Fin 4
  owner : Nat
  part : Nat
  elem : Nat
  scatter : Bool
  op : Fin 4
  value : Word
  asid : Nat
  root : BitVec 40
  msgid : Word
  tag : Nat
  lane : Nat
  deriving DecidableEq, Repr

/-- Where a gather or scatter lane comes from (R365, R368): a place in the cluster's list, a peer's requester, or a peer's answer to a
lane that left this module: the value read, or that the owner there could not serve it. -/
inductive LaneSrc where
  | own (idx : Nat)
  | peer (l : PeerLane)
  | answered (idx : Nat) (v : Word)
  | unserved (idx : Nat)
  deriving DecidableEq, Repr

/-- A spawn count that crosses modules (R183): a strand on the module named asks for a SPAWN of a root actor here, or a peer answers
a request of this module. -/
inductive PeerSpawn where
  | request (module : Nat) (asid : Nat) (root : BitVec 40)
  | answer (granted : Bool)
  deriving DecidableEq, Repr

/-- What starts an eviction step (R382, R383): a context that stops, or the request of the gang's evicting dispatcher, for the launch
slot here. -/
inductive EvictSrc where
  | ctx (c : CtxId)
  | request (lslot : Nat)
  deriving DecidableEq, Repr

/-- A member's answer to a gang reserve request (R381): it holds capacity under a launch slot of its own, or not; or its later word
that a launch has retired or been evicted there, after which the coordinator tries again. -/
inductive GangAnswer where
  | yes (slot : Nat)
  | no
  | freed
  deriving DecidableEq, Repr

/-- What a gang member reports to the coordinator when its groups have retired (R372, R381): its index, how many of its actors were
FAULTED and ended, and the DTC of its first placement. -/
structure MemberReport where
  member : Nat
  faulted : Nat
  start : Word
  deriving DecidableEq, Repr

/-- A ghost strip on its way to the owner of a part (R356), by actor index under a launch slot of the owner's module: cells of
one face, by slab element offset, for one generation. -/
structure Strip where
  lslot : Nat
  owner : Nat
  srcPart : Nat
  dstPart : Nat
  slotNo : Fin 4
  gen : Nat
  face : Nat
  cells : List (Nat × Word)
  deriving DecidableEq, Repr

/-- Where a ghost strip comes from (R356): a place in the cluster's list whose owner is on this module, the agent of a peer module, or the answer of
a peer's agent to the strip at a place of the list. -/
inductive StripSrc where
  | own (idx : Nat)
  | peer (fromModule : Nat) (st : Strip)
  | accepted (idx : Nat)
  | refused (idx : Nat)
  deriving DecidableEq, Repr

/-- A network-reduction contribution (R409). -/
structure Contribution where
  lslot : Nat
  n : Fin 16
  nd : Bool
  op : Fin 3
  typ : Fin 3
  rank : Nat
  data : BitVec 2048
  dstOff : Nat
  actid : BitVec 32
  deriving DecidableEq, Repr

/-- A gang member's reservation request as the coordinator sends it (R381). -/
structure GangRequest where
  /-- the coordinator's module -/
  coordinator : Nat
  gangId : Nat
  asid : Nat
  member : Nat
  groups : Nat
  packet : List Word
  deriving DecidableEq, Repr

/-- What the control channel brings of a peer member's launch-scope barrier (R185): the launch, the arriving actor's rank
in the gang, the barrier number, and the operation and value (none: the actor has ended). -/
structure PeerBarr where
  lslot : Nat
  rank : Nat
  n : Nat
  op : Option Nat
  value : Word
  deriving DecidableEq, Repr

/-- Unit kinds that firmware may mark out at run time (R425). -/
inductive OutUnit where
  | cluster (n : Nat)
  | port (n : Nat)
  deriving DecidableEq, Repr

/-- Where an uncorrectable memory error strikes (R285, R340, R411): an access with no requester, a context's access, an
accumulator (cluster and number), a transfer's chunk (cluster and place in its list), or a ring slot or side lane that the
operation on the array reads, by its LOCAL offset (R299). -/
inductive ErrorAt where
  | nobody
  | access (c : CtxId)
  | accumulator (cluster n : Nat)
  | transfer (cluster idx : Nat)
  | operand (cluster off : Nat)
  deriving DecidableEq, Repr

/-- The blocks of management space (R98): a die's block or the hub's. -/
inductive RegUnit where
  | die (d : Fin 4)
  | hub
  deriving DecidableEq, Repr

end Sys2Proof
end

