-- ==== Sys2Proof/Syntax.lean ====
section
/-! DEFINITION. The instruction set: one constructor for each row of spec/opcode_table.json, in the table's order but
for the four moves that `step` itself raises, which stand first among the moves. The first 216 rows are 32-bit words (with
their literal forms), 24 are compact forms (R35), the rest are the moves of the machine's other agents
(spec/95_what_each_step_holds.md), whose operands say which entry moves and what comes from outside. -/

namespace Sys2Proof

/-- One instruction or one move. -/
inductive Instr where
  /-- ADD (R136). Writes (xa + b) mod 2^64 to xd. -/
  | add (d a : Reg) (b : OpB)
  /-- SUB (R136). Writes (xa - b) mod 2^64 to xd. -/
  | sub (d a : Reg) (b : OpB)
  /-- MUL (R136). Writes the low 64 bits of xa × b to xd. -/
  | mul (d a : Reg) (b : OpB)
  /-- MULH (R136). Writes the high 64 bits of the signed 128-bit product to xd. -/
  | mulh (d a : Reg) (b : OpB)
  /-- MULHN (R136). Writes the high 64 bits of the unsigned 128-bit product to xd. -/
  | mulhn (d a : Reg) (b : OpB)
  /-- DIV (R136). Writes the signed quotient rounded toward zero, with defined results for b = 0 and overflow. -/
  | div (d a : Reg) (b : OpB)
  /-- DIVN (R136). Writes the unsigned quotient; b = 0 gives all ones. -/
  | divn (d a : Reg) (b : OpB)
  /-- REM (R136). Writes the signed remainder with the sign of xa. -/
  | rem (d a : Reg) (b : OpB)
  /-- REMN (R136). Writes the unsigned remainder; b = 0 gives xa. -/
  | remn (d a : Reg) (b : OpB)
  /-- AND (R136). Writes xa AND b. -/
  | and (d a : Reg) (b : OpB)
  /-- OR (R136). Writes xa OR b. -/
  | or (d a : Reg) (b : OpB)
  /-- XOR (R136). Writes xa XOR b. -/
  | xor (d a : Reg) (b : OpB)
  /-- ANDN (R136). Writes xa AND NOT b. -/
  | andn (d a : Reg) (b : OpB)
  /-- SHL (R136). Shifts xa left by b[5:0]. -/
  | shl (d a : Reg) (b : OpB)
  /-- SHR (R136). Shifts xa right logically by b[5:0]. -/
  | shr (d a : Reg) (b : OpB)
  /-- SRA (R136). Shifts xa right arithmetically by b[5:0]. -/
  | sra (d a : Reg) (b : OpB)
  /-- ROL (R136). Rotates xa left by b[5:0]. -/
  | rol (d a : Reg) (b : OpB)
  /-- ROR (R136). Rotates xa right by b[5:0]. -/
  | ror (d a : Reg) (b : OpB)
  /-- MIN (R136). Writes the signed minimum of xa and b. -/
  | min (d a : Reg) (b : OpB)
  /-- MAX (R136). Writes the signed maximum of xa and b. -/
  | max (d a : Reg) (b : OpB)
  /-- MINN (R136). Writes the unsigned minimum of xa and b. -/
  | minn (d a : Reg) (b : OpB)
  /-- MAXN (R136). Writes the unsigned maximum of xa and b. -/
  | maxn (d a : Reg) (b : OpB)
  /-- SLT (R136). Writes 1 if xa < b signed, else 0. -/
  | slt (d a : Reg) (b : OpB)
  /-- SLTN (R136). Writes 1 if xa < b unsigned, else 0. -/
  | sltn (d a : Reg) (b : OpB)
  /-- SEQ (R136). Writes 1 if xa = b, else 0. -/
  | seq (d a : Reg) (b : OpB)
  /-- CLZ (R136). Writes the count of leading zero bits of xa. -/
  | clz (d a : Reg)
  /-- CTZ (R136). Writes the count of trailing zero bits of xa. -/
  | ctz (d a : Reg)
  /-- POPC (R136). Writes the count of one bits of xa. -/
  | popc (d a : Reg)
  /-- BFX (R137). Extracts a bit field of xa given by POS, LEN and SX in b. -/
  | bfx (d a : Reg) (b : OpB)
  /-- BFI (R137). Inserts a field from xa into xd at the position given by b. -/
  | bfi (d a : Reg) (b : OpB)
  /-- BREV (R136). Reverses the bits of xa. -/
  | brev (d a : Reg)
  /-- BSWAP (R136). Reverses the bytes of xa. -/
  | bswap (d a : Reg)
  /-- ADDI (R138). Adds a sign-extended 14-bit immediate to xa. -/
  | addi (d a : Reg) (i : Imm 14)
  /-- ANDI (R138). ANDs xa with a sign-extended immediate. -/
  | andi (d a : Reg) (i : Imm 14)
  /-- ORI (R138). ORs xa with a sign-extended immediate. -/
  | ori (d a : Reg) (i : Imm 14)
  /-- XORI (R138). XORs xa with a sign-extended immediate. -/
  | xori (d a : Reg) (i : Imm 14)
  /-- SLTI (R138). Writes 1 if xa is below the signed immediate. -/
  | slti (d a : Reg) (i : Imm 14)
  /-- LUI (R138). Writes the sign-extended imm19 shifted left by 13. -/
  | lui (d : Reg) (i : Imm 19)
  /-- ADDPC (R138). Writes PC plus the sign-extended imm19 shifted left by 13. -/
  | addpc (d : Reg) (i : Imm 19)
  /-- BEQ (R139). Branches by a parcel offset when xa = xb. -/
  | beq (a b : Reg) (off : Imm 11)
  /-- BNE (R139). Branches when xa ≠ xb. -/
  | bne (a b : Reg) (off : Imm 11)
  /-- BLT (R139). Branches when xa < xb signed. -/
  | blt (a b : Reg) (off : Imm 11)
  /-- BGE (R139). Branches when xa ≥ xb signed. -/
  | bge (a b : Reg) (off : Imm 11)
  /-- BLTN (R139). Branches when xa < xb unsigned. -/
  | bltn (a b : Reg) (off : Imm 11)
  /-- BGEN (R139). Branches when xa ≥ xb unsigned. -/
  | bgen (a b : Reg) (off : Imm 11)
  /-- J (R140). Jumps by a signed parcel offset. -/
  | j (off : Imm 23)
  /-- JAL (R140). Jumps by a signed parcel offset and links the next PC into x1. -/
  | jal (off : Imm 23)
  /-- JALR (R141). Jumps to xa plus a byte offset and writes the next PC to xd. -/
  | jalr (d a : Reg) (i : Imm 14)
  /-- LD_B (R152). Loads a sign-extended byte, plain or acquire. -/
  | ldB (d base : Reg) (off : Imm 9) (acq : Bool)
  /-- LD_H (R152). Loads a sign-extended halfword. -/
  | ldH (d base : Reg) (off : Imm 9) (acq : Bool)
  /-- LD_W (R152). Loads a sign-extended word. -/
  | ldW (d base : Reg) (off : Imm 9) (acq : Bool)
  /-- LD_D (R152). Loads a 64-bit word. -/
  | ldD (d base : Reg) (off : Imm 9) (acq : Bool)
  /-- LD_BU (R152). Loads a zero-extended byte. -/
  | ldBu (d base : Reg) (off : Imm 9) (acq : Bool)
  /-- LD_HU (R152). Loads a zero-extended halfword. -/
  | ldHu (d base : Reg) (off : Imm 9) (acq : Bool)
  /-- LDF_W (R152). Loads 32 bits into an f register with the high half zero. -/
  | ldfW (d base : Reg) (off : Imm 9) (acq : Bool)
  /-- LDF_D (R152). Loads 64 bits into an f register. -/
  | ldfD (d base : Reg) (off : Imm 9) (acq : Bool)
  /-- ST_B (R153). Stores a byte, plain, release or immediate. -/
  | stB (s base : Reg) (off : Imm 9) (ord : StOrder)
  /-- ST_H (R153). Stores a halfword. -/
  | stH (s base : Reg) (off : Imm 9) (ord : StOrder)
  /-- ST_W (R153). Stores the low 32 bits of an x register. -/
  | stW (s base : Reg) (off : Imm 9) (ord : StOrder)
  /-- ST_D (R153). Stores a 64-bit word. -/
  | stD (s base : Reg) (off : Imm 9) (ord : StOrder)
  /-- STF_W (R153). Stores the low 32 bits of an f register. -/
  | stfW (s base : Reg) (off : Imm 9) (ord : StOrder)
  /-- STF_D (R153). Stores 64 bits of an f register. -/
  | stfD (s base : Reg) (off : Imm 9) (ord : StOrder)
  /-- AMOADD (R161). Atomically adds b at the word's home and returns the old value. -/
  | amoadd (dbl : Bool) (ord : AmoOrder) (d a : Reg) (b : OpL)
  /-- AMOAND (R161). Atomically ANDs b into the word. -/
  | amoand (dbl : Bool) (ord : AmoOrder) (d a : Reg) (b : OpL)
  /-- AMOOR (R161). Atomically ORs b into the word. -/
  | amoor (dbl : Bool) (ord : AmoOrder) (d a : Reg) (b : OpL)
  /-- AMOXOR (R161). Atomically XORs b into the word. -/
  | amoxor (dbl : Bool) (ord : AmoOrder) (d a : Reg) (b : OpL)
  /-- AMOMIN (R161). Atomically stores the signed minimum. -/
  | amomin (dbl : Bool) (ord : AmoOrder) (d a : Reg) (b : OpL)
  /-- AMOMAX (R161). Atomically stores the signed maximum. -/
  | amomax (dbl : Bool) (ord : AmoOrder) (d a : Reg) (b : OpL)
  /-- AMOMINN (R161). Atomically stores the unsigned minimum. -/
  | amominn (dbl : Bool) (ord : AmoOrder) (d a : Reg) (b : OpL)
  /-- AMOMAXN (R161). Atomically stores the unsigned maximum. -/
  | amomaxn (dbl : Bool) (ord : AmoOrder) (d a : Reg) (b : OpL)
  /-- AMOSWAP (R161). Atomically swaps b into the word. -/
  | amoswap (dbl : Bool) (ord : AmoOrder) (d a : Reg) (b : OpL)
  /-- AMOCAS (R161). Atomically writes b when the old value equals xd. -/
  | amocas (dbl : Bool) (ord : AmoOrder) (d a : Reg) (b : OpL)
  /-- AMOFADD_F32 (R161). Atomically adds an FP32 value by RNE at the home. -/
  | amofaddF32 (ord : AmoOrder) (d a : Reg) (b : OpL)
  /-- AMOFMIN_F32 (R161). Atomically stores the FP32 minimumNumber. -/
  | amofminF32 (ord : AmoOrder) (d a : Reg) (b : OpL)
  /-- AMOFMAX_F32 (R161). Atomically stores the FP32 maximumNumber. -/
  | amofmaxF32 (ord : AmoOrder) (d a : Reg) (b : OpL)
  /-- FADD (R144). Adds two floating-point operands with one rounding. -/
  | fadd (p : Prec) (rm : RmField) (d a : Reg) (b : OpB)
  /-- FSUB (R144). Subtracts floating-point operands. -/
  | fsub (p : Prec) (rm : RmField) (d a : Reg) (b : OpB)
  /-- FMUL (R144). Multiplies floating-point operands. -/
  | fmul (p : Prec) (rm : RmField) (d a : Reg) (b : OpB)
  /-- FDIV (R144). Divides floating-point operands. -/
  | fdiv (p : Prec) (rm : RmField) (d a : Reg) (b : OpB)
  /-- FSQRT (R144). Computes the correctly rounded square root. -/
  | fsqrt (p : Prec) (rm : RmField) (d a : Reg)
  /-- FMIN (R145). Writes the minimumNumber of two operands. -/
  | fmin (p : Prec) (d a : Reg) (b : OpB)
  /-- FMAX (R145). Writes the maximumNumber of two operands. -/
  | fmax (p : Prec) (d a : Reg) (b : OpB)
  /-- FABS (R144). Clears the sign bit of a non-NaN operand. -/
  | fabs (p : Prec) (d a : Reg)
  /-- FNEG (R144). Inverts the sign bit of a non-NaN operand. -/
  | fneg (p : Prec) (d a : Reg)
  /-- FEQ (R145). Writes 1 to xd when the operands are equal. -/
  | feq (p : Prec) (d a : Reg) (b : OpB)
  /-- FLT (R145). Writes 1 to xd when a < b. -/
  | flt (p : Prec) (d a : Reg) (b : OpB)
  /-- FLE (R145). Writes 1 to xd when a ≤ b. -/
  | fle (p : Prec) (d a : Reg) (b : OpB)
  /-- FCLASS (R146). Writes a one-hot class mask of the operand. -/
  | fclass (p : Prec) (d a : Reg)
  /-- FCVT (R147). Converts between floating-point and integer formats by the code in b. -/
  | fcvt (rm : RmField) (code : Fin 16) (d a : Reg)
  /-- FMVX (R144). Moves f bits unchanged to an x register. -/
  | fmvx (p : Prec) (d a : Reg)
  /-- FMVF (R144). Moves x bits unchanged to an f register. -/
  | fmvf (p : Prec) (d a : Reg)
  /-- FRCP_A (R148). Writes 1/a rounded to 12 significant bits. -/
  | frcpA (p : Prec) (d a : Reg)
  /-- FRSQ_A (R148). Writes 1/√a rounded to 12 significant bits. -/
  | frsqA (p : Prec) (d a : Reg)
  /-- FLI (R149). Writes an FP32 constant from fimm20 or a literal to f0–f15. -/
  | fli (fd : Fin 16) (v : Imm 20)
  /-- FMA (R150). Computes a × b + c with one rounding by FRM. -/
  | fma (p : Prec) (d a : Reg) (b : OpL) (c : OpC)
  /-- FMS (R150). Computes a × b - c with one rounding. -/
  | fms (p : Prec) (d a : Reg) (b : OpL) (c : OpC)
  /-- FNMA (R150). Computes -(a × b) + c with one rounding. -/
  | fnma (p : Prec) (d a : Reg) (b : OpL) (c : OpC)
  /-- FNMS (R150). Computes -(a × b) - c with one rounding. -/
  | fnms (p : Prec) (d a : Reg) (b : OpL) (c : OpC)
  /-- NOP (R164). Has no effect. -/
  | nop
  /-- TRAP (R165). Raises BREAK at its own PC as a trap. -/
  | trap (code : BitVec 16)
  /-- BRK (R165). Raises BREAK, or a debug stop in a launch under debug. -/
  | brk (code : BitVec 16)
  /-- CSRR (R166). Reads a system register into xd. -/
  | csrr (d : Reg) (csr : BitVec 12)
  /-- CSRW (R166). Writes xs to a writable system register. -/
  | csrw (csr : BitVec 12) (s : Reg)
  /-- TMARK (R168). Appends a trace record with a code when tracing is enabled. -/
  | tmark (code : BitVec 16)
  /-- WAITC (R169). Stalls until the load, store, copy and matrix counts fall to the given limits. -/
  | waitc (nl ns nc nm : Fin 16)
  /-- FENCE (R58). Waits for the context's registrations to propagate, then discards COPY entries. -/
  | fence
  /-- FENCE_SC (R59). Empties the section buffer, waits for propagation and takes a point in the domain's fence order. -/
  | fenceSc
  /-- ICSYNC (R158). Discards the cell's instruction view, routine cache and predecode marks. -/
  | icsync
  /-- PREF (R156). Requests a line fill by hint without any ordering move or fault. -/
  | pref (a : Reg) (off : Imm 9) (hint : Fin 3)
  /-- C_LD (R35). Compact form of LD.D with a scaled unsigned offset. -/
  | cLd (d b : Fin 8) (off : Fin 32)
  /-- C_ST (R35). Compact form of ST.D. -/
  | cSt (s b : Fin 8) (off : Fin 32)
  /-- C_LW (R35). Compact form of LD.W. -/
  | cLw (d b : Fin 8) (off : Fin 32)
  /-- C_SW (R35). Compact form of ST.W. -/
  | cSw (s b : Fin 8) (off : Fin 32)
  /-- C_LDF_D (R35). Compact form of LDF.D. -/
  | cLdfD (d b : Fin 8) (off : Fin 32)
  /-- C_STF_D (R35). Compact form of STF.D. -/
  | cStfD (s b : Fin 8) (off : Fin 32)
  /-- C_LDF_W (R35). Compact form of LDF.W. -/
  | cLdfW (d b : Fin 8) (off : Fin 32)
  /-- C_STF_W (R35). Compact form of STF.W. -/
  | cStfW (s b : Fin 8) (off : Fin 32)
  /-- C_ADDI (R35). Compact form of ADDI xd, xd, imm. -/
  | cAddi (d : Fin 8) (i : BitVec 8)
  /-- C_LI (R35). Compact form of ADDI xd, x0, imm. -/
  | cLi (d : Fin 8) (i : BitVec 8)
  /-- C_MV (R35). Compact form of ADD xd, xa, x0. -/
  | cMv (d a : Fin 8)
  /-- C_ADD (R35). Compact form of ADD xd, xd, xa. -/
  | cAdd (d a : Fin 8)
  /-- C_SUB (R35). Compact form of SUB xd, xd, xa. -/
  | cSub (d a : Fin 8)
  /-- C_AND (R35). Compact form of AND xd, xd, xa. -/
  | cAnd (d a : Fin 8)
  /-- C_OR (R35). Compact form of OR xd, xd, xa. -/
  | cOr (d a : Fin 8)
  /-- C_XOR (R35). Compact form of XOR xd, xd, xa. -/
  | cXor (d a : Fin 8)
  /-- C_J (R35). Compact form of J. -/
  | cJ (off : BitVec 11)
  /-- C_BEQZ (R35). Compact form of BEQ xa, x0. -/
  | cBeqz (a : Fin 8) (off : BitVec 8)
  /-- C_BNEZ (R35). Compact form of BNE xa, x0. -/
  | cBnez (a : Fin 8) (off : BitVec 8)
  /-- C_JR (R35). Compact form of JALR x0, xa, 0. -/
  | cJr (a : Fin 8)
  /-- C_FADD_W (R35). Compact form of FADD.W fd, fd, fa. -/
  | cFaddW (d a : Fin 8)
  /-- C_FMUL_W (R35). Compact form of FMUL.W fd, fd, fa. -/
  | cFmulW (d a : Fin 8)
  /-- C_FMA_W (R35). Compact form of FMA.W fd, fa, fb, fd. -/
  | cFmaW (d a b : Fin 8)
  /-- C_NOP (R35). Compact NOP. -/
  | cNop
  /-- SEND (R172). Builds a message from x registers and a descriptor, deferred or released at once. -/
  | send (now : Bool) (d a : Reg) (b : OpB)
  /-- SENDV (R172). Builds a message whose payload is an unbound w register. -/
  | sendv (now : Bool) (d a : Reg) (b : OpB)
  /-- REPLY (R173). Sends a message to the SENDER of the handler's trigger. -/
  | reply (now : Bool) (d : Reg) (b : OpB)
  /-- FWD (R174). Forwards the trigger's payload and identity to a new destination. -/
  | fwd (now : Bool) (a : Reg) (b : OpB)
  /-- DEFER (R176). Re-sends the handler's trigger to its own mailbox at commit. -/
  | defer
  /-- SPAWN (R182). Creates a strand at the home cell of an address, subject to SPAWNLIM. -/
  | spawn (now : Bool) (d a : Reg) (b : OpB)
  /-- MIGRATE (R184). Commits the strand's section and moves it to the home cell of an address. -/
  | migrate (a : Reg)
  /-- SDONE (R179). Commits and ends a strand, releasing its spawn-count decrement last. -/
  | sdone
  /-- HCOMMIT (R179). Commits the current section and starts a new one. -/
  | hcommit
  /-- HDONE (R179). Commits the section, consumes the trigger and ends the handler. -/
  | hdone
  /-- EXIT (R130). Commits, consumes the trigger and ends the actor, rejecting its waiting mail. -/
  | exit
  /-- BARR (R185). Arrives at a group or launch barrier with an operation and value at commit. -/
  | barr (launch : Bool) (op : Fin 5) (n : Fin 16) (b : OpB)
  /-- LAUNCH (R186). Submits a launch packet to a launch queue at commit. -/
  | launch (now : Bool) (a : Reg) (b : OpB)
  /-- GETM (R177). Reads payload word N of the trigger. -/
  | getm (d : Reg) (n : Fin 16)
  /-- MBSTAT (R178). Writes a snapshot of one mailbox's occupancy. -/
  | mbstat (d : Reg) (mb : Fin 8)
  /-- VADD (R249). Adds element by element. -/
  | vadd (t : Fin 8) (d a : Reg) (b : OpL)
  /-- VSUB (R249). Subtracts element by element. -/
  | vsub (t : Fin 8) (d a : Reg) (b : OpL)
  /-- VMUL (R249). Multiplies element by element. -/
  | vmul (t : Fin 8) (d a : Reg) (b : OpL)
  /-- VFMA (R249). Computes a × b + d element by element with one rounding. -/
  | vfma (t : Fin 8) (d a : Reg) (b : OpL)
  /-- VFMS (R249). Computes a × b - d element by element. -/
  | vfms (t : Fin 8) (d a : Reg) (b : OpL)
  /-- VMIN (R249). Element-wise minimum. -/
  | vmin (t : Fin 8) (d a : Reg) (b : OpL)
  /-- VMAX (R249). Element-wise maximum. -/
  | vmax (t : Fin 8) (d a : Reg) (b : OpL)
  /-- VABS (R249). Element-wise absolute value. -/
  | vabs (t : Fin 8) (d a : Reg)
  /-- VNEG (R249). Element-wise negation. -/
  | vneg (t : Fin 8) (d a : Reg)
  /-- VAND (R249). Element-wise bitwise AND. -/
  | vand (t : Fin 8) (d a : Reg) (b : OpL)
  /-- VOR (R249). Element-wise bitwise OR. -/
  | vor (t : Fin 8) (d a : Reg) (b : OpL)
  /-- VXOR (R249). Element-wise bitwise XOR. -/
  | vxor (t : Fin 8) (d a : Reg) (b : OpL)
  /-- VSHL (R249). Element-wise integer shift left. -/
  | vshl (t : Fin 8) (d a : Reg) (b : OpL)
  /-- VSHR (R249). Element-wise logical shift right. -/
  | vshr (t : Fin 8) (d a : Reg) (b : OpL)
  /-- VSRA (R249). Element-wise arithmetic shift right. -/
  | vsra (t : Fin 8) (d a : Reg) (b : OpL)
  /-- VCMP (R250). Compares element by element and writes a mask register. -/
  | vcmp (t : Fin 8) (cond : Fin 4) (kd : Fin 8) (a b : Reg)
  /-- VSEL (R251). Merges lanes of wa into wd under a mask. -/
  | vsel (t : Fin 8) (d a : Reg) (kb : Fin 8)
  /-- VKOP_AND (R252). ANDs two mask registers. -/
  | vkopAnd (d a b : Fin 8)
  /-- VKOP_OR (R252). ORs two mask registers. -/
  | vkopOr (d a b : Fin 8)
  /-- VKOP_XOR (R252). XORs two mask registers. -/
  | vkopXor (d a b : Fin 8)
  /-- VKOP_ANDN (R252). Writes ka AND NOT kb. -/
  | vkopAndn (d a b : Fin 8)
  /-- VKOP_NOT (R252). Inverts a mask register. -/
  | vkopNot (d a : Fin 8)
  /-- VKOP_POPC (R252). Writes the number of ones of a mask to xd. -/
  | vkopPopc (d : Reg) (a : Fin 8)
  /-- VKOP_SPLAT (R252). Sets a mask to all ones or all zeros from xa. -/
  | vkopSplat (d : Fin 8) (a : Reg)
  /-- VKOP_FROMX (R252). Loads the low 64 mask bits from xa. -/
  | vkopFromx (d : Fin 8) (a : Reg)
  /-- VIEW (R242). Loads a 64-byte view record into a t register. -/
  | view (td : Fin 16) (a : Reg)
  /-- VIEWS (R242). Stores a t register's view record to memory. -/
  | views (td : Fin 16) (a : Reg)
  /-- VMKV (R243). Makes a dense rank-1 view from a base and length. -/
  | vmkv (t : Fin 8) (td : Fin 16) (a : Reg) (b : OpL)
  /-- VPART (R244). Derives a part of a whole view by a partition specification and rank source. -/
  | vpart (src : Fin 3) (td ta : Fin 16) (b : OpL)
  /-- VBIND (R245). Checks a view and binds it to a w register. -/
  | vbind (d : Reg) (ta : Fin 16)
  /-- VUNBIND (R245). Leaves a w register unbound and zero. -/
  | vunbind (d : Reg)
  /-- VLD (R246). Loads one chunk of a view into an unbound register. -/
  | vld (d : Reg) (ta : Fin 16) (b : OpL)
  /-- VST (R246). Stores an unbound register to one chunk of a view. -/
  | vst (s : Reg) (ta : Fin 16) (b : OpL)
  /-- VMOV (R247). Copies a register or view to another. -/
  | vmov (t : Fin 8) (d a : Reg)
  /-- VBCAST (R248). Writes one scalar value to every element. -/
  | vbcast (t : Fin 8) (d : Reg) (v : OpL)
  /-- VGATHER (R264). Loads elements from per-lane byte addresses. -/
  | vgather (t : Fin 8) (d a : Reg)
  /-- VSCATTER (R266). Stores elements to per-lane byte addresses in lane order. -/
  | vscatter (t : Fin 8) (wa ws : Reg)
  /-- VACCRD (R267). Reads an accumulator after earlier operations on it retire. -/
  | vaccrd (t : Fin 8) (d : Reg) (acc : Fin 16) (b : OpL)
  /-- VACCRD_PEEK (R267). Reads an accumulator's state at the latest k-step boundary without waiting. -/
  | vaccrdPeek (t : Fin 8) (d : Reg) (acc : Fin 16) (b : OpL)
  /-- VACCWR (R268). Writes an accumulator in its issue order. -/
  | vaccwr (t : Fin 8) (s : Reg) (acc : Fin 16) (b : OpL)
  /-- RPUSH (R269). Pushes one tile, with optional norms and scales, into a ring. -/
  | rpush (n : Bool) (ring : Fin 8) (a b : Reg)
  /-- VCVT (R253). Converts elements between formats, optionally saturating. -/
  | vcvt (t : Fin 8) (dst : Fin 16) (sat : Bool) (d a : Reg)
  /-- VCVT_SR (R254). Converts elements with keyed stochastic rounding. -/
  | vcvtSr (t : Fin 8) (d a : Reg) (b : OpL)
  /-- VQMX (R255). Quantises a view into MXFP4 blocks with scales. -/
  | vqmx (d a : Reg)
  /-- VDQ (R256). Expands a storage-only or MXFP4 view into a wider format. -/
  | vdq (d a : Reg)
  /-- VRCP_A (R257). Element-wise reciprocal to 12 significant bits. -/
  | vrcpA (t : Fin 8) (d a : Reg)
  /-- VRSQ_A (R257). Element-wise reciprocal square root to 12 significant bits. -/
  | vrsqA (t : Fin 8) (d a : Reg)
  /-- VRSQ (R257). Element-wise correctly rounded reciprocal square root. -/
  | vrsq (t : Fin 8) (d a : Reg)
  /-- VSQRT (R257). Element-wise correctly rounded square root. -/
  | vsqrt (t : Fin 8) (d a : Reg)
  /-- VDIV (R257). Element-wise correctly rounded division. -/
  | vdiv (t : Fin 8) (d a : Reg) (b : OpL)
  /-- VEXP2 (R257). Element-wise correctly rounded 2^a. -/
  | vexp2 (t : Fin 8) (d a : Reg)
  /-- VLOG2 (R257). Element-wise correctly rounded log2 a. -/
  | vlog2 (t : Fin 8) (d a : Reg)
  /-- VTANH (R257). Element-wise correctly rounded tanh a. -/
  | vtanh (t : Fin 8) (d a : Reg)
  /-- VRED (R258). Reduces a register or view by sum, min, max or amax in fixed order. -/
  | vred (t : Fin 8) (op : Fin 4) (d a : Reg)
  /-- VSCAN (R259). Writes the inclusive sequential scan of a register or view. -/
  | vscan (t : Fin 8) (op : Fin 3) (d a : Reg)
  /-- VNORM (R260). Computes slice norms of a tile for the estimating engine. -/
  | vnorm (t : Fin 8) (w : Fin 6) (d a : Reg)
  /-- VTOPK (R261). Selects 2:4 structured sparsity with metadata. -/
  | vtopk (t : Fin 8) (d a b : Reg)
  /-- VRAND (R262). Fills elements from the keyed generator by keyed index. -/
  | vrand (t : Fin 8) (d : Reg) (b : OpL)
  /-- RNDK (R263). Writes one keyed generator word for a seed and index. -/
  | rndk (d a : Reg) (b : OpL)
  /-- MMA (R305). Checks operands, reserves ring tiles and queues a dense product on the EME. -/
  | mma (pri : Fin 4) (sp : Bool) (pair : Fin 10) (k : Reg) (ringB ringA : Fin 8) (acc : Fin 16)
  /-- MMAS (R305). Checks operands, reserves tiles and queues an estimated product on the EME. -/
  | mmas (pri : Fin 4) (x sp : Bool) (pair : Fin 10) (k : Reg) (ringB ringA : Fin 8) (acc : Fin 16)
  /-- ACCZ (R311). Queues a clearing of an accumulator. -/
  | accz (acc : Fin 16)
  /-- ACCSTAT (R312). Waits for earlier operations on an accumulator and returns its status and variance. -/
  | accstat (d : Reg) (acc : Fin 16)
  /-- RINGCFG (R315). Checks a ring configuration, waits for the ring to drain and resets it. -/
  | ringcfg (ring : Fin 8) (b : OpB)
  /-- RINGST (R316). Returns a snapshot of a ring's counters or configuration. -/
  | ringst (d : Reg) (ring : Fin 8) (code : Fin 2)
  /-- RPOP (R317). Reserves and releases tiles from a ring head without an operation. -/
  | rpop (ring : Fin 8) (b : OpB)
  /-- MQPRI (R318). Changes the priority of earlier queued operations on an accumulator. -/
  | mqpri (d : Reg) (acc : Fin 16) (b : OpB)
  /-- MQDRAIN (R319). Removes earlier queued or running operations by code. -/
  | mqdrain (d : Reg) (acc : Fin 16) (code : Fin 4)
  /-- CPSET (R332). Writes a value to a copy shadow register. -/
  | cpset (sh : Fin 17) (b : OpB)
  /-- CPGET (R332). Reads a copy shadow register. -/
  | cpget (d : Reg) (sh : Fin 22)
  /-- CPGO (R334). Checks and launches a snapshot of the shadows as a transfer under a tag. -/
  | cpgo (d : Reg) (b : OpB)
  /-- CPFOL (R333). Loads a follow-on matrix command and its register values into the shadows. -/
  | cpfol (b : OpB)
  /-- WTAG_ALL (R335). Waits until every masked tag is set, then acquires. -/
  | wtagAll (d : Reg) (b : OpB)
  /-- WTAG_ANY (R335). Waits until any masked tag is set, then acquires. -/
  | wtagAny (d : Reg) (b : OpB)
  /-- FFR (R336). Returns the lowest set masked tag without waiting. -/
  | ffr (d : Reg) (b : OpB)
  /-- TAGST (R337). Returns a tag's status word, acquiring when complete. -/
  | tagst (d : Reg) (b : OpB)
  /-- CPCAN (R338). Cancels a pending transfer of this context. -/
  | cpcan (d a : Reg)
  /-- GDECL (R358). Reads, checks and binds or unbinds an object descriptor to a grid slot. -/
  | gdecl (g : Fin 4) (a : Reg)
  /-- GLD_W (R359). Reads a grid cell for a step, waiting for its ghost generation. -/
  | gldW (d a : Reg) (b : OpB)
  /-- GLD_F (R359). Reads a grid cell for a step, faulting if its ghost has not arrived. -/
  | gldF (d a : Reg) (b : OpB)
  /-- GST (R360). Writes an interior cell of the owner's part. -/
  | gst (s a : Reg)
  /-- HSTEP (R361). Declares the owner's interior complete at a step, released at commit. -/
  | hstep (g : Fin 4) (b : OpB)
  /-- HREL (R362). Releases ghost generations up to a step at commit. -/
  | hrel (g : Fin 4) (b : OpB)
  /-- HWAIT (R363). Waits until a ghost generation has arrived, then acquires. -/
  | hwait (g : Fin 4) (b : OpB)
  /-- GQRY (R364). Returns a snapshot of a grid slot's state by code. -/
  | gqry (d : Reg) (g : Fin 4) (code : Fin 10)
  /-- GGATHER (R365). Gathers 32 grid elements by global index from their owners. -/
  | ggather (d a : Reg) (g : Fin 4)
  /-- GSCAT (R365). Scatters 32 grid elements to their owners with a combining operation. -/
  | gscat (op : Fin 4) (wa ws : Reg) (g : Fin 4)
  /-- KDETACH (R406). Detaches the actor from the Keystone window at commit. -/
  | kdetach
  /-- KSTAT (R407). Returns a snapshot of the gang's window state by code. -/
  | kstat (d : Reg) (code : Fin 6)
  /-- NRED (R409). Contributes a register to a deterministic network reduction. -/
  | nred (op typ : Fin 3) (a : Reg) (b : OpB)
  /-- NRED_ND (R409). Contributes a register to a non-deterministic network reduction. -/
  | nredNd (op typ : Fin 3) (a : Reg) (b : OpB)
  /-- NSTAT (R408). Returns a snapshot of the module's fabric state by code. -/
  | nstat (d : Reg) (code : Fin 4)
  /-- RESERVED_ENCODING (R37). A context executes an instruction whose encoding is reserved or unassigned and traps with ILLEGAL_OP. -/
  | reservedEncoding (bits : Nat)
  /-- HANDLER_ENTRY (R120). The cell chooses a waiting trigger and starts a handler with its entry registers. -/
  | handlerEntry (c : CtxId)
  /-- WATCHDOG_EXPIRY (R387). A section's watchdog count reaches zero and the section traps with WATCHDOG. -/
  | watchdogExpiry (c : CtxId)
  /-- BREAKPOINT_HALT (R416). A matching breakpoint halts a context before its instruction and sends DEBUG_HALT. -/
  | breakpointHalt (c : CtxId)
  /-- REGISTRATION_MOVE (R52). Registers the oldest eligible store of a cell's registration queue at its home or appends it to a gateway queue. -/
  | registrationMove (cell idx : Nat)
  /-- GATEWAY_QUEUE_DELIVERY (R53). Delivers the head entry of a gateway queue at its destination. -/
  | gatewayQueueDelivery (q : GwId) (peer : Option PeerEntry)
  /-- LOAD_VALUE_RETURN (R54). A load's value returns and is written to its destination register. -/
  | loadValueReturn (c : CtxId) (idx : Nat)
  /-- RELEASE_PERFORMED (R56). A release takes place once the context's earlier registrations have propagated. -/
  | releasePerformed (c : CtxId)
  /-- ATOMIC_AT_HOME (R60). An atomic executes as one move at its word's home and returns the old value. -/
  | atomicAtHome (c : CtxId)
  /-- TRANSLATION_WALK (R92). A walker completes a page-table walk, sets A and D, and fills the TLB or faults. -/
  | translationWalk (cluster asid : Nat) (va : Word) (kind : Fin 4)
  /-- TLB_INVALIDATION_DONE (R97). An invalidation finishes when no matching entry or walk remains and BUSY clears. -/
  | tlbInvalidationDone
  /-- BANK_MODE_MOVE (R77). A cluster-store bank reaches its target mode once its wait condition holds. -/
  | bankModeMove (cluster : Nat) (bank : Fin 16)
  /-- VECTOR_ROW_FILL (R233). The cell spills a row and fills a w register's row, ending the instruction's stall. -/
  | vectorRowFill (c : CtxId) (w : Reg)
  /-- MESSAGE_ARRIVAL (R116). A message arriving for an actor context is checked, then delivered, moored or rejected. -/
  | messageArrival (src : MsgSrc)
  /-- REFUSED_MESSAGE_RETRY (R118). The sending interface retries a held message when its backoff expires. -/
  | refusedMessageRetry (cell idx : Nat)
  /-- NOTICE_ARRIVAL (R102). A notice enters an actor's notice queue, or its mooring queue when full. -/
  | noticeArrival (src : NoticeSrc)
  /-- STRAND_ARRIVAL (R124). A strand message at its home cell enters a slot, the arrival queue, the overflow ring or is refused. -/
  | strandArrival (src : MsgSrc)
  /-- STRAND_RESUMPTION (R105). A queued strand takes a free slot and resumes with its carried state. -/
  | strandResumption (c : CtxId)
  /-- SECTION_COMMIT_COMPLETE (R109). A section's commit completes once every effect has entered the outbound queue. -/
  | sectionCommitComplete (c : CtxId)
  /-- MACHINE_CHECK (R113). A pipeline parity error aborts and reruns a revocable section once, or traps. -/
  | machineCheck (c : CtxId)
  /-- SPAWN_COUNT_REQUEST (R183). The root actor's cell answers a strand's spawn-count request. -/
  | spawnCountRequest (idx : Nat) (peer : Option PeerSpawn)
  /-- SPAWN_COUNT_ANSWER (R183). A count answer reaches the spawning strand slot and ends its stall. -/
  | spawnCountAnswer (c : CtxId)
  /-- SPAWN_DECREMENT_ARRIVAL (R183). A strand's decrement reaches the root actor's cell and lowers the count. -/
  | spawnDecrementArrival (idx : Nat) (peer : Option (BitVec 40))
  /-- BARRIER_ARRIVAL (R128). A released BARR arrives at its barrier's current generation. -/
  | barrierArrival (idx : Nat) (peer : Option PeerBarr)
  /-- EME_OPERATION_START (R306). An EME operation becoming eligible is checked against its rings and accumulator. -/
  | emeOperationStart (cluster idx : Nat)
  /-- EME_K_STEP (R291). The EME completes a k-step and chooses the next operation by effective priority. -/
  | emeKStep (cluster : Nat)
  /-- ACCZ_RUN (R311). A queued ACCZ clears its accumulator when earlier operations on it have retired. -/
  | acczRun (cluster idx : Nat)
  /-- RPOP_RETIRE (R317). A queued RPOP pops its landed tiles once earlier reservations have popped. -/
  | rpopRetire (cluster idx : Nat)
  /-- COPY_CHUNK (R324). The copy engine reads then writes one 4 KiB chunk of a transfer's walk. -/
  | copyChunk (cluster idx : Nat)
  /-- RING_TILE_PUSH (R327). A ring fill writes a tile and side record into a free slot, computes norms and advances TAIL. -/
  | ringTilePush (cluster idx : Nat)
  /-- DEMAND_SLICE_FETCH (R328). The copy engine fetches the B data of a drawn slice on the EME's request. -/
  | demandSliceFetch (cluster idx : Nat)
  /-- COPY_TRANSFER_COMPLETION (R339). A finished transfer waits for propagation, places its follow-on and sets its tag. -/
  | copyTransferCompletion (cluster idx : Nat)
  /-- HALO_STRIP_ARRIVAL (R356). A receiving agent places or refuses a ghost strip and sets ARRIVED and HALO notices. -/
  | haloStripArrival (cluster : Nat) (src : StripSrc)
  /-- HALO_STRIP_RETRY (R356). A sending agent retries a refused strip after its backoff. -/
  | haloStripRetry (cluster idx : Nat)
  /-- GRID_ACTIVE_MESSAGE (R365). An owner's Mortar agent serves a gather or scatter lane in its interior. -/
  | gridActiveMessage (cluster : Nat) (src : LaneSrc)
  /-- GATHER_LANE_RETURN (R365). A gather lane's value returns and is written to its lane. -/
  | gatherLaneReturn (c : CtxId) (lane : Nat)
  /-- QUEUE_TAIL_OBSERVATION (R374). The dispatcher observes a new tail word value and admits the packets it covers. -/
  | queueTailObservation (q : Fin 64)
  /-- LAUNCH_SELECTION (R375). The global dispatcher selects the head with the earliest effective deadline and assigns a slot. -/
  | launchSelection
  /-- LAUNCH_REQUEST_APPEND (R186). The dispatcher reads a LAUNCH packet and appends it to its queue, or drops it. -/
  | launchRequestAppend (idx : Nat)
  /-- GROUP_PLACEMENT (R377). The global dispatcher offers a batch of groups to a die when capacity changes. -/
  | groupPlacement (lslot : Nat) (die : Fin 4) (choices : List PlaceChoice)
  /-- GANG_RESERVE (R381). A member dispatcher answers a gang reserve request and holds or refuses capacity. -/
  | gangReserve (req : GangRequest)
  /-- GANG_RESERVE_ANSWER (R381). The coordinator collects reserve answers and sends commit or abandon. -/
  | gangReserveAnswer (lslot member : Nat) (answer : GangAnswer)
  /-- GANG_COMMIT (R381). A member places all its gang groups and writes its slot into the gang table. -/
  | gangCommit (lslot : Nat) (slots : List Nat) (choices : List PlaceChoice)
  /-- GANG_ABANDON (R381). A member frees what it held for a gang. -/
  | gangAbandon (lslot : Nat)
  /-- CONTEXT_EVICTION (R383). A context of an evicted launch is saved when it stops and the actor becomes EVICTED. -/
  | contextEviction (src : EvictSrc)
  /-- EVICTION_SHARED_SAVE (R383). When every context of the launch has stopped, scratch, rings and parts are saved and resources freed. -/
  | evictionSharedSave (lslot : Nat) (stopped : List Nat)
  /-- RE_PLACEMENT (R386). An evicted launch is placed again, restored and its moorings replayed. -/
  | rePlacement (lslot : Nat) (die : Fin 4) (choices : List PlaceChoice)
  /-- GROUP_RETIREMENT (R24). A group whose actors, effects and engine work are finished retires and frees its grants. -/
  | groupRetirement (lslot group : Nat) (detached : List Nat) (reports : List MemberReport)
  /-- FAULT_RECORD_DELIVERY (R414). An interrupt controller appends a fault record to the owning core's ring when room exists. -/
  | faultRecordDelivery (idx : Nat)
  /-- BREAKPOINT_BROADCAST_DONE (R415). Every cell holds the new breakpoint values and BPST.BUSY clears. -/
  | breakpointBroadcastDone
  /-- TIMING_DUMP_DONE (R421). The cell finishes writing its timing table and clears BUSY. -/
  | timingDumpDone (die : Fin 4)
  /-- FLIT_RECEIVE (R391). A Ryoft link direction receives a sealed unit, checks it and accepts or asks for retransmission. -/
  | flitReceive (port : Fin 30) (unit : WireUnit) (note : FlitNote)
  /-- LEND_PERIOD (R395). Every 1,024 link cycles the receiver computes new channel limits and sends LEND. -/
  | lendPeriod (port : Fin 30)
  /-- LEND_RECEIVED (R395). The sender applies a LEND's limits and acknowledges it. -/
  | lendReceived (port : Fin 30) (seq : Nat) (limits : List Nat)
  /-- LEND_ACK_RECEIVED (R395). The receiver returns freed buffer space to its pool once drained below the new limit. -/
  | lendAckReceived (port : Fin 30) (seq : Nat)
  /-- CREDIT_RETURN (R395). A credit for a flit that left the input buffer reaches the sender. -/
  | creditReturn (port : Fin 30) (channel : Fin 6) (cls : Fin 4)
  /-- KEY_SWITCH (R398). At counter 2^48 - 2 the sender switches to the next key or ends the key. -/
  | keySwitch (port : Fin 30)
  /-- LINK_KEY_INSTALL (R429). Partners install a new link key and salt, restarting the direction at counter 0. -/
  | linkKeyInstall (port : Fin 30) (sending : Bool) (key : BitVec 256) (salt : BitVec 48)
  /-- CAPABILITY_RELAY (R397). A hub learns a module's capability vector over CTL. -/
  | capabilityRelay (module : Nat) (vec : Word32)
  /-- KEYSTONE_REQUEST_SERVE (R401). An owner's cluster store serves a Keystone load, store or atomic. -/
  | keystoneRequestServe (q : GwId) (peer : Option PeerEntry)
  /-- WINDOW_COLLAPSE (R404). A hub receives a collapse broadcast, sets the window COLLAPSED and sends KEYSTONE notices. -/
  | windowCollapse (lslot departed : Nat) (cause : Fin 4)
  /-- NRED_CONTRIBUTION_ARRIVAL (R409). A reduction contribution reaches the routers' count for its generation. -/
  | nredContributionArrival (idx : Nat) (peer : Option Contribution) (plan : List (Nat × Nat))
  /-- ETHERNET_RDMA_WRITE (R374). An RDMA WRITE from a host writes module memory. -/
  | ethernetRdmaWrite (pa : Nat) (bytes : List Byte) (core : Option (Fin 4))
  /-- CHECKPOINT_STREAM (R342). Firmware streams all memory over both Ethernet ports with the copy engines. -/
  | checkpointStream (cluster : Nat) (pa : Nat) (port : Fin 2)
  /-- POWER_ON (R423). Module power-on starts the bring-up sequence. -/
  | powerOn
  /-- BRINGUP_STEP (R423). A bring-up step ends for its units and the next step begins. -/
  | bringupStep (outcomes : List (Nat × Bool × Word32)) (sync : Option Word)
  /-- RUNTIME_MARK_OUT (R425). Firmware marks a cluster or port out at run time by a FAILED record. -/
  | runtimeMarkOut (unit : OutUnit) (detail : Word32)
  /-- JOURNAL_ERASE (R424). The host management path erases the boot journal. -/
  | journalErase
  /-- ATTESTATION_QUOTE (R428). Firmware writes and signs an attestation quote for a nonce. -/
  | attestationQuote (nonce : BitVec 256) (pa : Nat)
  /-- THROTTLE_STEP (R430). Each millisecond a die's clock point moves one step down or up by power and temperature. -/
  | throttleStep (die : Fin 5) (watts : Nat) (hot : Bool)
  /-- CSMODE_WRITE (R76). A write of CSMODE sets the target modes of a cluster's banks. -/
  | csmodeWrite (cluster : Nat) (value : Word32)
  /-- TRESP_RETRY (R96). Answers every access stalled on a token by repeating its walk. -/
  | trespRetry (core die : Fin 4) (token : Nat)
  /-- TRESP_FATAL (R96). Turns every access stalled on a token into a fatal fault of its context. -/
  | trespFatal (core die : Fin 4) (token : Nat)
  /-- HBM_COUNTER_CLEAR (R88). Writing HBMCNTCTL.CLEAR zeroes the die's channel counters. -/
  | hbmCounterClear (die : Fin 4)
  /-- TLBINV_ALL (R97). Starts an invalidation of all ASIDs' translations. -/
  | tlbinvAll
  /-- TLBINV_ASID (R97). Starts an invalidation of one ASID's translations. -/
  | tlbinvAsid (asid : Nat)
  /-- TLBINV_PAGE (R97). Starts an invalidation of one page or block of one ASID. -/
  | tlbinvPage (asid : Nat)
  /-- ACTCTL_RESUME (R131). Resumes a faulted actor or strand. -/
  | actctlResume (core die : Fin 4) (cellInDie : Fin 512) (strand : Bool)
  /-- ACTCTL_SKIP (R131). Skips a faulted actor's returned trigger or discards a faulted strand. -/
  | actctlSkip (core die : Fin 4) (cellInDie : Fin 512) (strand : Bool)
  /-- ACTCTL_END (R131). Ends a faulted actor as by EXIT or discards a faulted strand. -/
  | actctlEnd (core die : Fin 4) (cellInDie : Fin 512) (strand : Bool)
  /-- NOTECTL (R132). Sends a class-5 FAULT notice to an actor. -/
  | notectl (core die : Fin 4) (cellInDie : Fin 512)
  /-- HELD_NOTICE_SEND (R385). A unit holding a notice for lack of pool space sends it when space frees. -/
  | heldNoticeSend (idx : Nat)
  /-- CPCTL_REPLAY (R340). Replays a suspended transfer from its cursor. -/
  | cpctlReplay (core die : Fin 4)
  /-- CPCTL_COMPLETE (R340). Completes a suspended transfer with the written status code. -/
  | cpctlComplete (core die : Fin 4) (code : Byte)
  /-- LCANCEL (R388). Cancels a launch, sending TERMINATE notices and stopping placement. -/
  | lcancel (core : Fin 4) (asid lslot : Nat)
  /-- BPCTL_WRITE (R415). Writing a breakpoint unit's control starts its broadcast to every cell. -/
  | bpctlWrite (n : Fin 8) (value : Word)
  /-- DBGCTL_RESUME (R417). Resumes a halted context. -/
  | dbgctlResume (core die : Fin 4) (cellInDie : Fin 512) (strand : Bool)
  /-- DBGCTL_STEP (R417). Executes one instruction of a halted context and halts again. -/
  | dbgctlStep (core die : Fin 4) (cellInDie : Fin 512) (strand : Bool)
  /-- DBGCTL_HALT_REQUEST (R417). Halts a running or idle context at its next boundary. -/
  | dbgctlHaltRequest (core die : Fin 4) (cellInDie : Fin 512) (strand : Bool)
  /-- DBGCTL_ABORT (R417). Ends a halt with a DEBUG_HALT trap. -/
  | dbgctlAbort (core die : Fin 4) (cellInDie : Fin 512) (strand : Bool)
  /-- TTDUMP (R421). Starts a dump of a cell's timing table, optionally clearing it. -/
  | ttdump (die : Fin 4) (cellInDie : Fin 512) (clear : Bool)
  /-- REGISTER_WRITE (R6). A write to a register without behaviour of its own updates its fields by their access codes. -/
  | registerWrite (unit : RegUnit) (offset : Nat) (value : Word)
  /-- POWER_OFF (R424). Module power is lost, all state except flash is lost, and a boot-journal write in progress may be left with a bad CRC. -/
  | powerOff (badCrc : Bool)
  /-- RYOFT_LINK_LOSS (R390). A Ryoft port loses its link or partner and goes down, so routes detour and a member may become unreachable. -/
  | ryoftLinkLoss (port : Fin 30)
  /-- UNCORRECTABLE_MEMORY_ERROR (R411). A memory controller or protected store detects an uncorrectable error and reports MEM_UNCORRECTABLE, with unit 6 when there is no requester. -/
  | uncorrectableMemoryError (die : Fin 5) (controller : Byte) (asid : Nat) (who : ErrorAt)
  deriving DecidableEq, Repr

end Sys2Proof
end

