-- ==== Sys2Proof/WellFormed.lean ====
section
/-! DEFINITION. Which terms of `Instr` are instructions of the machine: the conditions that operand types do not carry. -/

namespace Sys2Proof

/-- A context of the module (R11, R17, R99). -/
def CtxId.wf (c : CtxId) : Bool := decide (c.cell < 2048) && decide (c.slot < 32)

/-- A message source names a cell of the module and a payload of at most 16 words whose count is LEN (R103). -/
def MsgSrc.wf (m : MsgSrc) : Bool :=
  match m with
  | .outbound cell _ => decide (cell < 2048)
  | .refused cell _ => decide (cell < 2048)
  | .rejected cell _ => decide (cell < 2048)
  | .peer m0 asid m => decide (m0 < 256) && decide (asid < 65536) && decide (m.len = m.payload.length) && decide (m.cls < 64)

/-- A notice of a peer has a payload of LEN words (R103). -/
def NoticeSrc.wf (n : NoticeSrc) : Bool :=
  match n with
  | .own _ => true
  | .peer asid m => decide (asid < 65536) && decide (m.len = m.payload.length) && decide (m.cls < 64)

/-- An eviction step names a context or a launch slot. -/
def EvictSrc.wf (e : EvictSrc) : Bool :=
  match e with
  | .ctx c => c.wf
  | .request lslot => decide (lslot < 256)

/-- The conditions on operands that the types leave open: R36 (the parcel 0x0000), R39, R244, R269, R294 and R319, and the
ranges of R11, R17 and R19 for moves. -/
def Instr.wf (i : Instr) : Bool :=
  match i with
  | .cLd d b o => !(d.val == 0 && b.val == 0 && o.val == 0)
  | .vpart s _ _ b => s.val != 0 || (match b with | .reg r => decide (r.val ≤ 30) | .lit _ => false)
  | .rpush n _ _ b => n || b.val == 0
  | .mmas _ _ _ q k _ _ _ => decide (k.val ≤ 28) && q.val != 8
  | .mqdrain _ a c => decide (c.val < 2) || a.val == 0
  | .add _ _ _ => true
  | .sub _ _ _ => true
  | .mul _ _ _ => true
  | .mulh _ _ _ => true
  | .mulhn _ _ _ => true
  | .div _ _ _ => true
  | .divn _ _ _ => true
  | .rem _ _ _ => true
  | .remn _ _ _ => true
  | .and _ _ _ => true
  | .or _ _ _ => true
  | .xor _ _ _ => true
  | .andn _ _ _ => true
  | .shl _ _ _ => true
  | .shr _ _ _ => true
  | .sra _ _ _ => true
  | .rol _ _ _ => true
  | .ror _ _ _ => true
  | .min _ _ _ => true
  | .max _ _ _ => true
  | .minn _ _ _ => true
  | .maxn _ _ _ => true
  | .slt _ _ _ => true
  | .sltn _ _ _ => true
  | .seq _ _ _ => true
  | .clz _ _ => true
  | .ctz _ _ => true
  | .popc _ _ => true
  | .bfx _ _ _ => true
  | .bfi _ _ _ => true
  | .brev _ _ => true
  | .bswap _ _ => true
  | .addi _ _ _ => true
  | .andi _ _ _ => true
  | .ori _ _ _ => true
  | .xori _ _ _ => true
  | .slti _ _ _ => true
  | .lui _ _ => true
  | .addpc _ _ => true
  | .beq _ _ _ => true
  | .bne _ _ _ => true
  | .blt _ _ _ => true
  | .bge _ _ _ => true
  | .bltn _ _ _ => true
  | .bgen _ _ _ => true
  | .j _ => true
  | .jal _ => true
  | .jalr _ _ _ => true
  | .ldB _ _ _ _ => true
  | .ldH _ _ _ _ => true
  | .ldW _ _ _ _ => true
  | .ldD _ _ _ _ => true
  | .ldBu _ _ _ _ => true
  | .ldHu _ _ _ _ => true
  | .ldfW _ _ _ _ => true
  | .ldfD _ _ _ _ => true
  | .stB _ _ _ _ => true
  | .stH _ _ _ _ => true
  | .stW _ _ _ _ => true
  | .stD _ _ _ _ => true
  | .stfW _ _ _ _ => true
  | .stfD _ _ _ _ => true
  | .amoadd _ _ _ _ _ => true
  | .amoand _ _ _ _ _ => true
  | .amoor _ _ _ _ _ => true
  | .amoxor _ _ _ _ _ => true
  | .amomin _ _ _ _ _ => true
  | .amomax _ _ _ _ _ => true
  | .amominn _ _ _ _ _ => true
  | .amomaxn _ _ _ _ _ => true
  | .amoswap _ _ _ _ _ => true
  | .amocas _ _ _ _ _ => true
  | .amofaddF32 _ _ _ _ => true
  | .amofminF32 _ _ _ _ => true
  | .amofmaxF32 _ _ _ _ => true
  | .fadd _ _ _ _ _ => true
  | .fsub _ _ _ _ _ => true
  | .fmul _ _ _ _ _ => true
  | .fdiv _ _ _ _ _ => true
  | .fsqrt _ _ _ _ => true
  | .fmin _ _ _ _ => true
  | .fmax _ _ _ _ => true
  | .fabs _ _ _ => true
  | .fneg _ _ _ => true
  | .feq _ _ _ _ => true
  | .flt _ _ _ _ => true
  | .fle _ _ _ _ => true
  | .fclass _ _ _ => true
  | .fcvt _ _ _ _ => true
  | .fmvx _ _ _ => true
  | .fmvf _ _ _ => true
  | .frcpA _ _ _ => true
  | .frsqA _ _ _ => true
  | .fli _ _ => true
  | .fma _ _ _ _ _ => true
  | .fms _ _ _ _ _ => true
  | .fnma _ _ _ _ _ => true
  | .fnms _ _ _ _ _ => true
  | .nop => true
  | .trap _ => true
  | .brk _ => true
  | .csrr _ _ => true
  | .csrw _ _ => true
  | .tmark _ => true
  | .waitc _ _ _ _ => true
  | .fence => true
  | .fenceSc => true
  | .icsync => true
  | .pref _ _ _ => true
  | .cSt _ _ _ => true
  | .cLw _ _ _ => true
  | .cSw _ _ _ => true
  | .cLdfD _ _ _ => true
  | .cStfD _ _ _ => true
  | .cLdfW _ _ _ => true
  | .cStfW _ _ _ => true
  | .cAddi _ _ => true
  | .cLi _ _ => true
  | .cMv _ _ => true
  | .cAdd _ _ => true
  | .cSub _ _ => true
  | .cAnd _ _ => true
  | .cOr _ _ => true
  | .cXor _ _ => true
  | .cJ _ => true
  | .cBeqz _ _ => true
  | .cBnez _ _ => true
  | .cJr _ => true
  | .cFaddW _ _ => true
  | .cFmulW _ _ => true
  | .cFmaW _ _ _ => true
  | .cNop => true
  | .send _ _ _ _ => true
  | .sendv _ _ _ _ => true
  | .reply _ _ _ => true
  | .fwd _ _ _ => true
  | .defer => true
  | .spawn _ _ _ _ => true
  | .migrate _ => true
  | .sdone => true
  | .hcommit => true
  | .hdone => true
  | .exit => true
  | .barr _ _ _ _ => true
  | .launch _ _ _ => true
  | .getm _ _ => true
  | .mbstat _ _ => true
  | .vadd _ _ _ _ => true
  | .vsub _ _ _ _ => true
  | .vmul _ _ _ _ => true
  | .vfma _ _ _ _ => true
  | .vfms _ _ _ _ => true
  | .vmin _ _ _ _ => true
  | .vmax _ _ _ _ => true
  | .vabs _ _ _ => true
  | .vneg _ _ _ => true
  | .vand _ _ _ _ => true
  | .vor _ _ _ _ => true
  | .vxor _ _ _ _ => true
  | .vshl _ _ _ _ => true
  | .vshr _ _ _ _ => true
  | .vsra _ _ _ _ => true
  | .vcmp _ _ _ _ _ => true
  | .vsel _ _ _ _ => true
  | .vkopAnd _ _ _ => true
  | .vkopOr _ _ _ => true
  | .vkopXor _ _ _ => true
  | .vkopAndn _ _ _ => true
  | .vkopNot _ _ => true
  | .vkopPopc _ _ => true
  | .vkopSplat _ _ => true
  | .vkopFromx _ _ => true
  | .view _ _ => true
  | .views _ _ => true
  | .vmkv _ _ _ _ => true
  | .vbind _ _ => true
  | .vunbind _ => true
  | .vld _ _ _ => true
  | .vst _ _ _ => true
  | .vmov _ _ _ => true
  | .vbcast _ _ _ => true
  | .vgather _ _ _ => true
  | .vscatter _ _ _ => true
  | .vaccrd _ _ _ _ => true
  | .vaccrdPeek _ _ _ _ => true
  | .vaccwr _ _ _ _ => true
  | .vcvt _ _ _ _ _ => true
  | .vcvtSr _ _ _ _ => true
  | .vqmx _ _ => true
  | .vdq _ _ => true
  | .vrcpA _ _ _ => true
  | .vrsqA _ _ _ => true
  | .vrsq _ _ _ => true
  | .vsqrt _ _ _ => true
  | .vdiv _ _ _ _ => true
  | .vexp2 _ _ _ => true
  | .vlog2 _ _ _ => true
  | .vtanh _ _ _ => true
  | .vred _ _ _ _ => true
  | .vscan _ _ _ _ => true
  | .vnorm _ _ _ _ => true
  | .vtopk _ _ _ _ => true
  | .vrand _ _ _ => true
  | .rndk _ _ _ => true
  | .mma _ _ _ _ _ _ _ => true
  | .accz _ => true
  | .accstat _ _ => true
  | .ringcfg _ _ => true
  | .ringst _ _ _ => true
  | .rpop _ _ => true
  | .mqpri _ _ _ => true
  | .cpset _ _ => true
  | .cpget _ _ => true
  | .cpgo _ _ => true
  | .cpfol _ => true
  | .wtagAll _ _ => true
  | .wtagAny _ _ => true
  | .ffr _ _ => true
  | .tagst _ _ => true
  | .cpcan _ _ => true
  | .gdecl _ _ => true
  | .gldW _ _ _ => true
  | .gldF _ _ _ => true
  | .gst _ _ => true
  | .hstep _ _ => true
  | .hrel _ _ => true
  | .hwait _ _ => true
  | .gqry _ _ _ => true
  | .ggather _ _ _ => true
  | .gscat _ _ _ _ => true
  | .kdetach => true
  | .kstat _ _ => true
  | .nred _ _ _ _ => true
  | .nredNd _ _ _ _ => true
  | .nstat _ _ => true
  | .reservedEncoding _ => true
  | .handlerEntry c => c.wf
  | .watchdogExpiry c => c.wf
  | .breakpointHalt c => c.wf
  | .registrationMove cell _ => decide (cell < 2048)
  | .gatewayQueueDelivery _ _ => true
  | .loadValueReturn c _ => c.wf
  | .releasePerformed c => c.wf
  | .atomicAtHome c => c.wf
  | .translationWalk cluster asid _ _ => decide (cluster < 512) && decide (asid < 65536)
  | .tlbInvalidationDone => true
  | .bankModeMove cluster _ => decide (cluster < 512)
  | .vectorRowFill c _ => c.wf
  | .messageArrival src => src.wf
  | .refusedMessageRetry cell _ => decide (cell < 2048)
  | .noticeArrival src => src.wf
  | .strandArrival src => src.wf
  | .strandResumption c => c.wf
  | .sectionCommitComplete c => c.wf
  | .machineCheck c => c.wf
  | .spawnCountRequest _ _ => true
  | .spawnCountAnswer c => c.wf
  | .spawnDecrementArrival _ _ => true
  | .barrierArrival _ _ => true
  | .emeOperationStart cluster _ => decide (cluster < 512)
  | .emeKStep cluster => decide (cluster < 512)
  | .acczRun cluster _ => decide (cluster < 512)
  | .rpopRetire cluster _ => decide (cluster < 512)
  | .copyChunk cluster _ => decide (cluster < 512)
  | .ringTilePush cluster _ => decide (cluster < 512)
  | .demandSliceFetch cluster _ => decide (cluster < 512)
  | .copyTransferCompletion cluster _ => decide (cluster < 512)
  | .haloStripArrival cluster src => decide (cluster < 512) && (match src with | .peer m _ => decide (m < 256) | _ => true)
  | .haloStripRetry cluster _ => decide (cluster < 512)
  | .gridActiveMessage cluster _ => decide (cluster < 512)
  | .gatherLaneReturn c _ => c.wf
  | .queueTailObservation _ => true
  | .launchSelection => true
  | .launchRequestAppend _ => true
  | .groupPlacement lslot _ _ => decide (lslot < 256)
  | .gangReserve _ => true
  | .gangReserveAnswer lslot _ _ => decide (lslot < 256)
  | .gangCommit lslot _ _ => decide (lslot < 256)
  | .gangAbandon lslot => decide (lslot < 256)
  | .contextEviction src => src.wf
  | .evictionSharedSave lslot _ => decide (lslot < 256)
  | .rePlacement lslot _ _ => decide (lslot < 256)
  | .groupRetirement lslot _ _ _ => decide (lslot < 256)
  | .faultRecordDelivery _ => true
  | .breakpointBroadcastDone => true
  | .timingDumpDone _ => true
  | .flitReceive _ _ _ => true
  | .lendPeriod _ => true
  | .lendReceived _ _ _ => true
  | .lendAckReceived _ _ => true
  | .creditReturn _ _ _ => true
  | .keySwitch _ => true
  | .linkKeyInstall _ _ _ _ => true
  | .capabilityRelay module _ => decide (module < 256)
  | .keystoneRequestServe _ _ => true
  | .windowCollapse lslot _ _ => decide (lslot < 256)
  | .nredContributionArrival _ _ _ => true
  | .ethernetRdmaWrite _ _ _ => true
  | .checkpointStream cluster _ _ => decide (cluster < 512)
  | .powerOn => true
  | .bringupStep _ _ => true
  | .runtimeMarkOut _ _ => true
  | .journalErase => true
  | .attestationQuote _ _ => true
  | .throttleStep _ _ _ => true
  | .csmodeWrite cluster _ => decide (cluster < 512)
  | .trespRetry _ _ _ => true
  | .trespFatal _ _ _ => true
  | .hbmCounterClear _ => true
  | .tlbinvAll => true
  | .tlbinvAsid asid => decide (asid < 65536)
  | .tlbinvPage asid => decide (asid < 65536)
  | .actctlResume _ _ _ _ => true
  | .actctlSkip _ _ _ _ => true
  | .actctlEnd _ _ _ _ => true
  | .notectl _ _ _ => true
  | .heldNoticeSend _ => true
  | .cpctlReplay _ _ => true
  | .cpctlComplete _ _ _ => true
  | .lcancel _ asid lslot => decide (asid < 65536) && decide (lslot < 256)
  | .bpctlWrite _ _ => true
  | .dbgctlResume _ _ _ _ => true
  | .dbgctlStep _ _ _ _ => true
  | .dbgctlHaltRequest _ _ _ _ => true
  | .dbgctlAbort _ _ _ _ => true
  | .ttdump _ _ _ => true
  | .registerWrite _ _ _ => true
  | .powerOff _ => true
  | .ryoftLinkLoss _ => true
  | .uncorrectableMemoryError _ _ asid _ => decide (asid < 65536)

end Sys2Proof
end

