-- ==== Sys2Proof/Decode.lean ====
section
/-! DEFINITION. Instruction words to instructions (R27 to R40, with the field rules of each chapter), total on any parcels
and rejecting by name; the encoder from the same tables; and the two views the host asks for. Every rejection is the
ILLEGAL_OP of the spec: the step hands a rejected word to the row RESERVED_ENCODING. -/

namespace Sys2Proof

/-- Why parcels are no instruction. All of them raise ILLEGAL_OP. -/
inductive DecodeError where
  /-- The instruction, with its literal, extends past the parcels given: past the end of its code block (R29). -/
  | truncated
  /-- The parcel 0x0000, or a compact parcel whose zero fields are not zero (R36). -/
  | reservedCompact
  /-- A reserved major opcode (R37). -/
  | reservedMajor
  /-- An op8, op7, op5, func6, size, order, cond, pair or type code the tables leave unassigned (R38, R236). -/
  | reservedOp
  /-- A field the instruction does not use is not zero (R32). -/
  | nonZeroField
  /-- L = 1 where no literal is taken, or a literal over a field that is not zero (R28, R39). -/
  | badLiteral
  /-- C = 1 where operand b is no scalar value, or together with L = 1 (R34, R39). -/
  | badBank
  /-- A field names a register, slot or code beyond its file or table (R40, R38). -/
  | outOfRange
  deriving DecidableEq, Repr

/-- Bits hi:lo of a word. -/
def fld (w hi lo : Nat) : Nat := w / 2 ^ lo % 2 ^ (hi - lo + 1)

/-- The field of n values at bit lo; n is a power of two. -/
def finAt (n : Nat) [NeZero n] (w lo : Nat) : Fin n := Fin.ofNat n (w / 2 ^ lo)

/-- The 5-bit register field at bit lo. -/
def regAt (w lo : Nat) : Reg := finAt 32 w lo

/-- The single bit at bit lo. -/
def bitAt (w lo : Nat) : Bool := w / 2 ^ lo % 2 == 1

/-- A value that must name one of n entries (R40, R38). -/
def finIn (n v : Nat) : Except DecodeError (Fin n) :=
  if h : v < n then .ok ⟨v, h⟩ else .error .outOfRange

/-- A condition on the encoding. -/
def need (c : Bool) (e : DecodeError) : Except DecodeError Unit := if c then .ok () else .error e

/-- Operand b of RRR (R28, R34): register, bank entry or literal. -/
def opB (w : Nat) (lit : Option Word32) : Except DecodeError OpB :=
  match lit with
  | some v => if fld w 23 23 = 1 then .error .badBank else if fld w 22 18 = 0 then .ok (.lit v) else .error .badLiteral
  | none => if fld w 23 23 = 1 then .ok (.bank (regAt w 18)) else .ok (.reg (regAt w 18))

/-- Operand b where no bank entry exists: majors 0x0E and 0x11, and the V format. -/
def opL (w : Nat) (lit : Option Word32) : Except DecodeError OpL :=
  match lit with
  | some v => if fld w 22 18 = 0 then .ok (.lit v) else .error .badLiteral
  | none => .ok (.reg (regAt w 18))

/-- An instruction that takes no literal. -/
def noLit (lit : Option Word32) : Except DecodeError Unit := need lit.isNone .badLiteral

/-- An instruction of RRR that reads no operand b: b, C and L are zero. -/
def noB (w : Nat) (lit : Option Word32) : Except DecodeError Unit := do
  noLit lit
  need (fld w 23 23 == 0) .badBank
  need (fld w 22 18 == 0) .nonZeroField

/-- An instruction whose b field carries a code: no C, no literal. -/
def codeB (w : Nat) (lit : Option Word32) : Except DecodeError Unit := do
  noLit lit
  need (fld w 23 23 == 0) .badBank

/-- An immediate field of n bits at bit lo, or the literal that replaces it. -/
def immAt (n : Nat) (w lo : Nat) (lit : Option Word32) : Except DecodeError (Imm n) :=
  match lit with
  | some v => if w / 2 ^ lo % 2 ^ n = 0 then .ok (.lit v) else .error .badLiteral
  | none => .ok (.imm (BitVec.ofNat n (w / 2 ^ lo)))

/-- The field hi:lo must be zero (R32). -/
def zero (w hi lo : Nat) : Except DecodeError Unit := need (fld w hi lo == 0) .nonZeroField

/-- The P bit. -/
def precOf (b : Bool) : Prec := if b then .d else .w

/-- The rm field. -/
def rmOf (n : Nat) : RmField := match n with | 0 => .frm | 1 => .rtz | 2 => .rup | _ => .rdn

/-- The order field of an atomic. -/
def amoOrdOf (n : Nat) : AmoOrder := match n with | 0 => .rlx | 1 => .acq | 2 => .rel | _ => .ar

/-- Major 0x00, SYS (Table 2.7). -/
def decodeSys (w : Nat) (lit : Option Word32) : Except DecodeError Instr :=
  match fld w 31 27 with
  | 0 => do noLit lit; zero w 26 8; .ok .nop
  | 1 => do noLit lit; zero w 26 24; .ok (.trap (BitVec.ofNat 16 (w / 2 ^ 8)))
  | 2 => do noLit lit; zero w 26 24; .ok (.brk (BitVec.ofNat 16 (w / 2 ^ 8)))
  | 3 => do noLit lit; zero w 26 25; .ok (.csrr (regAt w 8) (BitVec.ofNat 12 (w / 2 ^ 13)))
  | 4 => do noLit lit; zero w 26 25; .ok (.csrw (BitVec.ofNat 12 (w / 2 ^ 13)) (regAt w 8))
  | 5 => do noLit lit; zero w 26 24; .ok (.tmark (BitVec.ofNat 16 (w / 2 ^ 8)))
  | 6 => do noLit lit; zero w 26 24; .ok (.waitc (finAt 16 w 8) (finAt 16 w 12) (finAt 16 w 16) (finAt 16 w 20))
  | 7 => do noLit lit; zero w 26 8; .ok .fence
  | 8 => do noLit lit; zero w 26 8; .ok .fenceSc
  | 9 => do noLit lit; zero w 26 8; .ok .icsync
  | 10 => do
    zero w 12 10
    let h ← finIn 3 (fld w 9 8)
    let i ← immAt 9 w 18 lit
    .ok (.pref (regAt w 13) i h)
  | _ => .error .reservedOp

/-- Major 0x01, integer (Table 2.6). -/
def decodeInt (w : Nat) (lit : Option Word32) : Except DecodeError Instr :=
  match fld w 31 24 with
  | 0 => do let b ← opB w lit; .ok (.add (regAt w 8) (regAt w 13) b)
  | 1 => do let b ← opB w lit; .ok (.sub (regAt w 8) (regAt w 13) b)
  | 2 => do let b ← opB w lit; .ok (.mul (regAt w 8) (regAt w 13) b)
  | 3 => do let b ← opB w lit; .ok (.mulh (regAt w 8) (regAt w 13) b)
  | 4 => do let b ← opB w lit; .ok (.mulhn (regAt w 8) (regAt w 13) b)
  | 5 => do let b ← opB w lit; .ok (.div (regAt w 8) (regAt w 13) b)
  | 6 => do let b ← opB w lit; .ok (.divn (regAt w 8) (regAt w 13) b)
  | 7 => do let b ← opB w lit; .ok (.rem (regAt w 8) (regAt w 13) b)
  | 8 => do let b ← opB w lit; .ok (.remn (regAt w 8) (regAt w 13) b)
  | 9 => do let b ← opB w lit; .ok (.and (regAt w 8) (regAt w 13) b)
  | 10 => do let b ← opB w lit; .ok (.or (regAt w 8) (regAt w 13) b)
  | 11 => do let b ← opB w lit; .ok (.xor (regAt w 8) (regAt w 13) b)
  | 12 => do let b ← opB w lit; .ok (.andn (regAt w 8) (regAt w 13) b)
  | 13 => do let b ← opB w lit; .ok (.shl (regAt w 8) (regAt w 13) b)
  | 14 => do let b ← opB w lit; .ok (.shr (regAt w 8) (regAt w 13) b)
  | 15 => do let b ← opB w lit; .ok (.sra (regAt w 8) (regAt w 13) b)
  | 16 => do let b ← opB w lit; .ok (.rol (regAt w 8) (regAt w 13) b)
  | 17 => do let b ← opB w lit; .ok (.ror (regAt w 8) (regAt w 13) b)
  | 18 => do let b ← opB w lit; .ok (.min (regAt w 8) (regAt w 13) b)
  | 19 => do let b ← opB w lit; .ok (.max (regAt w 8) (regAt w 13) b)
  | 20 => do let b ← opB w lit; .ok (.minn (regAt w 8) (regAt w 13) b)
  | 21 => do let b ← opB w lit; .ok (.maxn (regAt w 8) (regAt w 13) b)
  | 22 => do let b ← opB w lit; .ok (.slt (regAt w 8) (regAt w 13) b)
  | 23 => do let b ← opB w lit; .ok (.sltn (regAt w 8) (regAt w 13) b)
  | 24 => do let b ← opB w lit; .ok (.seq (regAt w 8) (regAt w 13) b)
  | 25 => do noB w lit; .ok (.clz (regAt w 8) (regAt w 13))
  | 26 => do noB w lit; .ok (.ctz (regAt w 8) (regAt w 13))
  | 27 => do noB w lit; .ok (.popc (regAt w 8) (regAt w 13))
  | 28 => do let b ← opB w lit; .ok (.bfx (regAt w 8) (regAt w 13) b)
  | 29 => do let b ← opB w lit; .ok (.bfi (regAt w 8) (regAt w 13) b)
  | 30 => do noB w lit; .ok (.brev (regAt w 8) (regAt w 13))
  | 31 => do noB w lit; .ok (.bswap (regAt w 8) (regAt w 13))
  | _ => .error .reservedOp

/-- Major 0x09, branches (Table 2.8). -/
def decodeBranch (w : Nat) (lit : Option Word32) : Except DecodeError Instr :=
  match fld w 20 18 with
  | 0 => do let i ← immAt 11 w 21 lit; .ok (.beq (regAt w 8) (regAt w 13) i)
  | 1 => do let i ← immAt 11 w 21 lit; .ok (.bne (regAt w 8) (regAt w 13) i)
  | 2 => do let i ← immAt 11 w 21 lit; .ok (.blt (regAt w 8) (regAt w 13) i)
  | 3 => do let i ← immAt 11 w 21 lit; .ok (.bge (regAt w 8) (regAt w 13) i)
  | 4 => do let i ← immAt 11 w 21 lit; .ok (.bltn (regAt w 8) (regAt w 13) i)
  | 5 => do let i ← immAt 11 w 21 lit; .ok (.bgen (regAt w 8) (regAt w 13) i)
  | _ => .error .reservedOp

/-- Major 0x0C, LOAD (Table 2.9): order 0 is plain, 1 is .acq. -/
def decodeLoad (w : Nat) (lit : Option Word32) : Except DecodeError Instr := do
  need (fld w 22 22 == 0) .reservedOp
  let i ← immAt 9 w 23 lit
  match fld w 20 18 with
  | 0 => .ok (.ldB (regAt w 8) (regAt w 13) i (bitAt w 21))
  | 1 => .ok (.ldH (regAt w 8) (regAt w 13) i (bitAt w 21))
  | 2 => .ok (.ldW (regAt w 8) (regAt w 13) i (bitAt w 21))
  | 3 => .ok (.ldD (regAt w 8) (regAt w 13) i (bitAt w 21))
  | 4 => .ok (.ldBu (regAt w 8) (regAt w 13) i (bitAt w 21))
  | 5 => .ok (.ldHu (regAt w 8) (regAt w 13) i (bitAt w 21))
  | 6 => .ok (.ldfW (regAt w 8) (regAt w 13) i (bitAt w 21))
  | _ => .ok (.ldfD (regAt w 8) (regAt w 13) i (bitAt w 21))

/-- The order field of STORE: 0 plain, 2 .rel, 3 .now (Table 2.9). -/
def stOrdOf (n : Nat) : Except DecodeError StOrder :=
  match n with
  | 0 => .ok .plain
  | 2 => .ok .rel
  | 3 => .ok .now
  | _ => .error .reservedOp

/-- Major 0x0D, STORE (Table 2.9). -/
def decodeStore (w : Nat) (lit : Option Word32) : Except DecodeError Instr := do
  let o ← stOrdOf (fld w 22 21)
  let i ← immAt 9 w 23 lit
  match fld w 20 18 with
  | 0 => .ok (.stB (regAt w 8) (regAt w 13) i o)
  | 1 => .ok (.stH (regAt w 8) (regAt w 13) i o)
  | 2 => .ok (.stW (regAt w 8) (regAt w 13) i o)
  | 3 => .ok (.stD (regAt w 8) (regAt w 13) i o)
  | 6 => .ok (.stfW (regAt w 8) (regAt w 13) i o)
  | 7 => .ok (.stfD (regAt w 8) (regAt w 13) i o)
  | _ => .error .reservedOp

/-- Major 0x0E, atomics (Table 2.10). -/
def decodeAmo (w : Nat) (lit : Option Word32) : Except DecodeError Instr := do
  zero w 31 30
  let b ← opL w lit
  let z := bitAt w 29
  let o := amoOrdOf (fld w 28 27)
  match fld w 26 23 with
  | 0 => .ok (.amoadd z o (regAt w 8) (regAt w 13) b)
  | 1 => .ok (.amoand z o (regAt w 8) (regAt w 13) b)
  | 2 => .ok (.amoor z o (regAt w 8) (regAt w 13) b)
  | 3 => .ok (.amoxor z o (regAt w 8) (regAt w 13) b)
  | 4 => .ok (.amomin z o (regAt w 8) (regAt w 13) b)
  | 5 => .ok (.amomax z o (regAt w 8) (regAt w 13) b)
  | 6 => .ok (.amominn z o (regAt w 8) (regAt w 13) b)
  | 7 => .ok (.amomaxn z o (regAt w 8) (regAt w 13) b)
  | 8 => .ok (.amoswap z o (regAt w 8) (regAt w 13) b)
  | 9 => .ok (.amocas z o (regAt w 8) (regAt w 13) b)
  | 10 => do need (!z) .reservedOp; .ok (.amofaddF32 o (regAt w 8) (regAt w 13) b)
  | 11 => do need (!z) .reservedOp; .ok (.amofminF32 o (regAt w 8) (regAt w 13) b)
  | 12 => do need (!z) .reservedOp; .ok (.amofmaxF32 o (regAt w 8) (regAt w 13) b)
  | _ => .error .reservedOp

/-- Major 0x0F, scalar floating point (Table 2.11). -/
def decodeFp (w : Nat) (lit : Option Word32) : Except DecodeError Instr :=
  let p := precOf (bitAt w 26)
  let rm := rmOf (fld w 25 24)
  let rm0 := need (fld w 25 24 == 0) .reservedOp
  match fld w 31 27 with
  | 0 => do let b ← opB w lit; .ok (.fadd p rm (regAt w 8) (regAt w 13) b)
  | 1 => do let b ← opB w lit; .ok (.fsub p rm (regAt w 8) (regAt w 13) b)
  | 2 => do let b ← opB w lit; .ok (.fmul p rm (regAt w 8) (regAt w 13) b)
  | 3 => do let b ← opB w lit; .ok (.fdiv p rm (regAt w 8) (regAt w 13) b)
  | 4 => do noB w lit; .ok (.fsqrt p rm (regAt w 8) (regAt w 13))
  | 5 => do rm0; let b ← opB w lit; .ok (.fmin p (regAt w 8) (regAt w 13) b)
  | 6 => do rm0; let b ← opB w lit; .ok (.fmax p (regAt w 8) (regAt w 13) b)
  | 7 => do rm0; noB w lit; .ok (.fabs p (regAt w 8) (regAt w 13))
  | 8 => do rm0; noB w lit; .ok (.fneg p (regAt w 8) (regAt w 13))
  | 9 => do rm0; let b ← opB w lit; .ok (.feq p (regAt w 8) (regAt w 13) b)
  | 10 => do rm0; let b ← opB w lit; .ok (.flt p (regAt w 8) (regAt w 13) b)
  | 11 => do rm0; let b ← opB w lit; .ok (.fle p (regAt w 8) (regAt w 13) b)
  | 12 => do rm0; noB w lit; .ok (.fclass p (regAt w 8) (regAt w 13))
  | 13 => do codeB w lit; need (!bitAt w 26) .reservedOp; let c ← finIn 16 (fld w 22 18); .ok (.fcvt rm c (regAt w 8) (regAt w 13))
  | 14 => do rm0; noB w lit; .ok (.fmvx p (regAt w 8) (regAt w 13))
  | 15 => do rm0; noB w lit; .ok (.fmvf p (regAt w 8) (regAt w 13))
  | 16 => do rm0; noB w lit; .ok (.frcpA p (regAt w 8) (regAt w 13))
  | 17 => do rm0; noB w lit; .ok (.frsqA p (regAt w 8) (regAt w 13))
  | _ => .error .reservedOp

/-- Operand c of RRRR (R34). -/
def opC (w : Nat) : OpC := if fld w 28 28 = 1 then .bank (regAt w 23) else .reg (regAt w 23)

/-- Major 0x11, the FMA family. -/
def decodeFma (w : Nat) (lit : Option Word32) : Except DecodeError Instr := do
  let b ← opL w lit
  let p := precOf (bitAt w 29)
  match fld w 31 30 with
  | 0 => .ok (.fma p (regAt w 8) (regAt w 13) b (opC w))
  | 1 => .ok (.fms p (regAt w 8) (regAt w 13) b (opC w))
  | 2 => .ok (.fnma p (regAt w 8) (regAt w 13) b (opC w))
  | _ => .ok (.fnms p (regAt w 8) (regAt w 13) b (opC w))

/-- Major 0x12, messages, sections, strands and barriers (Table 7.1). -/
def decodeMsg (w : Nat) (lit : Option Word32) : Except DecodeError Instr :=
  let now := bitAt w 31
  let n0 := need (!now) .reservedOp
  match fld w 30 24 with
  | 0 => do let b ← opB w lit; .ok (.send now (regAt w 8) (regAt w 13) b)
  | 1 => do let b ← opB w lit; .ok (.sendv now (regAt w 8) (regAt w 13) b)
  | 2 => do zero w 17 13; let b ← opB w lit; .ok (.reply now (regAt w 8) b)
  | 3 => do zero w 12 8; let b ← opB w lit; .ok (.fwd now (regAt w 13) b)
  | 4 => do n0; noB w lit; zero w 17 8; .ok .defer
  | 5 => do let b ← opB w lit; .ok (.spawn now (regAt w 8) (regAt w 13) b)
  | 6 => do n0; noB w lit; zero w 12 8; .ok (.migrate (regAt w 13))
  | 7 => do n0; noB w lit; zero w 17 8; .ok .sdone
  | 8 => do n0; noB w lit; zero w 17 8; .ok .hcommit
  | 9 => do n0; noB w lit; zero w 17 8; .ok .hdone
  | 10 => do n0; noB w lit; zero w 17 8; .ok .exit
  | 11 => do
    n0; zero w 12 12
    let op ← finIn 5 (fld w 10 8)
    let n ← finIn 16 (fld w 17 13)
    let b ← opB w lit
    .ok (.barr (bitAt w 11) op n b)
  | 12 => do zero w 12 8; let b ← opB w lit; .ok (.launch now (regAt w 13) b)
  | 13 => do n0; noB w lit; let n ← finIn 16 (fld w 17 13); .ok (.getm (regAt w 8) n)
  | 14 => do n0; noB w lit; let n ← finIn 8 (fld w 17 13); .ok (.mbstat (regAt w 8) n)
  | _ => .error .reservedOp

/-- VKOP, its operation in the type field (Table 12.4). -/
def decodeVkop (w : Nat) (lit : Option Word32) : Except DecodeError Instr := do
  noLit lit
  let kd := finIn 8 (fld w 12 8)
  let ka := finIn 8 (fld w 17 13)
  let kb := finIn 8 (fld w 22 18)
  match fld w 25 23 with
  | 0 => do let d ← kd; let a ← ka; let b ← kb; .ok (.vkopAnd d a b)
  | 1 => do let d ← kd; let a ← ka; let b ← kb; .ok (.vkopOr d a b)
  | 2 => do let d ← kd; let a ← ka; let b ← kb; .ok (.vkopXor d a b)
  | 3 => do let d ← kd; let a ← ka; let b ← kb; .ok (.vkopAndn d a b)
  | 4 => do zero w 22 18; let d ← kd; let a ← ka; .ok (.vkopNot d a)
  | 5 => do zero w 22 18; let a ← ka; .ok (.vkopPopc (regAt w 8) a)
  | 6 => do zero w 22 18; let d ← kd; .ok (.vkopSplat d (regAt w 13))
  | _ => do zero w 22 18; let d ← kd; .ok (.vkopFromx d (regAt w 13))

/-- Major 0x13, element-wise arithmetic, compare, select and masks (Tables 12.3, 12.4). -/
def decodeV13 (w : Nat) (lit : Option Word32) : Except DecodeError Instr :=
  let t := finAt 8 w 23
  match fld w 31 26 with
  | 0 => do let b ← opL w lit; .ok (.vadd t (regAt w 8) (regAt w 13) b)
  | 1 => do let b ← opL w lit; .ok (.vsub t (regAt w 8) (regAt w 13) b)
  | 2 => do let b ← opL w lit; .ok (.vmul t (regAt w 8) (regAt w 13) b)
  | 3 => do let b ← opL w lit; .ok (.vfma t (regAt w 8) (regAt w 13) b)
  | 4 => do let b ← opL w lit; .ok (.vfms t (regAt w 8) (regAt w 13) b)
  | 5 => do let b ← opL w lit; .ok (.vmin t (regAt w 8) (regAt w 13) b)
  | 6 => do let b ← opL w lit; .ok (.vmax t (regAt w 8) (regAt w 13) b)
  | 7 => do noLit lit; zero w 22 18; .ok (.vabs t (regAt w 8) (regAt w 13))
  | 8 => do noLit lit; zero w 22 18; .ok (.vneg t (regAt w 8) (regAt w 13))
  | 9 => do let b ← opL w lit; .ok (.vand t (regAt w 8) (regAt w 13) b)
  | 10 => do let b ← opL w lit; .ok (.vor t (regAt w 8) (regAt w 13) b)
  | 11 => do let b ← opL w lit; .ok (.vxor t (regAt w 8) (regAt w 13) b)
  | 12 => do let b ← opL w lit; .ok (.vshl t (regAt w 8) (regAt w 13) b)
  | 13 => do let b ← opL w lit; .ok (.vshr t (regAt w 8) (regAt w 13) b)
  | 14 => do let b ← opL w lit; .ok (.vsra t (regAt w 8) (regAt w 13) b)
  | 15 => do noLit lit; .ok (.vcmp t (finAt 4 w 11) (finAt 8 w 8) (regAt w 13) (regAt w 18))
  | 16 => do noLit lit; let k ← finIn 8 (fld w 22 18); .ok (.vsel t (regAt w 8) (regAt w 13) k)
  | 17 => decodeVkop w lit
  | _ => .error .reservedOp

/-- Major 0x14, views, moves, gathers, accumulators and rings (Tables 12.2, 12.2a, R264 to R269). -/
def decodeV14 (w : Nat) (lit : Option Word32) : Except DecodeError Instr :=
  let t := finAt 8 w 23
  let t0 := zero w 25 23
  let td := finIn 16 (fld w 12 8)
  let ta := finIn 16 (fld w 17 13)
  match fld w 31 26 with
  | 0 => do noLit lit; t0; zero w 22 18; let d ← td; .ok (.view d (regAt w 13))
  | 1 => do noLit lit; t0; zero w 22 18; let d ← td; .ok (.views d (regAt w 13))
  | 2 => do let d ← td; let b ← opL w lit; .ok (.vmkv t d (regAt w 13) b)
  | 3 => do
    let d ← td; let a ← ta; let b ← opL w lit
    let s ← finIn 3 (fld w 25 23)
    need (s.val != 0 || (lit.isNone && decide (fld w 22 18 ≤ 30))) .outOfRange
    .ok (.vpart s d a b)
  | 4 => do noLit lit; t0; zero w 22 18; let a ← ta; .ok (.vbind (regAt w 8) a)
  | 5 => do noLit lit; t0; zero w 22 13; .ok (.vunbind (regAt w 8))
  | 6 => do t0; let a ← ta; let b ← opL w lit; .ok (.vld (regAt w 8) a b)
  | 7 => do t0; let a ← ta; let b ← opL w lit; .ok (.vst (regAt w 8) a b)
  | 8 => do noLit lit; zero w 22 18; .ok (.vmov t (regAt w 8) (regAt w 13))
  | 9 =>
    match lit with
    | some v => do zero w 22 13; .ok (.vbcast t (regAt w 8) (.lit v))
    | none => do zero w 22 18; .ok (.vbcast t (regAt w 8) (.reg (regAt w 13)))
  | 10 => do noLit lit; zero w 22 18; .ok (.vgather t (regAt w 8) (regAt w 13))
  | 11 => do noLit lit; zero w 22 18; .ok (.vscatter t (regAt w 8) (regAt w 13))
  | 12 => do let a ← ta; let b ← opL w lit; .ok (.vaccrd t (regAt w 8) a b)
  | 13 => do let a ← ta; let b ← opL w lit; .ok (.vaccrdPeek t (regAt w 8) a b)
  | 14 => do let a ← ta; let b ← opL w lit; .ok (.vaccwr t (regAt w 8) a b)
  | 15 => do
    noLit lit
    zero w 25 24
    let r ← finIn 8 (fld w 12 8)
    need (bitAt w 23 || fld w 22 18 == 0) .nonZeroField
    .ok (.rpush (bitAt w 23) r (regAt w 13) (regAt w 18))
  | _ => .error .reservedOp

/-- Major 0x15, conversions and functions (R253 to R257). -/
def decodeV15 (w : Nat) (lit : Option Word32) : Except DecodeError Instr :=
  let t := finAt 8 w 23
  match fld w 31 26 with
  | 0 => do noLit lit; .ok (.vcvt t (finAt 16 w 18) (bitAt w 22) (regAt w 8) (regAt w 13))
  | 1 => do let b ← opL w lit; .ok (.vcvtSr t (regAt w 8) (regAt w 13) b)
  | 2 => do noLit lit; zero w 25 18; .ok (.vqmx (regAt w 8) (regAt w 13))
  | 3 => do noLit lit; zero w 25 18; .ok (.vdq (regAt w 8) (regAt w 13))
  | 4 => do noLit lit; zero w 22 18; .ok (.vrcpA t (regAt w 8) (regAt w 13))
  | 5 => do noLit lit; zero w 22 18; .ok (.vrsqA t (regAt w 8) (regAt w 13))
  | 6 => do noLit lit; zero w 22 18; .ok (.vrsq t (regAt w 8) (regAt w 13))
  | 7 => do noLit lit; zero w 22 18; .ok (.vsqrt t (regAt w 8) (regAt w 13))
  | 8 => do let b ← opL w lit; .ok (.vdiv t (regAt w 8) (regAt w 13) b)
  | 9 => do noLit lit; zero w 22 18; .ok (.vexp2 t (regAt w 8) (regAt w 13))
  | 10 => do noLit lit; zero w 22 18; .ok (.vlog2 t (regAt w 8) (regAt w 13))
  | 11 => do noLit lit; zero w 22 18; .ok (.vtanh t (regAt w 8) (regAt w 13))
  | _ => .error .reservedOp

/-- Major 0x16, reductions, scans, norms, selection and random bits (R258 to R263). -/
def decodeV16 (w : Nat) (lit : Option Word32) : Except DecodeError Instr :=
  let t := finAt 8 w 23
  match fld w 31 26 with
  | 0 => do noLit lit; let c ← finIn 4 (fld w 22 18); .ok (.vred t c (regAt w 8) (regAt w 13))
  | 1 => do noLit lit; let c ← finIn 3 (fld w 22 18); .ok (.vscan t c (regAt w 8) (regAt w 13))
  | 2 => do noLit lit; let c ← finIn 6 (fld w 22 18); .ok (.vnorm t c (regAt w 8) (regAt w 13))
  | 3 => do noLit lit; .ok (.vtopk t (regAt w 8) (regAt w 13) (regAt w 18))
  | 4 => do zero w 17 13; let b ← opL w lit; .ok (.vrand t (regAt w 8) b)
  | 5 => do zero w 25 23; let b ← opL w lit; .ok (.rndk (regAt w 8) (regAt w 13) b)
  | _ => .error .reservedOp

/-- Major 0x17, MMA and MMAS (R302, R39). -/
def decodeMma (w : Nat) (lit : Option Word32) : Except DecodeError Instr := do
  noLit lit
  let pair ← finIn 10 (fld w 26 23)
  if bitAt w 27 then
    need (fld w 22 18 ≤ 28 && pair.val != 8) .reservedOp
    .ok (.mmas (finAt 4 w 30) (bitAt w 29) (bitAt w 28) pair (regAt w 18) (finAt 8 w 15) (finAt 8 w 12) (finAt 16 w 8))
  else
    need (!bitAt w 29) .reservedOp
    .ok (.mma (finAt 4 w 30) (bitAt w 28) pair (regAt w 18) (finAt 8 w 15) (finAt 8 w 12) (finAt 16 w 8))

/-- Major 0x18, matrix control (Table 16.5). -/
def decodeMat (w : Nat) (lit : Option Word32) : Except DecodeError Instr :=
  let acc := finIn 16 (fld w 17 13)
  let ring := finIn 8 (fld w 17 13)
  match fld w 31 24 with
  | 0 => do noB w lit; zero w 12 8; let a ← acc; .ok (.accz a)
  | 1 => do noB w lit; let a ← acc; .ok (.accstat (regAt w 8) a)
  | 2 => do zero w 12 8; let r ← ring; let b ← opB w lit; .ok (.ringcfg r b)
  | 3 => do codeB w lit; let r ← ring; let c ← finIn 2 (fld w 22 18); .ok (.ringst (regAt w 8) r c)
  | 4 => do zero w 12 8; let r ← ring; let b ← opB w lit; .ok (.rpop r b)
  | 5 => do let a ← acc; let b ← opB w lit; .ok (.mqpri (regAt w 8) a b)
  | 6 => do
    codeB w lit
    let a ← acc
    let c ← finIn 4 (fld w 22 18)
    need (c.val < 2 || a.val == 0) .nonZeroField
    .ok (.mqdrain (regAt w 8) a c)
  | _ => .error .reservedOp

/-- Major 0x19, the copy engine (Table 17.6). -/
def decodeCopy (w : Nat) (lit : Option Word32) : Except DecodeError Instr :=
  match fld w 31 24 with
  | 0 => do zero w 12 8; let n ← finIn 17 (fld w 17 13); let b ← opB w lit; .ok (.cpset n b)
  | 1 => do noB w lit; let n ← finIn 22 (fld w 17 13); .ok (.cpget (regAt w 8) n)
  | 2 => do zero w 17 13; let b ← opB w lit; .ok (.cpgo (regAt w 8) b)
  | 3 => do zero w 17 8; let b ← opB w lit; .ok (.cpfol b)
  | 4 => do zero w 17 13; let b ← opB w lit; .ok (.wtagAll (regAt w 8) b)
  | 5 => do zero w 17 13; let b ← opB w lit; .ok (.wtagAny (regAt w 8) b)
  | 6 => do zero w 17 13; let b ← opB w lit; .ok (.ffr (regAt w 8) b)
  | 7 => do zero w 17 13; let b ← opB w lit; .ok (.tagst (regAt w 8) b)
  | 8 => do noB w lit; .ok (.cpcan (regAt w 8) (regAt w 13))
  | _ => .error .reservedOp

/-- Major 0x1A, grids and halos (Table 19.5). -/
def decodeGrid (w : Nat) (lit : Option Word32) : Except DecodeError Instr :=
  let g := finIn 4 (fld w 12 8)
  match fld w 31 24 with
  | 0 => do noB w lit; let s ← g; .ok (.gdecl s (regAt w 13))
  | 1 => do let b ← opB w lit; .ok (.gldW (regAt w 8) (regAt w 13) b)
  | 2 => do let b ← opB w lit; .ok (.gldF (regAt w 8) (regAt w 13) b)
  | 3 => do noB w lit; .ok (.gst (regAt w 8) (regAt w 13))
  | 4 => do zero w 17 13; let s ← g; let b ← opB w lit; .ok (.hstep s b)
  | 5 => do zero w 17 13; let s ← g; let b ← opB w lit; .ok (.hrel s b)
  | 6 => do zero w 17 13; let s ← g; let b ← opB w lit; .ok (.hwait s b)
  | 7 => do codeB w lit; let s ← finIn 4 (fld w 17 13); let c ← finIn 10 (fld w 22 18); .ok (.gqry (regAt w 8) s c)
  | 8 => do codeB w lit; zero w 22 20; .ok (.ggather (regAt w 8) (regAt w 13) (finAt 4 w 18))
  | 9 => do codeB w lit; let op ← finIn 4 (fld w 22 20); .ok (.gscat op (regAt w 8) (regAt w 13) (finAt 4 w 18))
  | _ => .error .reservedOp

/-- Major 0x1B, Keystone and fabric (Table 21.6). -/
def decodeNet (w : Nat) (lit : Option Word32) : Except DecodeError Instr :=
  match fld w 31 24 with
  | 0 => do noB w lit; zero w 17 8; .ok .kdetach
  | 1 => do codeB w lit; zero w 17 13; let c ← finIn 6 (fld w 22 18); .ok (.kstat (regAt w 8) c)
  | 2 => do
    zero w 8 8
    let op ← finIn 3 (fld w 12 11); let ty ← finIn 3 (fld w 10 9); let b ← opB w lit
    .ok (.nred op ty (regAt w 13) b)
  | 3 => do
    zero w 8 8
    let op ← finIn 3 (fld w 12 11); let ty ← finIn 3 (fld w 10 9); let b ← opB w lit
    .ok (.nredNd op ty (regAt w 13) b)
  | 4 => do codeB w lit; zero w 17 13; let c ← finIn 4 (fld w 22 18); .ok (.nstat (regAt w 8) c)
  | _ => .error .reservedOp

/-- A 32-bit word with its literal, if L = 1: the major opcode map (Table 2.5). -/
def decodeWord (w : Nat) (lit : Option Word32) : Except DecodeError Instr :=
  match fld w 7 3 with
  | 0x00 => decodeSys w lit
  | 0x01 => decodeInt w lit
  | 0x02 => do let i ← immAt 14 w 18 lit; .ok (.addi (regAt w 8) (regAt w 13) i)
  | 0x03 => do let i ← immAt 14 w 18 lit; .ok (.andi (regAt w 8) (regAt w 13) i)
  | 0x04 => do let i ← immAt 14 w 18 lit; .ok (.ori (regAt w 8) (regAt w 13) i)
  | 0x05 => do let i ← immAt 14 w 18 lit; .ok (.xori (regAt w 8) (regAt w 13) i)
  | 0x06 => do let i ← immAt 14 w 18 lit; .ok (.slti (regAt w 8) (regAt w 13) i)
  | 0x07 => do let i ← immAt 19 w 13 lit; .ok (.lui (regAt w 8) i)
  | 0x08 => do let i ← immAt 19 w 13 lit; .ok (.addpc (regAt w 8) i)
  | 0x09 => decodeBranch w lit
  | 0x0A => do let i ← immAt 23 w 9 lit; if bitAt w 8 then .ok (.jal i) else .ok (.j i)
  | 0x0B => do let i ← immAt 14 w 18 lit; .ok (.jalr (regAt w 8) (regAt w 13) i)
  | 0x0C => decodeLoad w lit
  | 0x0D => decodeStore w lit
  | 0x0E => decodeAmo w lit
  | 0x0F => decodeFp w lit
  | 0x10 => do let i ← immAt 20 w 12 lit; .ok (.fli (finAt 16 w 8) i)
  | 0x11 => decodeFma w lit
  | 0x12 => decodeMsg w lit
  | 0x13 => decodeV13 w lit
  | 0x14 => decodeV14 w lit
  | 0x15 => decodeV15 w lit
  | 0x16 => decodeV16 w lit
  | 0x17 => decodeMma w lit
  | 0x18 => decodeMat w lit
  | 0x19 => decodeCopy w lit
  | 0x1A => decodeGrid w lit
  | 0x1B => decodeNet w lit
  | _ => .error .reservedMajor

/-- The zero field of a compact layout (R36). -/
def czero (p hi lo : Nat) : Except DecodeError Unit := need (fld p hi lo == 0) .reservedCompact

/-- A compact parcel (Table 2.4, R36): q is bits 1:0 and f3 bits 15:13. -/
def decodeCompact (p : Nat) : Except DecodeError Instr :=
  if p = 0 then .error .reservedCompact else
  let d := finAt 8 p 10
  let a := finAt 8 p 7
  let o5 := finAt 32 p 2
  let i8 := BitVec.ofNat 8 (p / 2 ^ 2)
  match fld p 1 0, fld p 15 13 with
  | 0, 0 => .ok (.cLd d a o5)
  | 0, 1 => .ok (.cSt d a o5)
  | 0, 2 => .ok (.cLw d a o5)
  | 0, 3 => .ok (.cSw d a o5)
  | 0, 4 => .ok (.cLdfD d a o5)
  | 0, 5 => .ok (.cStfD d a o5)
  | 0, 6 => .ok (.cLdfW d a o5)
  | 0, _ => .ok (.cStfW d a o5)
  | 1, 0 => .ok (.cAddi d i8)
  | 1, 1 => .ok (.cLi d i8)
  | 1, 2 => do czero p 6 2; .ok (.cMv d a)
  | 1, 3 => do czero p 6 2; .ok (.cAdd d a)
  | 1, 4 => do czero p 6 2; .ok (.cSub d a)
  | 1, 5 => do czero p 6 2; .ok (.cAnd d a)
  | 1, 6 => do czero p 6 2; .ok (.cOr d a)
  | 1, _ => do czero p 6 2; .ok (.cXor d a)
  | 2, 0 => .ok (.cJ (BitVec.ofNat 11 (p / 2 ^ 2)))
  | 2, 1 => .ok (.cBeqz d i8)
  | 2, 2 => .ok (.cBnez d i8)
  | 2, 3 => do czero p 9 2; .ok (.cJr d)
  | 2, 4 => do czero p 6 2; .ok (.cFaddW d a)
  | 2, 5 => do czero p 6 2; .ok (.cFmulW d a)
  | 2, 6 => do czero p 3 2; .ok (.cFmaW d a (finAt 8 p 4))
  | 2, _ => do czero p 12 2; .ok .cNop
  | _, _ => .error .reservedCompact

/-- How many parcels an instruction takes, from its first parcel (R27): 1, 2 or 4. -/
def parcelCount (p : Nat) : Nat := if p % 4 ≠ 3 then 1 else if p / 4 % 2 = 1 then 4 else 2

/-- Decode the instruction that starts at the first of the parcels given, and how many parcels it takes (R27). The parcels
are those from the instruction's start to the end of its code block: what does not fit is `truncated` (R29). -/
def decode (ps : List Nat) : Except DecodeError (Instr × Nat) :=
  match ps with
  | [] => .error .truncated
  | p :: rest =>
    if p % 4 ≠ 3 then do let i ← decodeCompact p; .ok (i, 1)
    else
      match rest with
      | [] => .error .truncated
      | q :: rest2 =>
        let w := p + 65536 * q
        if p / 4 % 2 = 0 then do let i ← decodeWord w none; .ok (i, 2)
        else
          match rest2 with
          | l :: h :: _ => do let i ← decodeWord w (some (BitVec.ofNat 32 (l + 65536 * h))); .ok (i, 4)
          | _ => .error .truncated

/-- A 32-bit word as its two parcels (R27). -/
def parcels (w : Nat) : List Nat := [w % 65536, w / 65536]

/-- A word of major m with the bits `hi` above bit 7, without a literal. -/
def word (m hi : Nat) : List Nat := parcels (3 + 8 * m + 256 * hi)

/-- The same with L = 1 and its literal word. -/
def wordL (m hi : Nat) (v : Word32) : List Nat := parcels (7 + 8 * m + 256 * hi) ++ parcels v.toNat

/-- RRR with operand b (R34): `top` holds bits 31:24. -/
def rrrB (m top d a : Nat) (b : OpB) : List Nat :=
  match b with
  | .reg r => word m (d + 32 * a + 1024 * r.val + 65536 * top)
  | .bank c => word m (d + 32 * a + 1024 * c.val + 32768 + 65536 * top)
  | .lit v => wordL m (d + 32 * a + 65536 * top) v

/-- A word whose b field is a register or replaced by a literal: `top` holds bits 31:23. -/
def rrrL (m top d a : Nat) (b : OpL) : List Nat :=
  match b with
  | .reg r => word m (d + 32 * a + 1024 * r.val + 32768 * top)
  | .lit v => wordL m (d + 32 * a + 32768 * top) v

/-- RRR or V with all fields given. -/
def rrr (m top d a b : Nat) : List Nat := word m (d + 32 * a + 1024 * b + 32768 * top)

/-- A word with an immediate field of n bits that starts at bit 8 + k, above the lower fields `low`. -/
def immW (m low k : Nat) {n : Nat} (i : Imm n) : List Nat :=
  match i with
  | .imm v => word m (low + 2 ^ k * v.toNat)
  | .lit v => wordL m low v

/-- The P bit as a number. -/
def Prec.code (p : Prec) : Nat := match p with | .w => 0 | .d => 1
/-- The rm field as a number. -/
def RmField.code (r : RmField) : Nat := match r with | .frm => 0 | .rtz => 1 | .rup => 2 | .rdn => 3
/-- The order field of STORE. -/
def StOrder.code (o : StOrder) : Nat := match o with | .plain => 0 | .rel => 2 | .now => 3
/-- The order field of an atomic. -/
def AmoOrder.code (o : AmoOrder) : Nat := match o with | .rlx => 0 | .acq => 1 | .rel => 2 | .ar => 3
/-- The C bit and register number of operand c. -/
def OpC.code (c : OpC) : Nat := match c with | .reg r => r.val | .bank k => 32 + k.val

/-- The parcels of an instruction, by Tables 2.3 to 2.12 and the tables of the chapters. A move of another agent has no
encoding. -/
def encode (i : Instr) : List Nat :=
  match i with
  | .add d a b => rrrB 0x01 0 d a b
  | .sub d a b => rrrB 0x01 1 d a b
  | .mul d a b => rrrB 0x01 2 d a b
  | .mulh d a b => rrrB 0x01 3 d a b
  | .mulhn d a b => rrrB 0x01 4 d a b
  | .div d a b => rrrB 0x01 5 d a b
  | .divn d a b => rrrB 0x01 6 d a b
  | .rem d a b => rrrB 0x01 7 d a b
  | .remn d a b => rrrB 0x01 8 d a b
  | .and d a b => rrrB 0x01 9 d a b
  | .or d a b => rrrB 0x01 10 d a b
  | .xor d a b => rrrB 0x01 11 d a b
  | .andn d a b => rrrB 0x01 12 d a b
  | .shl d a b => rrrB 0x01 13 d a b
  | .shr d a b => rrrB 0x01 14 d a b
  | .sra d a b => rrrB 0x01 15 d a b
  | .rol d a b => rrrB 0x01 16 d a b
  | .ror d a b => rrrB 0x01 17 d a b
  | .min d a b => rrrB 0x01 18 d a b
  | .max d a b => rrrB 0x01 19 d a b
  | .minn d a b => rrrB 0x01 20 d a b
  | .maxn d a b => rrrB 0x01 21 d a b
  | .slt d a b => rrrB 0x01 22 d a b
  | .sltn d a b => rrrB 0x01 23 d a b
  | .seq d a b => rrrB 0x01 24 d a b
  | .clz d a => rrr 0x01 50 d a 0
  | .ctz d a => rrr 0x01 52 d a 0
  | .popc d a => rrr 0x01 54 d a 0
  | .bfx d a b => rrrB 0x01 28 d a b
  | .bfi d a b => rrrB 0x01 29 d a b
  | .brev d a => rrr 0x01 60 d a 0
  | .bswap d a => rrr 0x01 62 d a 0
  | .addi d a i => immW 2 (d + 32 * a) 10 i
  | .andi d a i => immW 3 (d + 32 * a) 10 i
  | .ori d a i => immW 4 (d + 32 * a) 10 i
  | .xori d a i => immW 5 (d + 32 * a) 10 i
  | .slti d a i => immW 6 (d + 32 * a) 10 i
  | .lui d i => immW 7 d 5 i
  | .addpc d i => immW 8 d 5 i
  | .beq a b off => immW 9 (a + 32 * b + 1024 * 0) 13 off
  | .bne a b off => immW 9 (a + 32 * b + 1024 * 1) 13 off
  | .blt a b off => immW 9 (a + 32 * b + 1024 * 2) 13 off
  | .bge a b off => immW 9 (a + 32 * b + 1024 * 3) 13 off
  | .bltn a b off => immW 9 (a + 32 * b + 1024 * 4) 13 off
  | .bgen a b off => immW 9 (a + 32 * b + 1024 * 5) 13 off
  | .j off => immW 10 0 1 off
  | .jal off => immW 10 1 1 off
  | .jalr d a i => immW 11 (d + 32 * a) 10 i
  | .ldB d a off q => immW 12 (d + 32 * a + 1024 * 0 + 8192 * q.toNat) 15 off
  | .ldH d a off q => immW 12 (d + 32 * a + 1024 * 1 + 8192 * q.toNat) 15 off
  | .ldW d a off q => immW 12 (d + 32 * a + 1024 * 2 + 8192 * q.toNat) 15 off
  | .ldD d a off q => immW 12 (d + 32 * a + 1024 * 3 + 8192 * q.toNat) 15 off
  | .ldBu d a off q => immW 12 (d + 32 * a + 1024 * 4 + 8192 * q.toNat) 15 off
  | .ldHu d a off q => immW 12 (d + 32 * a + 1024 * 5 + 8192 * q.toNat) 15 off
  | .ldfW d a off q => immW 12 (d + 32 * a + 1024 * 6 + 8192 * q.toNat) 15 off
  | .ldfD d a off q => immW 12 (d + 32 * a + 1024 * 7 + 8192 * q.toNat) 15 off
  | .stB s a off o => immW 13 (s + 32 * a + 1024 * 0 + 8192 * o.code) 15 off
  | .stH s a off o => immW 13 (s + 32 * a + 1024 * 1 + 8192 * o.code) 15 off
  | .stW s a off o => immW 13 (s + 32 * a + 1024 * 2 + 8192 * o.code) 15 off
  | .stD s a off o => immW 13 (s + 32 * a + 1024 * 3 + 8192 * o.code) 15 off
  | .stfW s a off o => immW 13 (s + 32 * a + 1024 * 6 + 8192 * o.code) 15 off
  | .stfD s a off o => immW 13 (s + 32 * a + 1024 * 7 + 8192 * o.code) 15 off
  | .amoadd z o d a b => rrrL 14 (0 + 16 * o.code + 64 * z.toNat) d a b
  | .amoand z o d a b => rrrL 14 (1 + 16 * o.code + 64 * z.toNat) d a b
  | .amoor z o d a b => rrrL 14 (2 + 16 * o.code + 64 * z.toNat) d a b
  | .amoxor z o d a b => rrrL 14 (3 + 16 * o.code + 64 * z.toNat) d a b
  | .amomin z o d a b => rrrL 14 (4 + 16 * o.code + 64 * z.toNat) d a b
  | .amomax z o d a b => rrrL 14 (5 + 16 * o.code + 64 * z.toNat) d a b
  | .amominn z o d a b => rrrL 14 (6 + 16 * o.code + 64 * z.toNat) d a b
  | .amomaxn z o d a b => rrrL 14 (7 + 16 * o.code + 64 * z.toNat) d a b
  | .amoswap z o d a b => rrrL 14 (8 + 16 * o.code + 64 * z.toNat) d a b
  | .amocas z o d a b => rrrL 14 (9 + 16 * o.code + 64 * z.toNat) d a b
  | .amofaddF32 o d a b => rrrL 14 (10 + 16 * o.code) d a b
  | .amofminF32 o d a b => rrrL 14 (11 + 16 * o.code) d a b
  | .amofmaxF32 o d a b => rrrL 14 (12 + 16 * o.code) d a b
  | .fadd p rm d a b => rrrB 15 (rm.code + 4 * p.code + 0) d a b
  | .fsub p rm d a b => rrrB 15 (rm.code + 4 * p.code + 8) d a b
  | .fmul p rm d a b => rrrB 15 (rm.code + 4 * p.code + 16) d a b
  | .fdiv p rm d a b => rrrB 15 (rm.code + 4 * p.code + 24) d a b
  | .fsqrt p rm d a => rrr 15 (2 * rm.code + 8 * p.code + 64) d a 0
  | .fmin p d a b => rrrB 15 (4 * p.code + 40) d a b
  | .fmax p d a b => rrrB 15 (4 * p.code + 48) d a b
  | .fabs p d a => rrr 15 (8 * p.code + 112) d a 0
  | .fneg p d a => rrr 15 (8 * p.code + 128) d a 0
  | .feq p d a b => rrrB 15 (4 * p.code + 72) d a b
  | .flt p d a b => rrrB 15 (4 * p.code + 80) d a b
  | .fle p d a b => rrrB 15 (4 * p.code + 88) d a b
  | .fclass p d a => rrr 15 (8 * p.code + 192) d a 0
  | .fcvt rm c d a => rrr 15 (2 * rm.code + 208) d a c
  | .fmvx p d a => rrr 15 (8 * p.code + 224) d a 0
  | .fmvf p d a => rrr 15 (8 * p.code + 240) d a 0
  | .frcpA p d a => rrr 15 (8 * p.code + 256) d a 0
  | .frsqA p d a => rrr 15 (8 * p.code + 272) d a 0
  | .fli fd v => immW 16 fd 4 v
  | .fma p d a b c => rrrL 17 (c.code + 64 * p.code + 0) d a b
  | .fms p d a b c => rrrL 17 (c.code + 64 * p.code + 128) d a b
  | .fnma p d a b c => rrrL 17 (c.code + 64 * p.code + 256) d a b
  | .fnms p d a b c => rrrL 17 (c.code + 64 * p.code + 384) d a b
  | .nop => word 0 (0)
  | .trap c => word 0 (c.toNat + 524288)
  | .brk c => word 0 (c.toNat + 1048576)
  | .csrr d n => word 0 (d.val + 32 * n.toNat + 1572864)
  | .csrw n s => word 0 (s.val + 32 * n.toNat + 2097152)
  | .tmark c => word 0 (c.toNat + 2621440)
  | .waitc nl ns nc nm => word 0 (nl.val + 16 * ns.val + 256 * nc.val + 4096 * nm.val + 3145728)
  | .fence => word 0 (3670016)
  | .fenceSc => word 0 (4194304)
  | .icsync => word 0 (4718592)
  | .pref a off h => immW 0 (h + 32 * a + 5242880) 10 off
  | .cLd d b o => [1024 * d.val + 128 * b.val + 4 * o.val + 0]
  | .cSt d b o => [1024 * d.val + 128 * b.val + 4 * o.val + 8192]
  | .cLw d b o => [1024 * d.val + 128 * b.val + 4 * o.val + 16384]
  | .cSw d b o => [1024 * d.val + 128 * b.val + 4 * o.val + 24576]
  | .cLdfD d b o => [1024 * d.val + 128 * b.val + 4 * o.val + 32768]
  | .cStfD d b o => [1024 * d.val + 128 * b.val + 4 * o.val + 40960]
  | .cLdfW d b o => [1024 * d.val + 128 * b.val + 4 * o.val + 49152]
  | .cStfW d b o => [1024 * d.val + 128 * b.val + 4 * o.val + 57344]
  | .cAddi d i => [1024 * d.val + 4 * i.toNat + 1]
  | .cLi d i => [1024 * d.val + 4 * i.toNat + 8193]
  | .cMv d a => [1024 * d.val + 128 * a.val + 16385]
  | .cAdd d a => [1024 * d.val + 128 * a.val + 24577]
  | .cSub d a => [1024 * d.val + 128 * a.val + 32769]
  | .cAnd d a => [1024 * d.val + 128 * a.val + 40961]
  | .cOr d a => [1024 * d.val + 128 * a.val + 49153]
  | .cXor d a => [1024 * d.val + 128 * a.val + 57345]
  | .cJ off => [4 * off.toNat + 2]
  | .cBeqz a off => [1024 * a.val + 4 * off.toNat + 8194]
  | .cBnez a off => [1024 * a.val + 4 * off.toNat + 16386]
  | .cJr a => [1024 * a.val + 24578]
  | .cFaddW d a => [1024 * d.val + 128 * a.val + 32770]
  | .cFmulW d a => [1024 * d.val + 128 * a.val + 40962]
  | .cFmaW d a b => [1024 * d.val + 128 * a.val + 16 * b.val + 49154]
  | .cNop => [57346]
  | .send n d a b => rrrB 18 (0 + 128 * n.toNat) d a b
  | .sendv n d a b => rrrB 18 (1 + 128 * n.toNat) d a b
  | .reply n d b => rrrB 18 (2 + 128 * n.toNat) d 0 b
  | .fwd n a b => rrrB 18 (3 + 128 * n.toNat) 0 a b
  | .defer => rrr 18 8 0 0 0
  | .spawn n d a b => rrrB 18 (5 + 128 * n.toNat) d a b
  | .migrate a => rrr 18 12 0 a 0
  | .sdone => rrr 18 14 0 0 0
  | .hcommit => rrr 18 16 0 0 0
  | .hdone => rrr 18 18 0 0 0
  | .exit => rrr 18 20 0 0 0
  | .barr l op n b => rrrB 18 11 (op.val + 8 * l.toNat) n b
  | .launch n a b => rrrB 18 (12 + 128 * n.toNat) 0 a b
  | .getm d n => rrr 18 26 d n 0
  | .mbstat d n => rrr 18 28 d n 0
  | .vadd t d a b => rrrL 19 (t.val + 0) d a b
  | .vsub t d a b => rrrL 19 (t.val + 8) d a b
  | .vmul t d a b => rrrL 19 (t.val + 16) d a b
  | .vfma t d a b => rrrL 19 (t.val + 24) d a b
  | .vfms t d a b => rrrL 19 (t.val + 32) d a b
  | .vmin t d a b => rrrL 19 (t.val + 40) d a b
  | .vmax t d a b => rrrL 19 (t.val + 48) d a b
  | .vabs t d a => rrr 19 (t.val + 56) d a 0
  | .vneg t d a => rrr 19 (t.val + 64) d a 0
  | .vand t d a b => rrrL 19 (t.val + 72) d a b
  | .vor t d a b => rrrL 19 (t.val + 80) d a b
  | .vxor t d a b => rrrL 19 (t.val + 88) d a b
  | .vshl t d a b => rrrL 19 (t.val + 96) d a b
  | .vshr t d a b => rrrL 19 (t.val + 104) d a b
  | .vsra t d a b => rrrL 19 (t.val + 112) d a b
  | .vcmp t c k a b => rrr 19 (t.val + 120) (k.val + 8 * c.val) a b
  | .vsel t d a k => rrr 19 (t.val + 128) d a k
  | .vkopAnd d a b => rrr 19 136 d a b
  | .vkopOr d a b => rrr 19 137 d a b
  | .vkopXor d a b => rrr 19 138 d a b
  | .vkopAndn d a b => rrr 19 139 d a b
  | .vkopNot d a => rrr 19 140 d a 0
  | .vkopPopc d a => rrr 19 141 d a 0
  | .vkopSplat d a => rrr 19 142 d a 0
  | .vkopFromx d a => rrr 19 143 d a 0
  | .view d a => rrr 20 0 d a 0
  | .views d a => rrr 20 8 d a 0
  | .vmkv t d a b => rrrL 20 (t.val + 16) d a b
  | .vpart s d a b => rrrL 20 (s.val + 24) d a b
  | .vbind d a => rrr 20 32 d a 0
  | .vunbind d => rrr 20 40 d 0 0
  | .vld d a b => rrrL 20 48 d a b
  | .vst s a b => rrrL 20 56 s a b
  | .vmov t d a => rrr 20 (t.val + 64) d a 0
  | .vbcast t d (.reg a) => rrr 20 (t.val + 72) d a 0
  | .vbcast t d (.lit v) => wordL 20 (d.val + 32768 * (t.val + 72)) v
  | .vgather t d a => rrr 20 (t.val + 80) d a 0
  | .vscatter t d a => rrr 20 (t.val + 88) d a 0
  | .vaccrd t d a b => rrrL 20 (t.val + 96) d a b
  | .vaccrdPeek t d a b => rrrL 20 (t.val + 104) d a b
  | .vaccwr t d a b => rrrL 20 (t.val + 112) d a b
  | .rpush n r a b => rrr 20 (n.toNat + 120) r a b
  | .vcvt t c s d a => rrr 21 t d a (c.val + 16 * s.toNat)
  | .vcvtSr t d a b => rrrL 21 (t.val + 8) d a b
  | .vqmx d a => rrr 21 16 d a 0
  | .vdq d a => rrr 21 24 d a 0
  | .vrcpA t d a => rrr 21 (t.val + 32) d a 0
  | .vrsqA t d a => rrr 21 (t.val + 40) d a 0
  | .vrsq t d a => rrr 21 (t.val + 48) d a 0
  | .vsqrt t d a => rrr 21 (t.val + 56) d a 0
  | .vdiv t d a b => rrrL 21 (t.val + 64) d a b
  | .vexp2 t d a => rrr 21 (t.val + 72) d a 0
  | .vlog2 t d a => rrr 21 (t.val + 80) d a 0
  | .vtanh t d a => rrr 21 (t.val + 88) d a 0
  | .vred t c d a => rrr 22 t d a c
  | .vscan t c d a => rrr 22 (t.val + 8) d a c
  | .vnorm t c d a => rrr 22 (t.val + 16) d a c
  | .vtopk t d a b => rrr 22 (t.val + 24) d a b
  | .vrand t d b => rrrL 22 (t.val + 32) d 0 b
  | .rndk d a b => rrrL 22 40 d a b
  | .mma p s q k rb ra c => word 23 (c.val + 16 * ra.val + 128 * rb.val + 1024 * k.val + 32768 * q.val + 1048576 * s.toNat + 4194304 * p.val)
  | .mmas p x s q k rb ra c => word 23 (c.val + 16 * ra.val + 128 * rb.val + 1024 * k.val + 32768 * q.val + 524288 + 1048576 * s.toNat + 2097152 * x.toNat + 4194304 * p.val)
  | .accz a => rrr 24 0 0 a 0
  | .accstat d a => rrr 24 2 d a 0
  | .ringcfg r b => rrrB 24 2 0 r b
  | .ringst d r c => rrr 24 6 d r c
  | .rpop r b => rrrB 24 4 0 r b
  | .mqpri d a b => rrrB 24 5 d a b
  | .mqdrain d a c => rrr 24 12 d a c
  | .cpset n b => rrrB 25 0 0 n b
  | .cpget d n => rrr 25 2 d n 0
  | .cpgo d b => rrrB 25 2 d 0 b
  | .cpfol b => rrrB 25 3 0 0 b
  | .wtagAll d b => rrrB 25 4 d 0 b
  | .wtagAny d b => rrrB 25 5 d 0 b
  | .ffr d b => rrrB 25 6 d 0 b
  | .tagst d b => rrrB 25 7 d 0 b
  | .cpcan d a => rrr 25 16 d a 0
  | .gdecl g a => rrr 26 0 g a 0
  | .gldW d a b => rrrB 26 1 d a b
  | .gldF d a b => rrrB 26 2 d a b
  | .gst s a => rrr 26 6 s a 0
  | .hstep g b => rrrB 26 4 g 0 b
  | .hrel g b => rrrB 26 5 g 0 b
  | .hwait g b => rrrB 26 6 g 0 b
  | .gqry d g c => rrr 26 14 d g c
  | .ggather d a g => rrr 26 16 d a g
  | .gscat op a s g => rrr 26 18 a s (g.val + 4 * op.val)
  | .kdetach => rrr 27 0 0 0 0
  | .kstat d c => rrr 27 2 d 0 c
  | .nred op t a b => rrrB 27 2 (2 * t.val + 8 * op.val) a b
  | .nredNd op t a b => rrrB 27 3 (2 * t.val + 8 * op.val) a b
  | .nstat d c => rrr 27 8 d 0 c
  | .reservedEncoding _ => []
  | .handlerEntry _ => []
  | .watchdogExpiry _ => []
  | .breakpointHalt _ => []
  | .registrationMove _ _ => []
  | .gatewayQueueDelivery _ _ => []
  | .loadValueReturn _ _ => []
  | .releasePerformed _ => []
  | .atomicAtHome _ => []
  | .translationWalk _ _ _ _ => []
  | .tlbInvalidationDone => []
  | .bankModeMove _ _ => []
  | .vectorRowFill _ _ => []
  | .messageArrival _ => []
  | .refusedMessageRetry _ _ => []
  | .noticeArrival _ => []
  | .strandArrival _ => []
  | .strandResumption _ => []
  | .sectionCommitComplete _ => []
  | .machineCheck _ => []
  | .spawnCountRequest _ _ => []
  | .spawnCountAnswer _ => []
  | .spawnDecrementArrival _ _ => []
  | .barrierArrival _ _ => []
  | .emeOperationStart _ _ => []
  | .emeKStep _ => []
  | .acczRun _ _ => []
  | .rpopRetire _ _ => []
  | .copyChunk _ _ => []
  | .ringTilePush _ _ => []
  | .demandSliceFetch _ _ => []
  | .copyTransferCompletion _ _ => []
  | .haloStripArrival _ _ => []
  | .haloStripRetry _ _ => []
  | .gridActiveMessage _ _ => []
  | .gatherLaneReturn _ _ => []
  | .queueTailObservation _ => []
  | .launchSelection => []
  | .launchRequestAppend _ => []
  | .groupPlacement _ _ _ => []
  | .gangReserve _ => []
  | .gangReserveAnswer _ _ _ => []
  | .gangCommit _ _ _ => []
  | .gangAbandon _ => []
  | .contextEviction _ => []
  | .evictionSharedSave _ _ => []
  | .rePlacement _ _ _ => []
  | .groupRetirement _ _ _ _ => []
  | .faultRecordDelivery _ => []
  | .breakpointBroadcastDone => []
  | .timingDumpDone _ => []
  | .flitReceive _ _ _ => []
  | .lendPeriod _ => []
  | .lendReceived _ _ _ => []
  | .lendAckReceived _ _ => []
  | .creditReturn _ _ _ => []
  | .keySwitch _ => []
  | .linkKeyInstall _ _ _ _ => []
  | .capabilityRelay _ _ => []
  | .keystoneRequestServe _ _ => []
  | .windowCollapse _ _ _ => []
  | .nredContributionArrival _ _ _ => []
  | .ethernetRdmaWrite _ _ _ => []
  | .checkpointStream _ _ _ => []
  | .powerOn => []
  | .bringupStep _ _ => []
  | .runtimeMarkOut _ _ => []
  | .journalErase => []
  | .attestationQuote _ _ => []
  | .throttleStep _ _ _ => []
  | .csmodeWrite _ _ => []
  | .trespRetry _ _ _ => []
  | .trespFatal _ _ _ => []
  | .hbmCounterClear _ => []
  | .tlbinvAll => []
  | .tlbinvAsid _ => []
  | .tlbinvPage _ => []
  | .actctlResume _ _ _ _ => []
  | .actctlSkip _ _ _ _ => []
  | .actctlEnd _ _ _ _ => []
  | .notectl _ _ _ => []
  | .heldNoticeSend _ => []
  | .cpctlReplay _ _ => []
  | .cpctlComplete _ _ _ => []
  | .lcancel _ _ _ => []
  | .bpctlWrite _ _ => []
  | .dbgctlResume _ _ _ _ => []
  | .dbgctlStep _ _ _ _ => []
  | .dbgctlHaltRequest _ _ _ _ => []
  | .dbgctlAbort _ _ _ _ => []
  | .ttdump _ _ _ => []
  | .registerWrite _ _ _ => []
  | .powerOff _ => []
  | .ryoftLinkLoss _ => []
  | .uncorrectableMemoryError _ _ _ _ => []

/-- How many bytes an instruction takes in code (R27). -/
def Instr.bytes (i : Instr) : Nat := 2 * (encode i).length

/-- The instruction of an instruction word whose bits are w, numbered as spec/opcode_table.json numbers them: nbits is 16 or
32 bits, and every bit above is 0, so a literal word reads 0. -/
def decodeTableWord (nbits w : Nat) : Option Instr :=
  let v := w % 2 ^ nbits
  match decode [v % 65536, v / 65536 % 65536, v / 2 ^ 32 % 65536, v / 2 ^ 48 % 65536] with
  | .ok (i, _) => some i
  | .error _ => none

end Sys2Proof
end

