-- ==== Sys2Proof/Config.lean ====
section
/-! DEFINITION. What the manual leaves to an implementation and the free values (no body: nothing can be proved of them).
Each is named in the assumption log. -/

namespace Sys2Proof.Config

/-- A byte whose value the manual leaves undefined (R77: contents of a bank that enters SCRATCH), by free-value counter
and address (log 2). -/
opaque freeByte : Nat → Nat → BitVec 8

/-- A 64-bit word that a rule leaves unstated, by free-value counter (log 2). -/
opaque freeWord : Nat → BitVec 64

/-- The CURSOR of an AMO_UNSUPPORTED record: it names the operation, the size and the home module, in a layout that R161
and R397 do not give (log 13). -/
opaque amoCursor : Nat → Nat → Nat → BitVec 64

/-- AES-GCM-256 opening of one wire unit (R398, NIST SP 800-38D): key, 96-bit vector, header, ciphertext and tag give
the plaintext or nothing (log 10). -/
opaque gcmOpen : BitVec 256 → BitVec 96 → BitVec 32 → BitVec 1024 → BitVec 96 → Option (BitVec 1024)

/-- AES-GCM-256 sealing of one pair of flits (R398): ciphertext and tag (log 10). -/
opaque gcmSeal : BitVec 256 → BitVec 96 → BitVec 32 → BitVec 1024 → BitVec 1024 × BitVec 96

/-- The number of flits, less one, and the flits of a packet that the hub makes (R391; no rule gives their layout), by
free-value counter (log 80). -/
opaque packetLen : Nat → Fin 4
opaque packetFlit : Nat → Nat → BitVec 512

/-- The SHA-256 digest of a byte string (R427, R428; log 10). -/
opaque sha256 : List (BitVec 8) → BitVec 256

/-- Whether an image's RSASSA-PKCS1-v1_5 signature verifies against the fused root-key digest (R427; log 10). -/
opaque imageVerifies : BitVec 256 → List (BitVec 8) → Bool

/-- The identity key's RSASSA-PKCS1-v1_5 signature of a digest (R428; log 10). -/
opaque identitySign : BitVec 256 → BitVec 3072

/-- The digest of the Skovsia root public key, fused at manufacture (R427). -/
opaque rootKeyDigest : BitVec 256

/-- The two positions of a group's kept values under a metadata byte that R261 does not form (R287; log 23). -/
opaque metaPair : BitVec 8 → Fin 4 × Fin 4

/-- The operand that a TYPE_MISMATCH record of a vector instruction names (R203, R239; no rule gives its field or form): the CURSOR of
the record, by the instruction's PC and free-value counter (log 107). -/
opaque typeOperand : BitVec 64 → Nat → BitVec 64

/-- How much the ACT, ROWCONF or REFSTALL counter of a channel rises over a stretch of cycles: free-value counter, die, channel,
counter (R88; no rule says when an activate or a refresh wait happens; log 11). -/
opaque hbmCount : Nat → Nat → Nat → Nat → BitVec 64

/-- Whether the miss, or the write-back, at a place of a slice's lists ends in a stretch of cycles: free-value counter, cluster,
place (R84; the manual gives no times; log 99). -/
opaque sliceDone : Nat → Nat → Nat → Bool

/-- The way that a full set of a cluster's data cache gives up: free-value counter and line (R75: its replacement order is not
architected; log 79). -/
opaque clusterWay : Nat → Nat → Nat

/-- The stall token of a read of the dispatcher, by free-value counter (R95 numbers the tokens of clusters only; log 102). -/
opaque hubToken : Nat → Fin 8192

/-- Blocks of 64 KiB, below 2^16, that the saved state of an evicted launch takes in the eviction pool beside its records, by free-value
counter (R383; the manual gives that state no size: log 65). -/
opaque saveBlocks : Nat → BitVec 16

end Sys2Proof.Config
end

