-- ==== Sys2Proof/Machine/State.lean ====
section
/-! DEFINITION. The state of one G980 module as plain data, and the state right after module reset. Tables keyed by a
number are sorted association lists with a default (the reset value of the unit); a table's key is said where it stands. -/

namespace Sys2Proof.Machine

/-- A table keyed by numbers; a key that is not listed has the table's default. -/
abbrev Tbl (α : Type) := List (Nat × α)

/-- Memory: (address, byte) pairs, addresses strictly rising, no listed byte 0 (an unlisted byte reads 0, log 5). An
address is module × 2^60 + space × 2^56 + inner, with space 0 HBM and LPDDR (inner = HSEL × 2^52 + PA, R72, R86), 1 the
cluster stores (inner = cluster × 2^21 + LOCAL offset, R73) and 2 a peer member's Keystone share
(inner = LSLOT × 2^21 + offset, R400). -/
abbrev Memory := List Host.Cell

/-! ## Vectors of a context -/

/-- What a w register holds: a binding (R222), or lane data. `scale` is the record of t(n+1) taken with the binding (R221). -/
structure Binding where
  view : BitVec 512
  scale : BitVec 512
  tnum : Nat
  deriving DecidableEq, Repr

/-- A w register (R40, R222, R232): its binding if bound, its 256 bytes (in a row, in its spill slot, or zero). -/
structure WReg where
  bound : Option Binding
  data : BitVec 2048
  spilled : Bool
  deriving DecidableEq, Repr

/-- The register files of a context (R40, Table 2.13). -/
structure Regs where
  x : Vector Word 32
  f : Vector Word 32
  w : Vector WReg 32
  t : Vector (BitVec 512) 16
  k : Vector (BitVec 256) 8
  m : Vector Word 16
  c : Vector Word 64
  deriving DecidableEq, Repr

/-- The section-start values that an abort or a rerun restores (R113, R167). -/
structure Snapshot where
  regs : Regs
  fstat : BitVec 6
  frm : BitVec 2
  spawnlim : BitVec 16
  seq : BitVec 24
  pc : Word
  deriving DecidableEq, Repr

/-! ## Effects and queues of the ordering machine -/

/-- Who made a registration: propagation (R53) is asked per origin. `amo` is an atomic of a context (R60). -/
inductive Origin where
  | ctx (c : CtxId)
  | amo (c : CtxId)
  | xfer (tid : Word)
  | unit
  deriving DecidableEq, Repr

/-- A store to one aligned 8-byte word: `mask` has a 1 for each bit stored (R48); `noalloc` as its page says (R81); `leaf` is
VA[54:16] of a store by a translated address and whether its leaf is a block (R154). -/
structure WordStore where
  addr : Nat
  mask : Word
  data : Word
  noalloc : Bool := false
  leaf : Option (Nat × Bool) := none
  deriving DecidableEq, Repr

/-- The message of a strand (class 62, R103, R123). `msg.payload` holds x1-x8 or x1-x16 and FSTAT in its last word. -/
structure StrandMsg where
  msg : Message
  asid : BitVec 16
  destCell : Nat
  fstat : BitVec 6
  arrival : Word
  faulted : Bool
  counted : Bool
  deriving DecidableEq, Repr

/-- An entry of a section buffer (R46, R108): one deferred effect. -/
inductive Effect where
  /-- the deferred stores of one access; `rel` for ST.rel (R56) -/
  | stores (rel : Bool) (ws : List WordStore)
  /-- SEND, SENDV, REPLY (R172); the sequence number comes at release (R104) -/
  | send (m : Message)
  /-- FWD (R172): the trigger's SEQ stays -/
  | forward (m : Message)
  /-- DEFER (R176) -/
  | defer (m : Message)
  /-- SPAWN (R182) -/
  | spawn (s : StrandMsg)
  /-- LAUNCH (R186): packet address and queue -/
  | launch (va : Word) (queue : Nat)
  /-- BARR (R185) -/
  | barr (launchScope : Bool) (n : Nat) (op : Nat) (value : Word)
  /-- HSTEP (R361) and HREL (R362) of a grid slot -/
  | hstep (slot : Fin 4) (n : Word)
  | hrel (slot : Fin 4) (n : Word)
  /-- GSCAT (R365): lanes as (lane, linear index, value) -/
  | gscat (slot : Fin 4) (op : Nat) (lanes : List (Nat × Nat × Word))
  /-- NRED (R409) -/
  | nred (c : Contribution)
  /-- KDETACH (R406) -/
  | kdetach
  deriving DecidableEq, Repr

/-- An entry of a cell's registration queue (R46, R52). -/
structure RegEntry where
  origin : Origin
  store : WordStore
  deriving DecidableEq, Repr

/-- A cell's view of a global word (R46). -/
structure ViewEntry where
  owned : Bool
  value : Word
  deriving DecidableEq, Repr

/-- An atomic on its way to its home (R60, R161): operation number of Table 6.10, size in bytes, operands. -/
structure AtomicOp where
  op : Nat
  size : Nat
  byteAddr : Nat
  b : Word
  cmp : Word
  /-- its page's NOALLOC (R81) -/
  noalloc : Bool := false
  deriving DecidableEq, Repr

/-- A Keystone request on its way to its owner (R401): who waits, its pending number, the word, the member and launch slot
addressed, and what it is: a store, an atomic, or a load. -/
structure KeyReq where
  ctx : CtxId
  id : Nat
  addr : Nat
  member : Nat
  lslot : Nat
  store : Option WordStore
  origin : Origin
  atomic : Option AtomicOp
  deriving DecidableEq, Repr

/-- An entry of a gateway queue (R46). -/
inductive GwEntry where
  | store (o : Origin) (s : WordStore)
  | atomic (c : CtxId) (id : Nat) (a : AtomicOp)
  /-- `who` is the pending load that waits for the value, if any; `cls` and `noalloc` are the request's (R81,
  R83); `view` when a context loads, not for a fetch or an engine -/
  | fillReq (cell : Nat) (addr : Nat) (who : Option (CtxId × Nat)) (cls : Nat) (noalloc view : Bool)
  | fill (cell : Nat) (addr : Nat) (value : Word) (who : Option (CtxId × Nat)) (view : Bool)
  /-- an update entry; `reg` numbers the registration that caused it -/
  | update (o : Origin) (reg : Nat) (addr : Nat) (value : Word)
  /-- a peer home's word that a registration there has propagated (Table 21.1) -/
  | ack (o : Origin) (reg : Nat)
  | atomicReply (c : CtxId) (id : Nat) (old : Word)
  /-- a Keystone request and the reply to it (Table 3.2) -/
  | share (r : KeyReq)
  | shareReply (r : KeyReq) (v : Word)
  deriving DecidableEq, Repr

/-- Where a returning value goes (R122, R135, R152, R161). -/
inductive Dest where
  /-- an x register, with the load's size in bytes and whether it is sign-extended -/
  | x (r : Reg) (size : Nat) (signed : Bool)
  /-- an f register, with the load's size -/
  | f (r : Reg) (size : Nat)
  /-- a lane of a w register: element bytes, lane number (GGATHER, R365) -/
  | lane (w : Reg) (size : Nat) (lane : Nat)
  deriving DecidableEq, Repr

/-- A value that has not yet returned (R122, R169). `value` is the value once its source is taken; `have_` and `haveMask`
are the bytes already taken from the section buffer and registration queue (R54). -/
structure Pending where
  id : Nat
  dest : Dest
  addr : Nat
  byteOff : Nat
  acq : Bool
  atomic : Option AtomicOp
  haveMask : Word
  haveBits : Word
  value : Option Word
  window : Bool
  member : Nat
  va : Word
  /-- address of its instruction (R188) -/
  pc : Word
  deriving DecidableEq, Repr

/-- What a located access is: the context's frame, another place of the cluster store, a translated address, or the window. -/
inductive LocKind where
  | frame | scratch | global | window
  deriving DecidableEq, Repr

/-- Where an access lands: its byte address, the leaf it went through (0 outside the page table), for a window the
member addressed, and for a translated address VA[54:16] and whether the leaf is a block. -/
structure Loc where
  addr : Nat
  kind : LocKind
  pte : Word
  member : Nat
  leaf : Option (Nat × Bool)
  deriving DecidableEq, Repr

/-! ## Contexts -/

/-- States of a context: free (no actor bound or slot FREE), Table 5.1, and a strand slot that waits for a return entry (R112). -/
inductive RunState where
  | free | idle | ready | running | faulted | evicted | ended | returning
  deriving DecidableEq, Repr

/-- A message with its arrival time (R420); `counted` once transit and queue wait are counted. -/
structure StoredMsg where
  msg : Message
  arrival : Word
  counted : Bool
  deriving DecidableEq, Repr

/-- Where a handler's trigger came from (R110). -/
inductive TrigSource where
  | notice
  | mailbox (n : Fin 8)
  | strand
  deriving DecidableEq, Repr

/-- The trigger of a running handler, or the resumption point of a strand (R110, R180). `held` while it keeps its slot;
`deferred` once DEFER has been used (R176). -/
structure Trigger where
  stored : StoredMsg
  source : TrigSource
  held : Bool
  deferred : Bool
  deriving DecidableEq, Repr

/-- How a section ends (R179). `migrate` carries the destination cell. -/
inductive CommitKind where
  | hcommit | hdone | exit | sdone
  | migrate (destCell : Nat) (destModule : Nat)
  deriving DecidableEq, Repr

/-- The open section of a context (R106). -/
structure Section where
  irrevocable : Bool
  buffer : List Effect
  /-- (granule address, old 32 bytes), youngest first (R107) -/
  journal : List (Nat × BitVec 256)
  committed : Nat
  start : Snapshot
  /-- the section is running again after a machine check (R113) -/
  rerun : Bool
  /-- cleared when a new row value was spilled over its slot (R234) -/
  rerunnable : Bool
  /-- tags that this section's first attempt cleared (R334) -/
  clearedTags : Word
  /-- SPAWNs of this section that raised the count (R110) -/
  spawned : Nat
  /-- a strand's count has been granted and its SPAWN is not carried out yet (R187) -/
  granted : Bool := false
  /-- (slot, LAST before) of this section's HSTEPs, youngest first (R361) -/
  lastJournal : List (Fin 4 × Option Word)
  /-- a commit that has begun (R109, R181) -/
  commit : Option CommitKind
  /-- a watchdog expiry held during the commit (R181) -/
  heldExpiry : Bool
  deriving DecidableEq, Repr

/-- Why a context does not issue, where the manual's counters and answers ask for it (R95, R183, R335, R422). -/
inductive Wait where
  | none
  /-- a translation fault under service, by cluster and outstanding-miss entry (R95) -/
  | xlate (cluster entry : Nat)
  /-- a spawn-count request, answered or not (R183) -/
  | spawn (answer : Option Bool)
  /-- WTAG (R335) -/
  | tags (mask : Word) (any : Bool)
  /-- effect buffer, outbound queue or command queue full (R422 STALLCYC) -/
  | full
  /-- any other stall that the instruction tries again -/
  | other
  deriving DecidableEq, Repr

/-- A tag's transfer state as the context sees it (R329, R330). -/
structure TagState where
  tags : Word
  status : Vector Word 64
  deriving DecidableEq, Repr

/-- One parity of a grid slot (R353): the generation it holds, the faces that have arrived, and the (face, source part)
strips written so far, or dropped because the generation was released before them (R356), and REL (R362). -/
structure Parity where
  gen : Option Word
  arrived : BitVec 8
  got : List (Nat × Nat)
  rel : Bool := false
  deriving DecidableEq, Repr

/-- A grid slot (R353, R358): the 128-byte descriptor bound, the part owned, LAST and the two parities. -/
structure GridSlot where
  desc : Option (BitVec 1024)
  part : Option Nat
  last : Option Word
  par0 : Parity
  par1 : Parity
  deriving DecidableEq, Repr

/-- Side-lane entries of one ring slot (R287). -/
structure SideLanes where
  seqNorm : BitVec 16
  seqScale : BitVec 16
  seqMeta : BitVec 16
  norm : List Word32
  scale : List Byte
  meta24 : List Byte
  /-- demand mode: a 1 for each k whose data has landed (R328) -/
  fetched : BitVec 32
  /-- demand mode: the transfer can still fetch -/
  live : Bool
  deriving DecidableEq, Repr

/-- A reservation of ring tiles by an operation (R289): first sequence number, tiles, whether its pop is due. -/
structure Reservation where
  first : Nat
  count : Nat
  popDue : Bool
  /-- its operation left without retiring (R299, R319) -/
  cancelled : Bool
  opId : Nat
  deriving DecidableEq, Repr

/-- A ring (Table 15.3) with its side lanes and outstanding reservations. -/
structure Ring where
  base : BitVec 21
  slots : BitVec 7
  role : BitVec 1
  fmt : BitVec 4
  sparse : BitVec 1
  normw : BitVec 3
  demand : BitVec 1
  head : BitVec 16
  tail : BitVec 16
  resv : BitVec 16
  seq : BitVec 16
  lanes : Tbl SideLanes
  reservations : List Reservation
  deriving DecidableEq, Repr

/-- A mailbox: its declaration (Table 5.6), its FIFO, its overflow ring (read and count; the entries are in memory,
arrival data beside them) and its pass counter (R115-R120). -/
structure Mailbox where
  valid : Bool
  cls : Nat
  typ : BitVec 8
  cap : Nat
  ovflog : Nat
  ovfbase : Word
  fifo : List StoredMsg
  ovfHead : Nat
  ovf : List (Word × Bool)
  pass : Nat
  deriving DecidableEq, Repr

/-- Per-context performance counters (Table 22.13). -/
structure Counters where
  activecyc : Word
  retired : Word
  commits : Word
  aborts : Word
  sent : Word
  stallcyc : Word
  deriving DecidableEq, Repr

/-- Debug state of a context (R416, R417). -/
structure Debug where
  halted : Bool
  reason : Nat
  detail : Nat
  step : Bool
  haltReq : Bool
  /-- the next instruction executes without breakpoint matching -/
  pass : Bool
  deriving DecidableEq, Repr

/-- What a placement grants an actor (R379): LOCAL offsets and sizes in its cluster, physical accumulators, rings. -/
structure Grants where
  frameOff : Nat
  frameSize : Nat
  scratchOff : Nat
  scratchSize : Nat
  accs : List Nat
  rings : Nat
  deriving DecidableEq, Repr

/-- Who a context works for (R20, R104, R123, R380). -/
structure Ident where
  lslot : BitVec 8
  asid : BitVec 16
  /-- address of the root actor: the actor itself, or the strand's first ancestor's actor -/
  root : BitVec 40
  gtid : Word
  full : Bool
  deriving DecidableEq, Repr

/-- Progress of a vector instruction that stalled part way (R228): its PC, the next chunk, what earlier chunks gave. -/
structure VProgress where
  pc : Word
  chunk : Nat
  acc : List Word
  /-- lanes of this chunk whose values have arrived: (operand × 1024 + lane, bits) -/
  got : List (Nat × Nat)
  /-- words of this chunk already stored (R226, R228) -/
  stored : Nat := 0
  deriving DecidableEq, Repr

/-- A context (R99). -/
structure Ctx where
  regs : Regs
  fstat : BitVec 6
  frm : BitVec 2
  pc : Word
  state : RunState
  ident : Ident
  grants : Grants
  spawnlim : BitVec 16
  seq : BitVec 24
  /-- outstanding strands of the actor (R125) -/
  strands : Nat
  sec : Section
  trigger : Option Trigger
  runStart : Word
  loads : List Pending
  nextId : Nat
  wait : Wait
  progress : Option VProgress
  /-- the place that a store or atomic has found, kept while it waits (R153, R161) -/
  place : Option Loc
  /-- w registers that the instruction being issued holds in rows (R233) -/
  inUse : List Nat
  shadows : Vector Word 22
  tag : TagState
  grid : Vector GridSlot 4
  rings : Vector Ring 8
  routines : Vector Word 64
  mailboxes : Vector Mailbox 8
  notices : List StoredMsg
  wdog : Nat
  wdogBudget : Nat
  counters : Counters
  dbg : Debug
  detached : Bool
  /-- the first fetch of this run is still due: a bad entry raises BAD_TARGET with VADDR 0 (R30, R182) -/
  entryFetch : Bool
  /-- an actor whose trap returned its trigger runs it first when resumed (R131) -/
  resumeFrom : Option TrigSource
  deriving DecidableEq, Repr

/-! ## Cells -/

/-- A physical vector row in use (R232-R234): which register it holds, newer than its slot, written in this section. -/
structure Row where
  slot : Nat
  reg : Nat
  dirty : Bool
  newValue : Bool
  deriving DecidableEq, Repr

/-- What an outbound entry carries. -/
inductive OutKind where
  | actor (m : Message)
  | strand (s : StrandMsg)
  deriving DecidableEq, Repr

/-- An entry of a cell's outbound queue (R109, R118): the sending context, the message, and once refused the delay and
the cycles still to wait. -/
structure OutMsg where
  slot : Nat
  asid : BitVec 16
  kind : OutKind
  held : Option (Nat × Nat)
  deriving DecidableEq, Repr

/-- An entry of a timing table (R420). -/
structure Timing where
  sender : BitVec 40
  count : Word
  transit : Word
  qwait : Word
  run : Word
  deriving DecidableEq, Repr

/-- A breakpoint unit (Table 22.5). -/
structure BpUnit where
  addr : Word
  id : Word
  ctl : Word
  deriving DecidableEq, Repr

/-- A cell (R16). Views are keyed by memory word address. -/
structure Cell where
  regq : List RegEntry
  view : Tbl ViewEntry
  iview : Tbl Word
  outq : List OutMsg
  arrivals : List StrandMsg
  returns : List StrandMsg
  /-- slots that wait for a return entry, in the order of their aborts (R112) -/
  returnWait : List (Nat × StrandMsg)
  spawnCount : BitVec 37
  /-- atomics of sections that a trap has ended before they reached their home, by slot, oldest first (R60, R187) -/
  amos : List (Nat × Pending)
  /-- rows in use, most recently used first -/
  rows : List Row
  /-- most recently used first -/
  timing : List Timing
  timingOthers : Timing
  discarded : Word
  rejected : Word
  refused : Word
  deriving DecidableEq, Repr

/-! ## Clusters -/

/-- A TLB entry (R94): ASID, VA[54:16] of the page or block, whether a block, the leaf as walked. -/
structure TlbEntry where
  asid : BitVec 16
  vpn : Nat
  block : Bool
  pte : Word
  deriving DecidableEq, Repr

/-- An access stalled on a translation fault (R95): its context, what it was, and the record values of a fatal answer. -/
structure Waiter where
  ctx : CtxId
  va : Word
  kind : Fin 4
  code : BitVec 8
  cause : Nat
  lane : Nat
  pc : Word
  deriving DecidableEq, Repr

/-- An outstanding miss under service (R94, R96): ASID, VA[54:16] of the page or of the block's first page, waiters, and whether
its walk has not ended yet. -/
structure Miss where
  asid : BitVec 16
  vpn : Nat
  block : Bool
  waiters : List Waiter
  walking : Bool := false
  deriving DecidableEq, Repr

/-- An accumulator (R285, Table 15.2): 2,048 elements row-major (an unlisted one is +0), variance word, status, typed. -/
structure Acc where
  elems : List Word32
  var : Word32
  status : BitVec 8
  typed : Bool
  /-- operations numbered from this on are dropped while FAULT is set (R299) -/
  faultAt : Nat
  deriving DecidableEq, Repr

/-- Kinds of queued EME work. -/
inductive EmeKind where
  | mma | mmas | accz | vaccwr | rpop
  deriving DecidableEq, Repr

/-- An operation of the EME's command queue (R290, Tables 15.7 and 15.8). -/
structure EmeOp where
  id : Nat
  kind : EmeKind
  word : Word32
  acc : Nat
  accRel : Nat
  ringA : Nat
  ringB : Nat
  owner : CtxId
  lslot : BitVec 8
  asid : BitVec 16
  actid : BitVec 32
  msgid : Word
  pc : Word
  k : Nat
  samp : Word
  seed : Word
  tcoord : Word
  prio : Nat
  wait : Nat
  /-- has first run; it has started (R291, R319) -/
  ran : Bool
  /-- passed the checks of R306 -/
  checked : Bool
  /-- drained while on the array: it stops at the next k-step boundary (R319) -/
  stop : Bool
  /-- an INT32 accumulation of this operation wrapped (R208) -/
  ov : Bool
  followon : Bool
  drawn : Bool
  exactRun : Bool
  kpos : Nat
  /-- draws as (slice, multiplicity, factor) in increasing slice (R295) -/
  draws : List (Nat × Nat × Word32)
  work : List Word32
  tsum : Word32
  /-- VACCWR: first element and the lanes to write (R268) -/
  rowFirst : Nat
  data : List Word32
  /-- RPOP: tiles (R317) -/
  count : Nat
  deriving DecidableEq, Repr

/-- A transfer of the copy engine (R324, R334). -/
structure Transfer where
  tid : Word
  tag : Nat
  ctx : CtxId
  ident : Ident
  aindex : Nat
  /-- MSGID of the trigger at CPGO, for the follow-on's record (Table 15.6) -/
  msgid : Word
  /-- shadows 0-21 as CPGO took them -/
  snap : Vector Word 22
  pc : Word
  /-- next element of the walk -/
  cursor : Nat
  /-- ring fills: tiles pushed -/
  pushed : Nat
  bytes : Nat
  /-- ACQ: the hand-over release is not yet performed -/
  handOver : Bool
  suspended : Bool
  cancelled : Bool
  code : BitVec 8
  /-- the last write is made; completion steps remain -/
  written : Bool
  /-- a demand fill's slices already fetched, as absolute slice numbers -/
  slices : List Nat
  /-- the follow-on has been placed -/
  placed : Bool
  /-- first sequence number given by a ring fill -/
  firstSeq : Nat
  /-- the follow-on waits for an entry of the EME's queue (R290) -/
  folHeld : Bool
  /-- words that arrived from a peer member's share, and those under request (R401) -/
  got : List (Nat × Word)
  asked : List Nat
  /-- it has made its first read (R334) -/
  started : Bool := false
  /-- the ring tile that chunks already written belong to (R340) -/
  tileSeq : BitVec 16 := 0
  deriving DecidableEq, Repr

/-- A strip that an agent holds for a receiver (R356): the strip, its sending owner's context, the backoff once refused, and the
receiver's module when that is a peer. -/
structure HeldStrip where
  strip : Strip
  owner : CtxId
  held : Option (Nat × Nat)
  toModule : Option Nat := none
  deriving DecidableEq, Repr

/-- A gather or scatter lane at its owner's agent (R365): the requester, its pending id or its scatter, the lane. -/
structure ActiveLane where
  from_ : CtxId
  owner : CtxId
  slotNo : Fin 4
  /-- element offset in the owner's interior -/
  elem : Nat
  scatter : Bool
  op : Nat
  value : Word
  id : Nat
  lane : Nat
  lslot : Nat
  asid : BitVec 16
  /-- the requester's address and its trigger's MSGID, for a REJECT notice -/
  root : BitVec 40
  msgid : Word
  ownerIndex : Nat
  part : Nat
  /-- the lane as it crosses modules, to a peer's owner or from a peer's requester -/
  away : Option PeerLane := none
  deriving DecidableEq, Repr

/-- The current generation of a barrier (R128, R129): generation number, combined value, operation, arrived actors,
MIXED, and arrivals that already count toward later generations. -/
structure Barrier where
  gen : Word
  value : Word
  op : Option Nat
  mixed : Bool
  arrived : List Nat
  later : List (Nat × Nat × Word)
  deriving DecidableEq, Repr

/-- A line of an LLC slice or gateway cache with its 2-bit RRPV (R82). -/
structure CacheLine where
  line : Nat
  rrpv : Nat
  dirty : Bool
  deriving DecidableEq, Repr

/-- An LLC slice or gateway cache (R82): ways of the sets in use, the selectors by traffic class (a gateway cache has one),
the bimodal count. -/
structure Cache where
  sets : Tbl (List (Option CacheLine))
  psel : List Nat
  bimodal : BitVec 5
  deriving DecidableEq, Repr

/-- A miss of an LLC slice under service (R84): the line, and the dirty victim for whose write-back its fill waits. -/
structure SliceMiss where
  line : Nat
  victim : Option Nat
  deriving DecidableEq, Repr

/-- The write-backs of an LLC slice (R84), as lines: the 4 reserved entries, each controller's place for the slice, and those
that wait on the write-back channel, oldest first. -/
structure WriteBacks where
  reserved : List Nat
  places : Tbl Nat
  channel : List Nat
  deriving DecidableEq, Repr

/-- A cluster (R15). -/
structure Cluster where
  /-- CSMODE target modes, 2 bits per bank (Table 4.2) -/
  csmode : BitVec 32
  /-- current bank modes, 2 bits per bank -/
  modes : BitVec 32
  tlbPages : List TlbEntry
  tlbBlocks : List TlbEntry
  misses : Tbl Miss
  accs : Tbl Acc
  eme : List EmeOp
  nextOp : Nat
  /-- the operation on the array (R291) -/
  running : Option Nat
  transfers : List Transfer
  cpCount : BitVec 21
  strips : List HeldStrip
  lanes : List ActiveLane
  /-- group barriers, keyed by LSLOT × 2^28 + group × 16 + number -/
  barriers : Tbl Barrier
  /-- the cluster's LLC slice (R82), its misses and its write-backs (R84) -/
  slice : Cache
  missTab : List SliceMiss
  wb : WriteBacks
  /-- the shared data cache (R75): sets in use, a way per bank -/
  dcache : Tbl (List (Option CacheLine))
  deriving DecidableEq, Repr

/-! ## Dies -/

/-- A die's management registers and dispatcher (R98 and the tables named). -/
structure Die where
  actctlId : Word
  actctlSt : Word
  noteId : Word
  noteM0 : Word
  noteM1 : Word
  noteSt : Word
  cpctlId : Word
  cpctlSt : Word
  dbgctlId : Word
  dbgctlSt : Word
  wf : Vector (Word × Word) 32
  ttAddr : Word
  ttDump : Option (Nat × Bool)
  cntEn : Bool
  /-- channel counters keyed by channel × 8 + counter (Table 4.7) -/
  hbm : Tbl Word
  /-- die-local cluster of the dispatcher's previous placement (R378) -/
  prevCluster : Option Nat
  /-- die gateway copies keyed by memory word address (R46) -/
  copies : Tbl Word
  /-- the three die gateway caches, by sibling die (R82) -/
  gwCaches : Tbl Cache
  /-- walk requests, oldest first, as (cluster, outstanding-miss entry) (R94) -/
  walks : List (Nat × Nat)
  freq : BitVec 16
  throttled : Bool
  deriving DecidableEq, Repr

/-! ## Launches -/

/-- A launch packet (Table 20.1). -/
structure Packet where
  asid : BitVec 16
  prio : Nat
  flags : BitVec 8
  actors : Nat
  accs : Nat
  rings : Nat
  deadline : Word
  codebase : Word
  rtab : Word
  const : Word
  args : Word
  groups : Nat
  frame : Nat
  wdog : Nat
  scratch : Nat
  spawnlim : BitVec 16
  sovlog : Nat
  waitn : Nat
  csmode : BitVec 32
  gangid : Nat
  gangn : Nat
  kshare : Nat
  gangtab : Word
  mbdecl : Word
  spill : Word
  waittab : Word
  compl : Word
  sovbase : Word
  deriving DecidableEq, Repr

/-- A resident group (R19, R379): its cluster, scratch grant, the contexts of its members, and whether it has retired. -/
structure Group where
  cluster : Nat
  scratchOff : Nat
  ctxs : List CtxId
  retired : Bool
  /-- what its mailboxes, notice queues and side lanes take of FIFO banks: bank, bytes (R77, R379) -/
  fifo : List (Nat × Nat) := []
  deriving DecidableEq, Repr

/-- What eviction saves of a context (R383): actor index and the context as saved, with its frame's bytes. -/
structure SavedCtx where
  group : Nat
  member : Nat
  ctx : Ctx
  frame : List Byte
  accs : List Acc
  ops : List EmeOp
  transfers : List Transfer
  deriving DecidableEq, Repr

/-- What eviction saves of a group once every context has stopped (R383): scratch bytes, held strips. -/
structure SavedGroup where
  group : Nat
  scratch : List Byte
  /-- held strips by the member that sent them -/
  strips : List (Nat × HeldStrip)
  barriers : Tbl Barrier
  deriving DecidableEq, Repr

/-- Gang state of a launch (R381, R400-R404): member modules and slots, own index, window state, departed members (the first
one first) and the first one's cause, detached members, own detached actors, gathered answers of a coordinator. -/
structure Gang where
  member : Nat
  coordinator : Bool
  modules : List Nat
  slots : List Nat
  state : Fin 4
  departed : List Nat
  cause : Nat
  detached : BitVec 256
  /-- own actors that have detached (R403) -/
  ownDetached : Nat
  /-- ranks of peer members' actors that have ended, as the control channel reports them (R185) -/
  endedRanks : List Nat
  answers : List (Nat × Bool)
  committed : Bool
  /-- a member has answered no: the next attempt follows a retirement or an eviction on a member (R381) -/
  blocked : Bool
  /-- what members report as their groups have all retired (R372) -/
  retired : List MemberReport
  /-- the module of the coordinator -/
  chief : Nat := 0
  /-- a coordinator's reserve requests are out (R381) -/
  asked : Bool := false
  /-- the other members have been told that this one has stopped (R383) -/
  told : Bool := false
  deriving DecidableEq, Repr

/-- One network reduction's generation (R409, R410): contributions by rank, later ones behind. -/
structure Reduction where
  gen : Word
  contributions : List Contribution
  later : List Contribution
  deriving DecidableEq, Repr

/-- A moored arrival (R384): a message or notice; a strip or lane of the Mortar agent (R367); a reduction result with
its notice (R410). -/
inductive Moored where
  | msg (m : Message)
  | strip (st : Strip)
  | lane (l : ActiveLane)
  | result (dst : Nat) (data : BitVec 2048) (m : Message)
  deriving DecidableEq, Repr

/-- Where an actor stands (R384): not yet placed, resident, evicted, or ended. -/
inductive Place where
  | unplaced
  | at (c : CtxId)
  | evicted
  | ended
  deriving DecidableEq, Repr

/-- An actor's directory entry with its mooring queue (R384, R385); `home` is the cell that it stands on or stood on last. -/
structure Actor where
  place : Place
  home : Option Nat := none
  mooring : List Moored
  /-- entries already taken from the chain's first block (R385) -/
  taken : Nat
  /-- the chain's blocks of the eviction pool, first to last (R385) -/
  chain : List Nat := []
  deriving DecidableEq, Repr

/-- What the cells keep of a strand overflow entry beside its bytes in memory (R124): entry number, destination cell, and
what Table 5.4 gives no place (arrival, FSTAT). -/
structure SovEntry where
  index : Nat
  cell : Nat
  arrival : Word
  fstat : BitVec 6
  deriving DecidableEq, Repr

/-- An active launch slot (R375). -/
structure Launch where
  packet : Packet
  queue : Nat
  effdl : Word
  arrival : Word
  start : Word
  late : Bool
  routines : Vector Word 64
  consts : Vector Word 64
  mailboxes : Vector Mailbox 8
  /-- groups placed so far, in increasing index -/
  nextGroup : Nat
  groups : Tbl Group
  actors : Tbl Actor
  evicting : Bool
  evicted : Bool
  evictions : Nat
  /-- blocks of the eviction pool that its saved state takes, and which -/
  saveBlocks : Nat
  saveChain : List Nat
  saved : List SavedCtx
  savedGroups : List SavedGroup
  cancelled : Bool
  faultedEnded : Nat
  /-- the die and cluster that the next group waits for while its banks move (R379) -/
  moving : Option (Nat × Nat)
  /-- identifiers of transfers that went on elsewhere after an eviction (R25, R341) -/
  movedTids : List Word
  gang : Option Gang
  /-- launch-scope barriers by number -/
  barriers : Tbl Barrier
  reductions : Tbl Reduction
  /-- strand overflow ring: entries in use, oldest first; their bytes are in memory (R124) -/
  sov : List SovEntry
  strandMooring : List StrandMsg
  /-- the strand mooring queue's chain, and entries taken from its first block -/
  strandChain : List Nat
  strandTaken : Nat
  /-- a gang reservation: groups held, before commit (R381) -/
  reserved : Bool
  deriving DecidableEq, Repr

/-! ## The hub -/

/-- A fault record (Table 22.1). -/
structure FaultRecord where
  code : BitVec 8
  unit : BitVec 8
  unitIdx : BitVec 16
  asid : BitVec 16
  sections : BitVec 16
  ident : Word
  msgid : Word
  pc : Word
  vaddr : Word
  cursor : Word
  lane : BitVec 16
  flags : BitVec 8
  dtc : Word
  deriving DecidableEq, Repr

/-- A notice on its way to an actor (R102): destination actor, message, the cell that counts it if it is lost, the
backoff once held for lack of pool space (R385), and the die whose NOTECTL holds it. -/
structure NoticeMsg where
  dest : BitVec 40
  asid : BitVec 16
  msg : Message
  cell : Nat
  held : Option (Nat × Nat)
  die : Option Nat
  /-- a reduction's result that goes with it: LOCAL offset and bytes (R410) -/
  result : Option (Nat × BitVec 2048) := none
  deriving DecidableEq, Repr

/-- A launch queue's registers (Table 20.5), observed tail, arrival times of present packets, active launch slots from it. -/
structure Queue where
  qbase : Word
  qctl : Word
  qtailpa : Word
  qslack : Word
  qhead : BitVec 32
  qstat : Word
  tail : BitVec 32
  arrivals : List Word
  last : Option Nat
  deriving DecidableEq, Repr

/-- A LAUNCH request at the dispatcher (R186). -/
structure LaunchReq where
  asid : BitVec 16
  ident : Word
  va : Word
  queue : Nat
  deriving DecidableEq, Repr

/-- A strand's count request (R183): the slot and its root actor, whether it has left for the root's module, and whether its SPAWN has
been aborted, so that what it raises is returned (R187). -/
structure SpawnReq where
  ctx : CtxId
  root : BitVec 40
  sent : Bool
  aborted : Bool
  deriving DecidableEq, Repr

/-- A released BARR on its way (R128). -/
structure BarrMsg where
  lslot : Nat
  aindex : Nat
  launchScope : Bool
  n : Nat
  op : Nat
  value : Word
  deriving DecidableEq, Repr

/-- A service core's fault ring (Table 22.4). -/
structure FaultRing where
  base : Word
  head : BitVec 32
  tail : BitVec 32
  deriving DecidableEq, Repr

/-- One direction of a Ryoft port (R398, R399). -/
structure LinkDir where
  key : Option (BitVec 256)
  salt : BitVec 48
  nextKey : Option (BitVec 256 × BitVec 48)
  counter : Nat
  keywait : Bool
  deriving DecidableEq, Repr

/-- A decrease that a receiver has announced and not yet taken into its pool (R395): its LEND's number, the channel, the new
limit, the flits freed, and whether the sender has acknowledged it. -/
structure LendWait where
  seq : Nat
  channel : Nat
  limit : Nat
  freed : Nat
  acked : Bool
  deriving DecidableEq, Repr

/-- A control flit that this side has sent (R395, R398); `credit` names the channel and hop class of the flits that left. -/
inductive LinkCtl where
  | credit (channel cls flits : Nat)
  | lend (seq : Nat) (limits : List Nat)
  | ack (seq : Nat)
  | keySwitch
  | keyFinal (counter : Nat)
  deriving DecidableEq, Repr

/-- What a hub tells another on the control channel (Table 21.1): the gang's reserve, commit, abandon and eviction requests and their
answers (R381, R382), a member that has stopped (R383), detached (R403) or retired (R372), a collapse (R404), an actor's launch-scope arrival (R185), a
spawn-count request, its answer, and a decrement (R183), the refusal of a message, strand or strip (R118, R356), a module's capability
vector (R397) and the beacon (R426). -/
inductive CtlMsg where
  | reserve (r : GangRequest)
  | answer (gangId member : Nat) (a : GangAnswer)
  | commit (gangId : Nat) (slots : List Nat)
  | abandon (gangId : Nat)
  | evict (gangId : Nat)
  | stopped (gangId member : Nat)
  | retired (gangId : Nat) (r : MemberReport)
  | detached (gangId member : Nat)
  | collapse (gangId departed cause : Nat)
  | barrier (b : PeerBarr)
  | spawnRequest (asid : Nat) (root : BitVec 40)
  | spawnAnswer (granted : Bool)
  | decrement (root : BitVec 40)
  | refused (m : Message)
  | stripRefused (st : Strip)
  | capability (module : Nat) (vec : Word32)
  | beacon (value : Word)
  deriving DecidableEq, Repr

/-- A read of the dispatcher that a translation fault stalls (R95): its ASID and address, its stall token, the fault's code and cause,
and whether the service core has answered fatal. -/
structure HubStall where
  asid : BitVec 16
  va : Word
  token : Nat
  code : Nat
  cause : Nat
  fatal : Bool
  deriving DecidableEq, Repr

/-- A Ryoft port (R390-R399). Channel lists have six entries (Table 21.1). -/
structure Port where
  up : Bool
  out : LinkDir
  inn : LinkDir
  failures : Nat
  /-- sender side: limits and in-flight counts, last LEND applied -/
  limits : List Nat
  inFlight : List Nat
  lendApplied : Option Nat
  /-- receiver side: limits announced, pool, next LEND number, decreases that wait for an acknowledgement -/
  announced : List Nat
  pool : Nat
  lendSeq : Nat
  waiting : List LendWait
  /-- flits in flight by channel × 4 + hop class − 1 (R393) -/
  inClass : List Nat
  /-- packets that wait for this link, oldest first, with the port that they came in by (R392, R393) -/
  outQ : List (RyPacket × Option Nat)
  /-- packets in the input buffer, oldest first (R393, R395) -/
  inBuf : List RyPacket
  /-- units sent, kept for retransmission (R398) -/
  wire : List WireUnit
  /-- flits of a packet that the key's last pair has cut off (R398) -/
  cutOff : List (BitVec 512)
  /-- control flits that this side has sent, oldest first -/
  ctlSent : List LinkCtl
  /-- credits that wait for the link's next key -/
  ctlQ : List LinkCtl
  /-- data flits accepted of packets that are not complete, oldest first -/
  received : List (BitVec 512)
  /-- PSEQ numbers for which retransmission was asked -/
  nak : List (BitVec 16)
  deriving DecidableEq, Repr

/-- A boot-journal record (Table 23.2) as its 32 bytes. -/
abbrev BootRecord := BitVec 256

/-- A firmware bundle of a flash slot: eight images, an empty one absent (R427). -/
structure ImageSlot where
  images : List (List Byte)
  deriving DecidableEq, Repr

/-- The hub's registers, dispatcher, links, flash and boot state. -/
structure Hub where
  tlbinvVa : Word
  tlbinvSt : Word
  /-- an invalidation in progress: mode, ASID, VA[54:16] (R97) -/
  tlbinv : Option (Nat × Nat × Nat)
  asidtab : Word
  queues : Vector Queue 64
  launches : Tbl Launch
  lcancelSt : Word
  evpool : Word
  evpoolSz : Word
  evpoolUse : Word
  /-- blocks of the eviction pool in use, by number -/
  poolUsed : List Nat
  rings : Vector FaultRing 4
  fsteer : Word
  fsteerDef : Word
  /-- the hub's copy of the breakpoint units; what every cell holds of them; the units whose broadcast runs (R415) -/
  bps : Vector BpUnit 8
  cellBps : Vector BpUnit 8
  bpBusy : List Nat
  trbase : Word
  trhead : BitVec 32
  trtail : BitVec 32
  trdrop : Word
  records : List FaultRecord
  notices : List NoticeMsg
  spawnReqs : List SpawnReq
  decrements : List (BitVec 40)
  barrs : List BarrMsg
  nreds : List Contribution
  launchReqs : List LaunchReq
  /-- peer modules that hold a fabric gateway copy, by memory word address (R396) -/
  directory : Tbl (List Nat)
  /-- messages and strands that left for other modules, oldest first (R22) -/
  toPeers : List OutKind
  /-- values of peers' gather lanes served here, and acknowledgements of their scatter lanes (none: not served) (R365, R368) -/
  laneReplies : List (PeerLane × Option Word)
  /-- what this hub has sent on the control channel, with its module, oldest first (Table 21.1) -/
  ctlOut : List (Nat × CtlMsg)
  /-- coordinators on other modules that wait for a retirement or an eviction here: module, gang, own member index (R381) -/
  gangWaits : List (Nat × Nat × Nat)
  /-- reads of the dispatcher that a translation fault stalls (R95, R370, R375) -/
  stalls : List HubStall
  keystoneDiscards : Word
  dispatcherErrors : Word
  ports : Vector Port 30
  /-- per-pair sequence numbers, by module × 8 + channel: the next to assign, the next to deliver (R394) -/
  sendSeq : Tbl Nat
  recvSeq : Tbl Nat
  /-- packets for this module that an earlier one of their pair still holds back, and those delivered, oldest first (R394) -/
  reorder : List RyPacket
  inbox : List RyPacket
  /-- packets of this module that no route takes yet (R392) -/
  noRoute : List RyPacket
  /-- replies reserved for accepted requests, by module (R393) -/
  replySlots : List Nat
  caps : Tbl Word32
  modRow : BitVec 4
  modCol : BitVec 4
  rowsM1 : BitVec 4
  colsM1 : BitVec 4
  /-- die that starts the next rotation (R377) -/
  rotation : Nat
  fabCopies : Tbl Word
  /-- the fabric gateway cache (R82) -/
  fabCache : Cache
  flash : List ImageSlot
  bootJournal : List BootRecord
  bootNo : BitVec 32
  /-- the bring-up step that is to end next, 1-8; 9 when ready, 0 when stopped (R423) -/
  bootStep : Nat
  bootSlot : Option Nat
  meas : Vector (BitVec 256) 8
  devid : Word
  beacon : Word
  pwrlim : Word
  hubFreq : BitVec 16
  hubThrottled : Bool
  /-- marked-out units: HBM stacks and LPDDR packages, die links, Ethernet ports, Ryoft ports, clusters (R425) -/
  outMem : List Nat
  outLinks : List Nat
  outEther : List Nat
  outPorts : List Nat
  outClusters : List Nat
  /-- interrupts raised to the four service cores (R414) -/
  irq : BitVec 4
  /-- the RDMA WRITE traffic of a checkpoint, oldest first: Ethernet port, physical address, bytes (R342) -/
  checkpoint : List (Nat × Nat × List Byte)
  deriving DecidableEq, Repr

/-! ## Moves and the machine -/

/-- One move of the run (log 1): an instruction issue of a context (`late`: its loads stay outstanding, R122; `walk`: its walks
are requests to the die's walkers, which TRANSLATION_WALK ends, R94), a move of another agent, or the passing of time
(cell-clock cycles and DTC nanoseconds). -/
inductive Move where
  | issue (c : CtxId) (late : Bool) (walk : Bool := false)
  | event (i : Instr)
  | tick (cycles ns : Nat)
  deriving DecidableEq, Repr

/-- The module. Keys: `ctxs` cell × 32 + context; `cells` linear cell; `clusters` linear cluster; `dies` 0-3;
`owners` memory word address to owner cell (R46). -/
structure State where
  /-- the context whose instruction `exec` carries out (log 1) -/
  cur : CtxId
  agenda : List Move
  freeCtr : Nat
  /-- registrations made so far; it numbers update entries (R53) -/
  regCtr : Nat
  lateLoads : Bool
  lateWalks : Bool
  power : Bool
  dtc : Word
  /-- DTC less the nanoseconds since reset (R423, Table 23.2) -/
  dtcShift : Word
  mem : Memory
  ctxs : Tbl Ctx
  cells : Tbl Cell
  clusters : Tbl Cluster
  dies : Tbl Die
  owners : Tbl Nat
  gwq : List (GwId × List GwEntry)
  /-- FENCE.SC points taken, youngest first (R59) -/
  fenceOrder : List CtxId
  hub : Hub
  deriving DecidableEq, Repr

/-- Why the machine stops: nothing stops it. What the manual calls a fault is taken as the manual says, and a unit that is sent to an
address without memory gives an error record (R425; log 90). -/
inductive Fault
  deriving DecidableEq, Repr

/-- Why the machine gives no meaning. -/
inductive Refusal where
  /-- An instruction whose meaning is not written yet. Raised by Dispatch only; safe. -/
  | notModelled (mnemonic : String)
  deriving DecidableEq, Repr

/-! ## Reset values -/

/-- A w register after reset and at handler entry (R105): unbound, reads zero. -/
def WReg.zero : WReg := { bound := none, data := 0, spilled := false }

/-- Registers all zero (R105; at module reset log 6). -/
def Regs.zero : Regs :=
  { x := Vector.replicate 32 0, f := Vector.replicate 32 0, w := Vector.replicate 32 WReg.zero,
    t := Vector.replicate 16 0, k := Vector.replicate 8 0, m := Vector.replicate 16 0, c := Vector.replicate 64 0 }

def Snapshot.zero : Snapshot :=
  { regs := Regs.zero, fstat := 0, frm := 0, spawnlim := 0, seq := 0, pc := 0 }

def Section.fresh : Section :=
  { irrevocable := false, buffer := [], journal := [], committed := 0, start := Snapshot.zero, rerun := false,
    rerunnable := true, clearedTags := 0, spawned := 0, lastJournal := [], commit := none, heldExpiry := false }

/-- A parity that holds no generation (R358). -/
def Parity.empty : Parity := { gen := none, arrived := 0, got := [] }

/-- An unbound grid slot (R358). -/
def GridSlot.unbound : GridSlot := { desc := none, part := none, last := none, par0 := Parity.empty, par1 := Parity.empty }

/-- A ring at the reset values of Table 15.3. -/
def Ring.reset : Ring :=
  { base := 0, slots := 0, role := 0, fmt := 0, sparse := 0, normw := 7, demand := 0, head := 0, tail := 0, resv := 0,
    seq := 0, lanes := [], reservations := [] }

/-- An undeclared mailbox (R115). -/
def Mailbox.none : Mailbox :=
  { valid := false, cls := 0, typ := 0, cap := 0, ovflog := 0, ovfbase := 0, fifo := [], ovfHead := 0, ovf := [], pass := 0 }

def Counters.zero : Counters := { activecyc := 0, retired := 0, commits := 0, aborts := 0, sent := 0, stallcyc := 0 }

def Debug.off : Debug := { halted := false, reason := 0, detail := 0, step := false, haltReq := false, pass := false }

def Grants.none : Grants := { frameOff := 0, frameSize := 0, scratchOff := 0, scratchSize := 0, accs := [], rings := 0 }

def Ident.none : Ident := { lslot := 0, asid := 0, root := 0, gtid := 0, full := false }

/-- Tags all ready (R329), status words 0 (log 6). -/
def TagState.ready : TagState := { tags := BitVec.allOnes 64, status := Vector.replicate 64 0 }

/-- A context that holds no actor and no strand. -/
def Ctx.free : Ctx :=
  { regs := Regs.zero, fstat := 0, frm := 0, pc := 0, state := .free, ident := Ident.none, grants := Grants.none,
    spawnlim := 0, seq := 0, strands := 0, sec := Section.fresh, trigger := none, runStart := 0, loads := [],
    nextId := 0, wait := .none, progress := none, place := none, inUse := [], shadows := Vector.replicate 22 0, tag := TagState.ready,
    grid := Vector.replicate 4 GridSlot.unbound, rings := Vector.replicate 8 Ring.reset,
    routines := Vector.replicate 64 0, mailboxes := Vector.replicate 8 Mailbox.none, notices := [], wdog := 0,
    wdogBudget := 0, counters := Counters.zero, dbg := Debug.off, detached := false, entryFetch := false,
    resumeFrom := none }

def BpUnit.off : BpUnit := { addr := 0, id := 0, ctl := 0 }

def Timing.zero : Timing := { sender := 0, count := 0, transit := 0, qwait := 0, run := 0 }

/-- A cell after module reset: every queue and view empty, counters 0 (R123, R422). -/
def Cell.reset : Cell :=
  { regq := [], view := [], iview := [], outq := [], arrivals := [], returns := [], returnWait := [], spawnCount := 0, amos := [],
    rows := [], timing := [], timingOthers := Timing.zero, discarded := 0, rejected := 0, refused := 0 }

/-- An accumulator at the reset of Table 15.2; its elements are not given and read +0 (log 6). -/
def Acc.zero : Acc := { elems := [], var := 0, status := 0, typed := false, faultAt := 0 }

/-- A cache after module reset: PSEL 512, BIMODAL_COUNT 0 (R82), no line. -/
def Cache.reset : Cache := { sets := [], psel := [512, 512, 512, 512], bimodal := 0 }

/-- No write-back under way. -/
def WriteBacks.none : WriteBacks := { reserved := [], places := [], channel := [] }

/-- A cluster after module reset: banks 0-3 CACHE, 4-11 SCRATCH, 12-15 FIFO (R75, Table 4.2). -/
def Cluster.reset : Cluster :=
  { csmode := 0xAA555500, modes := 0xAA555500, tlbPages := [], tlbBlocks := [], misses := [], accs := [], eme := [],
    nextOp := 0, running := none, transfers := [], cpCount := 0, strips := [], lanes := [], barriers := [],
    slice := Cache.reset, missTab := [], wb := WriteBacks.none, dcache := [] }

/-- A die after module reset: registers 0 but CNT_EN 1 (Table 4.10) and FREQ 2,700 (Table 23.5). -/
def Die.reset : Die :=
  { actctlId := 0, actctlSt := 0, noteId := 0, noteM0 := 0, noteM1 := 0, noteSt := 0, cpctlId := 0, cpctlSt := 0,
    dbgctlId := 0, dbgctlSt := 0, wf := Vector.replicate 32 (0, 0), ttAddr := 0, ttDump := none, cntEn := true, hbm := [],
    prevCluster := none, copies := [], gwCaches := [], walks := [], freq := 2700, throttled := false }

/-- A launch queue after reset: QSLACK 1 s (Table 20.5). -/
def Queue.reset : Queue :=
  { qbase := 0, qctl := 0, qtailpa := 0, qslack := 0x3B9ACA00, qhead := 0, qstat := 0, tail := 0, arrivals := [],
    last := none }

def LinkDir.reset : LinkDir := { key := none, salt := 0, nextKey := none, counter := 0, keywait := false }

/-- A port before training (R390): down; limits not given by the manual: 42 each, 252 flits of 256 (log 14). -/
def Port.reset : Port :=
  { up := false, out := LinkDir.reset, inn := LinkDir.reset, failures := 0, limits := List.replicate 6 42,
    inFlight := List.replicate 6 0, lendApplied := none, announced := List.replicate 6 42, pool := 4, lendSeq := 0,
    waiting := [], inClass := List.replicate 24 0, outQ := [], inBuf := [], wire := [], cutOff := [], ctlSent := [], ctlQ := [], received := [], nak := [] }

def Packet.zero : Packet :=
  { asid := 0, prio := 0, flags := 0, actors := 1, accs := 0, rings := 0, deadline := 0, codebase := 0, rtab := 0,
    const := 0, args := 0, groups := 1, frame := 0, wdog := 0, scratch := 0, spawnlim := 0, sovlog := 0, waitn := 0,
    csmode := 0, gangid := 0, gangn := 1, kshare := 0, gangtab := 0, mbdecl := 0, spill := 0, waittab := 0, compl := 0,
    sovbase := 0 }

/-- A launch slot with nothing in it (never active; the default of look-ups). -/
def Launch.zero : Launch :=
  { packet := Packet.zero, queue := 0, effdl := 0, arrival := 0, start := 0, late := false,
    routines := Vector.replicate 64 0, consts := Vector.replicate 64 0, mailboxes := Vector.replicate 8 Mailbox.none,
    nextGroup := 0, groups := [], actors := [], evicting := false, evicted := false, evictions := 0, saveBlocks := 0, saveChain := [], movedTids := [], saved := [],
    savedGroups := [], cancelled := false, faultedEnded := 0, moving := none, gang := none, barriers := [], reductions := [], sov := [],
    strandMooring := [], strandChain := [], strandTaken := 0, reserved := false }

/-- The hub after module reset (Tables 4.10, 20.5, 20.7, 22.4, 22.5, 22.10, 23.5). Bring-up is at its first step (R423, log 4); the module
is (0, 0) of a 1 × 1 domain under firmware 1.0.0 (log 7). -/
def Hub.reset : Hub :=
  { tlbinvVa := 0, tlbinvSt := 0, tlbinv := none, asidtab := 0, queues := Vector.replicate 64 Queue.reset, launches := [],
    lcancelSt := 0, evpool := 0, evpoolSz := 0, evpoolUse := 0, poolUsed := [],
    rings := Vector.replicate 4 { base := 0, head := 0, tail := 0 }, fsteer := 0, fsteerDef := 0,
    bps := Vector.replicate 8 BpUnit.off, cellBps := Vector.replicate 8 BpUnit.off, bpBusy := [], trbase := 0, trhead := 0, trtail := 0, trdrop := 0, records := [],
    notices := [], spawnReqs := [], decrements := [], barrs := [], nreds := [], launchReqs := [], directory := [],
    toPeers := [], laneReplies := [], ctlOut := [], gangWaits := [], stalls := [], keystoneDiscards := 0, dispatcherErrors := 0,
    ports := Vector.replicate 30 Port.reset, sendSeq := [], recvSeq := [], reorder := [], inbox := [], noRoute := [], replySlots := [], caps := [], modRow := 0, modCol := 0, rowsM1 := 0, colsM1 := 0,
    rotation := 0, fabCopies := [], fabCache := Cache.reset, flash := [], bootJournal := [], bootNo := 0, bootStep := 1, bootSlot := none,
    meas := Vector.replicate 8 0, devid := 0x0980B00001000000, beacon := 0, pwrlim := 2400, hubFreq := 2700,
    hubThrottled := false, outMem := [], outLinks := [], outEther := [], outPorts := [], outClusters := [], irq := 0,
    checkpoint := [] }

/-- The module right after module reset, powered, bring-up at step 1 (log 4): no launch, memory with nothing listed. -/
def State.reset : State :=
  { cur := { cell := 0, slot := 0 }, agenda := [], freeCtr := 0, regCtr := 0, lateLoads := false, lateWalks := false, power := true, dtc := 0, dtcShift := 0, mem := [],
    ctxs := [], cells := [], clusters := [], dies := [], owners := [], gwq := [], fenceOrder := [], hub := Hub.reset }

end Sys2Proof.Machine
end

