-- ==== Sys2Proof/Machine/Basic.lean ====
section
/-! DEFINITION. Tables, bytes of memory, bit fields, look-ups of the module's units, and the type of computations that
instructions are written in (a state, or a trap, a stall or a machine fault). -/

namespace Sys2Proof.Machine

/-! ## Tables -/

/-- The value of a key, if listed. -/
def tfind {α : Type} : Tbl α → Nat → Option α
  | [], _ => none
  | (k, v) :: r, a => if k = a then some v else tfind r a

/-- The value of a key, or the default. -/
def tget {α : Type} (t : Tbl α) (d : α) (a : Nat) : α :=
  match tfind t a with
  | some v => v
  | none => d

/-- List a key with a value, keys rising. -/
def tput {α : Type} : Tbl α → Nat → α → Tbl α
  | [], a, x => [(a, x)]
  | (k, v) :: r, a, x =>
    if a < k then (a, x) :: (k, v) :: r else if a = k then (a, x) :: r else (k, v) :: tput r a x

/-- Unlist a key. -/
def tdel {α : Type} (t : Tbl α) (a : Nat) : Tbl α := t.filter fun p => p.1 != a

/-- Unlist the element at a position. -/
def dropAt {α : Type} : List α → Nat → List α
  | [], _ => []
  | _ :: r, 0 => r
  | x :: r, n + 1 => x :: dropAt r n

/-- Replace the element at a position. -/
def setAt {α : Type} : List α → Nat → α → List α
  | [], _, _ => []
  | _ :: r, 0, y => y :: r
  | x :: r, n + 1, y => x :: setAt r n y

/-- Position of the first element that satisfies a test. -/
def findAt {α : Type} (p : α → Bool) : List α → Option Nat
  | [] => none
  | x :: r => if p x then some 0 else (findAt p r).map (· + 1)

/-- The numbers lo, lo + 1, … (n of them). -/
def upFrom (lo : Nat) : Nat → List Nat
  | 0 => []
  | n + 1 => lo :: upFrom (lo + 1) n

theorem length_upFrom (n lo : Nat) : (upFrom lo n).length = n := by
  induction n generalizing lo with
  | zero => rfl
  | succ n ih => simp [upFrom, ih]

/-- A list's first n elements as a vector, the rest of it `d`. -/
def vecOfList {α : Type} (n : Nat) (d : α) (l : List α) : Vector α n :=
  ⟨((upFrom 0 n).map fun i => l.getD i d).toArray, by simp [length_upFrom]⟩

/-- Apply a function to each element of a vector. -/
def vmap {α β : Type} {n : Nat} (v : Vector α n) (f : α → β) : Vector β n :=
  ⟨(v.toList.map f).toArray, by simp⟩

/-! ## Memory bytes -/

/-- What an unlisted address reads as (log 5). -/
def unlisted : Byte := 0

/-- The byte at an address. -/
def readByte : Memory → Nat → Byte
  | [], _ => unlisted
  | (k, v) :: r, a => if k = a then v else readByte r a

/-- List a byte at its place. -/
def putByte : Memory → Nat → Byte → Memory
  | [], a, b => [(a, b)]
  | (k, v) :: r, a, b =>
    if a < k then (a, b) :: (k, v) :: r else if a = k then (a, b) :: r else (k, v) :: putByte r a b

/-- Write one byte; writing what an unlisted address reads as removes the entry. -/
def writeByte (m : Memory) (a : Nat) (b : Byte) : Memory := if b = unlisted then m.filter fun p => p.1 != a else putByte m a b

/-- The canonical form of memory: addresses strictly rising, no entry equal to what an unlisted address reads as. -/
abbrev Memory.wf (m : Memory) : Prop := m.Pairwise (fun p q => p.1 < q.1) ∧ ∀ p ∈ m, p.2 ≠ unlisted

/-- n bytes at a as a little-endian number (R2). -/
def readLE (m : Memory) (a : Nat) : Nat → Nat
  | 0 => 0
  | n + 1 => (readByte m a).toNat + 256 * readLE m (a + 1) n

/-- Store the low n bytes of a number, little-endian (R2). -/
def writeLE (m : Memory) (a : Nat) : Nat → Nat → Memory
  | 0, _ => m
  | n + 1, v => writeLE (writeByte m a (BitVec.ofNat 8 v)) (a + 1) n (v / 256)

/-- The aligned 8-byte word at a (R48). -/
def readWord (m : Memory) (a : Nat) : Word := BitVec.ofNat 64 (readLE m a 8)

/-- Bits of a word replaced under a mask (R48). -/
def mergeBits (old mask new : Word) : Word := (old &&& ~~~mask) ||| (new &&& mask)

/-- Store the masked bits of a word (R48). -/
def writeMasked (m : Memory) (a : Nat) (mask data : Word) : Memory :=
  writeLE m a 8 (mergeBits (readWord m a) mask data).toNat

/-- Store a list of bytes. -/
def writeBytes (m : Memory) (a : Nat) : List Byte → Memory
  | [] => m
  | b :: r => writeBytes (writeByte m a b) (a + 1) r

/-- n bytes become 0, which is what an unlisted address reads as. -/
def zeroRange (m : Memory) (a n : Nat) : Memory := m.filter fun p => !(a ≤ p.1 && p.1 < a + n)

/-- n bytes as a list. -/
def readBytes (m : Memory) (a : Nat) : Nat → List Byte
  | 0 => []
  | n + 1 => readByte m a :: readBytes m (a + 1) n

/-! ## Bit fields -/

/-- Bits hi:lo of a word as a number (R2). -/
def bits {w : Nat} (v : BitVec w) (hi lo : Nat) : Nat := v.toNat / 2 ^ lo % 2 ^ (hi - lo + 1)

/-- One bit. -/
def bit {w : Nat} (v : BitVec w) (i : Nat) : Bool := v.toNat / 2 ^ i % 2 == 1

/-- A word with bits hi:lo replaced. -/
def setBits {w : Nat} (v : BitVec w) (hi lo x : Nat) : BitVec w :=
  let m : BitVec w := BitVec.ofNat w ((2 ^ (hi - lo + 1) - 1) * 2 ^ lo)
  (v &&& ~~~m) ||| (BitVec.ofNat w (x * 2 ^ lo) &&& m)

/-- A list of 64-bit words as a bit vector of n words, the first lowest. -/
def packWords (n : Nat) : List Word → BitVec (64 * n)
  | ws => BitVec.ofNat (64 * n) (ws.foldr (fun w acc => w.toNat + 2 ^ 64 * acc) 0)

/-- Field i of width w of a bit vector. -/
def elemAt {n : Nat} (v : BitVec n) (w i : Nat) : Nat := v.toNat / 2 ^ (w * i) % 2 ^ w

/-- A bit vector of n fields of width w each, the first lowest. -/
def packElems (n w : Nat) (xs : List Nat) : BitVec n :=
  BitVec.ofNat n (xs.foldr (fun x acc => x % 2 ^ w + 2 ^ w * acc) 0)

/-- Sign-extend the low n bits of a number to 64 bits. -/
def sext64 (n v : Nat) : Word :=
  let u := v % 2 ^ n
  if u < 2 ^ (n - 1) then BitVec.ofNat 64 u else BitVec.ofNat 64 (u + (2 ^ 64 - 2 ^ n))

/-! ## Units of the module -/

/-- Key of a context in `ctxs`. -/
def ctxKey (c : CtxId) : Nat := c.cell * 32 + c.slot

def getCtx (s : State) (c : CtxId) : Ctx := tget s.ctxs Ctx.free (ctxKey c)
def setCtx (s : State) (c : CtxId) (x : Ctx) : State := { s with ctxs := tput s.ctxs (ctxKey c) x }
def modCtx (s : State) (c : CtxId) (f : Ctx → Ctx) : State := setCtx s c (f (getCtx s c))

def getCell (s : State) (n : Nat) : Cell := tget s.cells Cell.reset n
def modCell (s : State) (n : Nat) (f : Cell → Cell) : State := { s with cells := tput s.cells n (f (getCell s n)) }

def getCluster (s : State) (n : Nat) : Cluster := tget s.clusters Cluster.reset n
def modCluster (s : State) (n : Nat) (f : Cluster → Cluster) : State :=
  { s with clusters := tput s.clusters n (f (getCluster s n)) }

def getDie (s : State) (n : Nat) : Die := tget s.dies Die.reset n
def modDie (s : State) (n : Nat) (f : Die → Die) : State := { s with dies := tput s.dies n (f (getDie s n)) }

def modHub (s : State) (f : Hub → Hub) : State := { s with hub := f s.hub }

/-- The launch in a slot, if active. -/
def launchAt (s : State) (l : Nat) : Option Launch := tfind s.hub.launches l
def modLaunch (s : State) (l : Nat) (f : Launch → Launch) : State :=
  match launchAt s l with
  | some x => modHub s fun h => { h with launches := tput h.launches l (f x) }
  | none => s

/-- Cluster, die of a cell (R17). -/
def clusterOf (cell : Nat) : Nat := cell / 4
def dieOf (cell : Nat) : Nat := cell / 512
def dieOfCluster (cl : Nat) : Nat := cl / 128

/-- The module's own number, row × 16 + column (R11). -/
def ownModule (s : State) : Nat := s.hub.modRow.toNat * 16 + s.hub.modCol.toNat

/-- Strand slots are contexts 16 to 31 (Table 17.4). -/
def isStrand (c : CtxId) : Bool := 16 ≤ c.slot

/-- ACTID of an actor address (R21). -/
def actidOf (a : BitVec 40) : Nat := a.toNat % 2 ^ 32
def moduleOfAddr (a : BitVec 40) : Nat := a.toNat / 2 ^ 32
def lslotOf (actid : Nat) : Nat := actid / 2 ^ 24
def aindexOf (actid : Nat) : Nat := actid % 2 ^ 24

/-- Where an actor stands; one that nothing lists is not yet placed, or ENDED once its launch is cancelled (R388). -/
def actorOf (l : Launch) (aindex : Nat) : Actor :=
  tget l.actors { place := if l.cancelled then .ended else .unplaced, mooring := [], taken := 0 } aindex
def modActor (s : State) (lslot aindex : Nat) (f : Actor → Actor) : State :=
  modLaunch s lslot fun l => { l with actors := tput l.actors aindex (f (actorOf l aindex)) }

/-- The next free-value counter (log 2). -/
def bumpFree (s : State) : State := { s with freeCtr := s.freeCtr + 1 }

/-! ## Computations -/

/-- What a trap reports beyond the context's own values (R188): fault code (Table 22.3), virtual-address field, cursor,
lane, and the PC where it is not the instruction's. -/
structure TrapInfo where
  code : Nat
  vaddr : Word := 0
  cursor : Word := 0
  lane : Nat := 0
  pc : Option Word := none
  deriving DecidableEq, Repr

/-- How an instruction ends early. -/
inductive Halt where
  /-- a trap of the context (R110, R111) -/
  | trap (t : TrapInfo) (s : State)
  /-- a stall: the context tries again -/
  | stall (w : Wait) (s : State)

/-- A computation over the state. -/
abbrev X (α : Type) := StateT State (Except Halt) α

def trapWith {α : Type} (t : TrapInfo) : X α := fun s => .error (.trap t s)
def stallWith {α : Type} (w : Wait) : X α := fun s => .error (.stall w s)

/-- Do something for each element, in order. -/
def forEach {α : Type} (xs : List α) (f : α → X Unit) : X Unit :=
  match xs with
  | [] => pure ()
  | x :: r => do f x; forEach r f

/-- Collect a value for each element, in order. -/
def mapX {α β : Type} (f : α → X β) : List α → X (List β)
  | [] => pure []
  | x :: r => do
    let y ← f x
    let ys ← mapX f r
    pure (y :: ys)

/-- Thread a value through the elements, in order. -/
def foldX {α β : Type} (f : β → α → X β) : β → List α → X β
  | b, [] => pure b
  | b, x :: r => do
    let b' ← f b x
    foldX f b' r

/-- The context. -/
def ctx (c : CtxId) : X Ctx := do pure (getCtx (← get) c)
def updCtx (c : CtxId) (f : Ctx → Ctx) : X Unit := modify fun s => modCtx s c f
def updSec (c : CtxId) (f : Section → Section) : X Unit := updCtx c fun x => { x with sec := f x.sec }

/-! ## Fault codes (Table 22.3) -/

def cILLEGAL_OP : Nat := 1
def cBAD_TARGET : Nat := 2
def cALIGN : Nat := 3
def cPAGE_FAULT : Nat := 4
def cPROT : Nat := 5
def cBOUNDS : Nat := 6
def cSHAPE : Nat := 7
def cTYPE_MISMATCH : Nat := 8
def cJOURNAL_FULL : Nat := 9
def cWATCHDOG : Nat := 10
def cMACHINE_CHECK : Nat := 11
def cMEM_UNCORRECTABLE : Nat := 12
def cSCALE_SEQ : Nat := 13
def cACC_NOT_OWNED : Nat := 14
def cRING_UNDERRUN : Nat := 15
def cTAG_BUSY : Nat := 16
def cCOPY_SUSPENDED : Nat := 17
def cSTALE_HALO : Nat := 18
def cHALO_GONE : Nat := 19
def cNO_BOUNDARY : Nat := 20
def cKEYSTONE_GONE : Nat := 21
def cAMO_UNSUPPORTED : Nat := 22
def cWATCH : Nat := 23
def cBREAK : Nat := 24
def cDEBUG_HALT : Nat := 25
def cLINK_KEYWAIT : Nat := 26

/-- ILLEGAL_OP found at execution. -/
def illegal {α : Type} : X α := trapWith { code := cILLEGAL_OP }

end Sys2Proof.Machine
end

