-- ==== Sys2Proof/Machine/Flags.lean ====
section
/-! DEFINITION. Numbers: the formats of Table 10.1, exact values, rounding (R204 to R207), the flags of FSTAT (R209, R210),
arithmetic, conversions, the function family (R217) and the keyed generator (R235). -/

namespace Sys2Proof.Machine

/-! ## Flags (Table 10.4) -/

/-- FSTAT bits. -/
abbrev FFlags := BitVec 6

def fNV : FFlags := 1
def fDZ : FFlags := 2
def fOF : FFlags := 4
def fUF : FFlags := 8
def fNX : FFlags := 16
def fNF : FFlags := 32

def flagIf (c : Bool) (f : FFlags) : FFlags := if c then f else 0

/-! ## Formats -/

/-- What the top exponent codes of a format mean (R199). -/
inductive TopCode where
  /-- infinities and NaNs -/
  | ieee
  /-- E4M3: only mantissa all ones is NaN -/
  | nanOnly
  /-- every code finite -/
  | finite
  deriving DecidableEq, Repr

/-- Exponent bits, mantissa bits, bias and top codes of a floating-point format. -/
structure FpFmt where
  ebits : Nat
  mbits : Nat
  bias : Int
  top : TopCode
  deriving DecidableEq, Repr

def fp32 : FpFmt := ⟨8, 23, 127, .ieee⟩
def fp64 : FpFmt := ⟨11, 52, 1023, .ieee⟩
def bf16 : FpFmt := ⟨8, 7, 127, .ieee⟩
def fp16 : FpFmt := ⟨5, 10, 15, .ieee⟩
def e4m3 : FpFmt := ⟨4, 3, 7, .nanOnly⟩
def e5m2 : FpFmt := ⟨5, 2, 15, .ieee⟩
def e2m1 : FpFmt := ⟨2, 1, 1, .finite⟩
def e2m3 : FpFmt := ⟨2, 3, 1, .finite⟩
def e3m2 : FpFmt := ⟨3, 2, 3, .finite⟩

/-- Total bits. -/
def FpFmt.width (f : FpFmt) : Nat := 1 + f.ebits + f.mbits
/-- The exponent of the last place of the subnormal grid. -/
def FpFmt.emin (f : FpFmt) : Int := 1 - f.bias - f.mbits
/-- Precision in bits. -/
def FpFmt.prec (f : FpFmt) : Nat := f.mbits + 1

def signBit (f : FpFmt) (neg : Bool) : Nat := if neg then 2 ^ (f.ebits + f.mbits) else 0

/-- The canonical NaN (Table 10.1). -/
def canonNaN (f : FpFmt) : Nat :=
  match f.top with
  | .ieee => (2 ^ f.ebits - 1) * 2 ^ f.mbits + 2 ^ (f.mbits - 1)
  | _ => 2 ^ (f.ebits + f.mbits) - 1

def infBits (f : FpFmt) (neg : Bool) : Nat := signBit f neg + (2 ^ f.ebits - 1) * 2 ^ f.mbits

/-- The largest finite value's code without sign (Table 10.2). -/
def maxFinite (f : FpFmt) : Nat :=
  match f.top with
  | .ieee => (2 ^ f.ebits - 1) * 2 ^ f.mbits - 1
  | .nanOnly => 2 ^ (f.ebits + f.mbits) - 2
  | .finite => 2 ^ (f.ebits + f.mbits) - 1

/-- A number as the device reads it: NaN (signalling or not), infinity, or ±m × 2^e exactly. -/
inductive FVal where
  | nan (signalling : Bool)
  | inf (neg : Bool)
  | fin (neg : Bool) (m : Nat) (e : Int)
  deriving DecidableEq, Repr

/-- The value of a code (R199, R200). -/
def fpDecode (f : FpFmt) (v : Nat) : FVal :=
  let neg := v / 2 ^ (f.ebits + f.mbits) % 2 == 1
  let ex := v / 2 ^ f.mbits % 2 ^ f.ebits
  let mant := v % 2 ^ f.mbits
  let finiteValue : FVal :=
    if ex = 0 then .fin neg mant f.emin else .fin neg (2 ^ f.mbits + mant) (ex - f.bias - f.mbits)
  if ex + 1 = 2 ^ f.ebits then
    match f.top with
    | .ieee =>
      if mant = 0 then .inf neg
      else .nan (decide (f.mbits ≥ 7) && mant / 2 ^ (f.mbits - 1) % 2 == 0)
    | .nanOnly => if mant + 1 = 2 ^ f.mbits then .nan false else finiteValue
    | .finite => finiteValue
  else finiteValue

/-- E8M0 (R199): 2^(e-127), 0xFF NaN. -/
def e8m0Decode (v : Nat) : FVal := if v = 255 then .nan false else .fin false 1 ((v : Int) - 127)

/-! ## Rounding -/

/-- Modes of R204 by FRM value. -/
def RNE : Nat := 0
def RTZ : Nat := 1
def RUP : Nat := 2
def RDN : Nat := 3

/-- Whether the magnitude goes up: quotient odd, remainder r of d (R204). -/
def roundsUp (mode : Nat) (neg odd : Bool) (r d : Nat) : Bool :=
  if r = 0 then false
  else match mode with
    | 0 => d < 2 * r || (d == 2 * r && odd)
    | 1 => false
    | 2 => !neg
    | _ => neg

/-- m × 2^e rounded to multiples of 2^q (q ≥ e): the new multiple and whether it is inexact. -/
def roundAt (mode : Nat) (neg : Bool) (m : Nat) (e q : Int) : Nat × Bool :=
  if q ≤ e then (m * 2 ^ (e - q).toNat, false)
  else
    let d := 2 ^ (q - e).toNat
    let r := m % d
    let n := m / d
    (if roundsUp mode neg (n % 2 == 1) r d then n + 1 else n, r != 0)

/-- The exponent of the last place of m × 2^e at p bits. -/
def lastPlace (p m : Nat) (e : Int) : Int := e + (Nat.log2 m : Int) + 1 - p

/-- A value on a format's grid: code of the magnitude by multiple n of 2^q; none when it exceeds the largest finite value. -/
def encodeMag (f : FpFmt) (n : Nat) (q : Int) : Option Nat :=
  let (n, q) := if n = 2 ^ f.prec then (n / 2, q + 1) else (n, q)
  if n < 2 ^ f.mbits then some n
  else
    let ex := q + f.mbits + f.bias
    let code := ex.toNat * 2 ^ f.mbits + (n - 2 ^ f.mbits)
    if maxFinite f < code then none else some code

/-- Overflow results (R206): `sat` takes the largest finite value. -/
def overflowCode (f : FpFmt) (mode : Nat) (sat neg : Bool) : Nat :=
  let toInf := mode == RNE || (mode == RUP && !neg) || (mode == RDN && neg)
  match f.top with
  | .nanOnly => if sat then signBit f neg + maxFinite f else canonNaN f
  | .finite => signBit f neg + maxFinite f
  | .ieee => if sat || !toInf then signBit f neg + maxFinite f else infBits f neg

/-- NF when a written floating-point result is not finite (R210). -/
def nfOf (f : FpFmt) (v : Nat) : FFlags :=
  match fpDecode f v with
  | .fin _ _ _ => 0
  | _ => fNF

/-- Round ±m × 2^e (m ≠ 0) at precision p to the format, with flags (R204, R206, R210). Tininess is judged at the same
precision with unbounded exponent. -/
def roundPrec (f : FpFmt) (p mode : Nat) (sat neg : Bool) (m : Nat) (e : Int) : Nat × FFlags :=
  let qu := lastPlace p m e
  let u := roundAt mode neg m e qu
  let q0 := max qu f.emin
  let q1 := max (q0 - (f.prec - p : Nat)) f.emin
  let r := roundAt mode neg m e q0
  let tiny := decide ((Nat.log2 u.1 : Int) + qu < 1 - f.bias)
  match encodeMag f (r.1 * 2 ^ (q0 - q1).toNat) q1 with
  | some c =>
    let v := signBit f neg + c
    (v, flagIf r.2 fNX ||| flagIf (r.2 && tiny) fUF ||| nfOf f v)
  | none =>
    let v := overflowCode f mode sat neg
    (v, fOF ||| fNX ||| nfOf f v)

/-- Round to the format's own precision. -/
def roundTo (f : FpFmt) (mode : Nat) (sat neg : Bool) (m : Nat) (e : Int) : Nat × FFlags :=
  if m = 0 then (signBit f neg, 0)
  else
    let qu := lastPlace f.prec m e
    let u := roundAt mode neg m e qu
    let q := max qu f.emin
    let r := roundAt mode neg m e q
    let tiny := decide ((Nat.log2 u.1 : Int) + qu < 1 - f.bias)
    match encodeMag f r.1 q with
    | some c =>
      let v := signBit f neg + c
      (v, flagIf r.2 fNX ||| flagIf (r.2 && tiny) fUF ||| nfOf f v)
    | none =>
      let v := overflowCode f mode sat neg
      (v, fOF ||| fNX ||| nfOf f v)

/-- A NaN result: canonical, NV if invalid. -/
def nanResult (f : FpFmt) (invalid : Bool) : Nat × FFlags := (canonNaN f, flagIf invalid fNV ||| fNF)

def infResult (f : FpFmt) (neg : Bool) : Nat × FFlags := (infBits f neg, fNF)

def isSnan : FVal → Bool
  | .nan s => s
  | _ => false

def isNaN : FVal → Bool
  | .nan _ => true
  | _ => false

/-! ## Exact sums -/

/-- ±m as an integer. -/
def signed (neg : Bool) (m : Nat) : Int := if neg then -(m : Int) else m

/-- ±a × 2^e + ±b × 2^g as an integer multiple of the smaller power. -/
def exactAdd (x : Int) (e : Int) (y : Int) (g : Int) : Int × Int :=
  let q := min e g
  (x * 2 ^ (e - q).toNat + y * 2 ^ (g - q).toNat, q)

/-- Round an exact sum; an exact zero takes the sign `zneg` (R204). -/
def roundSum (f : FpFmt) (mode : Nat) (zneg : Bool) (v e : Int) : Nat × FFlags :=
  if v = 0 then (signBit f zneg, 0) else roundTo f mode false (decide (v < 0)) v.natAbs e

/-- The sign of an exact zero sum of two terms (R204). -/
def zeroSign (mode : Nat) (na nb : Bool) : Bool := if na = nb then na else mode == RDN

/-! ## Arithmetic (R143, R144, R150) -/

/-- a + b. -/
def fvAdd (f : FpFmt) (mode : Nat) (a b : FVal) : Nat × FFlags :=
  match a, b with
  | .nan _, _ => nanResult f (isSnan a || isSnan b)
  | _, .nan _ => nanResult f (isSnan a || isSnan b)
  | .inf x, .inf y => if x = y then infResult f x else nanResult f true
  | .inf x, .fin _ _ _ => infResult f x
  | .fin _ _ _, .inf y => infResult f y
  | .fin na ma ea, .fin nb mb eb =>
    let r := exactAdd (signed na ma) ea (signed nb mb) eb
    roundSum f mode (zeroSign mode na nb) r.1 r.2

def negate : FVal → FVal
  | .nan s => .nan s
  | .inf n => .inf (!n)
  | .fin n m e => .fin (!n) m e

/-- a × b, exactly, or NaN (invalid where an infinity meets a zero). -/
def exactMul (a b : FVal) : FVal × Bool :=
  match a, b with
  | .nan _, _ => (.nan false, isSnan a || isSnan b)
  | _, .nan _ => (.nan false, isSnan a || isSnan b)
  | .inf x, .inf y => (.inf (x != y), false)
  | .inf x, .fin nb mb _ => if mb = 0 then (.nan false, true) else (.inf (x != nb), false)
  | .fin na ma _, .inf y => if ma = 0 then (.nan false, true) else (.inf (na != y), false)
  | .fin na ma ea, .fin nb mb eb => (.fin (na != nb) (ma * mb) (ea + eb), false)

/-- An exact value rounded to the format. -/
def fvRound (f : FpFmt) (mode : Nat) (sat : Bool) (v : FVal) : Nat × FFlags :=
  match v with
  | .nan s => nanResult f s
  | .inf n =>
    match f.top with
    | .ieee => infResult f n
    | _ =>
      let c := overflowCode f mode sat n
      (c, fOF ||| fNX ||| nfOf f c)
  | .fin n m e => roundTo f mode sat n m e

/-- a × b. -/
def fvMul (f : FpFmt) (mode : Nat) (a b : FVal) : Nat × FFlags :=
  let p := exactMul a b
  match p.1 with
  | .nan _ => nanResult f p.2
  | v => fvRound f mode false v

/-- ±(a × b) + c with one rounding (R150). -/
def fvFma (f : FpFmt) (mode : Nat) (a b c : FVal) : Nat × FFlags :=
  let p := exactMul a b
  match p.1, c with
  | .nan _, _ => nanResult f (p.2 || isSnan c)
  | _, .nan s => nanResult f s
  | v, c => fvAdd f mode v c

/-- The quotient of naturals with `extra` further bits and a sticky last bit: value ≈ result × 2^(-extra-1). -/
def divSticky (a b extra : Nat) : Nat :=
  let n := a * 2 ^ extra
  2 * (n / b) + (if n % b = 0 then 0 else 1)

/-- a ÷ b. -/
def fvDiv (f : FpFmt) (mode : Nat) (a b : FVal) : Nat × FFlags :=
  match a, b with
  | .nan _, _ => nanResult f (isSnan a || isSnan b)
  | _, .nan _ => nanResult f (isSnan a || isSnan b)
  | .inf _, .inf _ => nanResult f true
  | .inf x, .fin nb _ _ => infResult f (x != nb)
  | .fin na _ _, .inf y => (signBit f (na != y), 0)
  | .fin na ma ea, .fin nb mb eb =>
    if mb = 0 then
      if ma = 0 then nanResult f true else ((infResult f (na != nb)).1, fDZ ||| fNF)
    else if ma = 0 then (signBit f (na != nb), 0)
    else
      let extra := f.prec + 4 + Nat.log2 mb
      roundTo f mode false (na != nb) (divSticky ma mb extra) (ea - eb - extra - 1)

/-- The integer square root, bit by bit from 2^n down. -/
def isqrtFrom (v : Nat) : Nat → Nat → Nat
  | 0, r => if (r + 1) * (r + 1) ≤ v then r + 1 else r
  | n + 1, r =>
    let t := r + 2 ^ (n + 1)
    isqrtFrom v n (if t * t ≤ v then t else r)

def isqrt (v : Nat) : Nat := isqrtFrom v (Nat.log2 v / 2 + 1) 0

/-- √(m × 2^e) with a sticky last bit: (n, g) with value ≈ n × 2^g. -/
def sqrtSticky (p m : Nat) (e : Int) : Nat × Int :=
  let k := 2 * p + 6 + (if e % 2 = 0 then 0 else 1)
  let n := m * 2 ^ k
  let r := isqrt n
  (2 * r + (if r * r = n then 0 else 1), (e - k) / 2 - 1)

/-- √a. -/
def fvSqrt (f : FpFmt) (mode : Nat) (a : FVal) : Nat × FFlags :=
  match a with
  | .nan s => nanResult f s
  | .inf n => if n then nanResult f true else infResult f false
  | .fin n m e =>
    if m = 0 then (signBit f n, 0)
    else if n then nanResult f true
    else
      let r := sqrtSticky f.prec m e
      roundTo f mode false false r.1 r.2

/-! ## Comparison, minimum, maximum, classes (R145, R146) -/

/-- The order of two values that are no NaN, -0 below +0 when `zeros`. -/
def fvLess (zeros : Bool) (a b : FVal) : Bool :=
  match a, b with
  | .inf x, .inf y => x && !y
  | .inf x, _ => x
  | _, .inf y => !y
  | .fin na ma ea, .fin nb mb eb =>
    let q := min ea eb
    let va := signed na ma * 2 ^ (ea - q).toNat
    let vb := signed nb mb * 2 ^ (eb - q).toNat
    va < vb || (zeros && va == vb && va == 0 && na && !nb)
  | _, _ => false

def fvEq (a b : FVal) : Bool :=
  match a, b with
  | .nan _, _ => false
  | _, .nan _ => false
  | a, b => !fvLess false a b && !fvLess false b a

/-- minimumNumber / maximumNumber (R145), on codes of one format. -/
def fpMinMax (f : FpFmt) (max : Bool) (x y : Nat) : Nat × FFlags :=
  let a := fpDecode f x
  let b := fpDecode f y
  let nv := flagIf (isSnan a || isSnan b) fNV
  if isNaN a && isNaN b then (canonNaN f, nv ||| fNF)
  else if isNaN a then (y, nv ||| nfOf f y)
  else if isNaN b then (x, nv ||| nfOf f x)
  else
    let pickX := if max then !fvLess true a b else !fvLess true b a
    let v := if pickX then x else y
    (v, nfOf f v)

/-- FCLASS mask (Table 6.5). -/
def fpClass (f : FpFmt) (x : Nat) : Nat :=
  match fpDecode f x with
  | .nan s => if s then 256 else 512
  | .inf n => if n then 1 else 128
  | .fin n m e =>
    if m = 0 then (if n then 8 else 16)
    else if e = f.emin ∧ m < 2 ^ f.mbits then (if n then 4 else 32)
    else if n then 2 else 64

/-! ## Conversions (R147, R206) -/

/-- A value rounded to an integer by the mode, clamped to [lo, hi] (R147, R206). -/
def toInteger (mode : Nat) (lo hi : Int) (v : FVal) : Int × FFlags :=
  match v with
  | .nan _ => (0, fNV)
  | .inf n => (if n then lo else hi, fNV)
  | .fin n m e =>
    let r := roundAt mode n m e 0
    let i := signed n r.1
    if i < lo then (lo, fNV) else if hi < i then (hi, fNV) else (i, flagIf r.2 fNX)

/-- An integer rounded to a format. -/
def ofInteger (f : FpFmt) (mode : Nat) (i : Int) : Nat × FFlags := roundTo f mode false (decide (i < 0)) i.natAbs 0

/-- An integer as an exact value. -/
def intVal (i : Int) : FVal := .fin (decide (i < 0)) i.natAbs 0

/-- FP64_OF of R134: exact widening of FP32 bits, NaN payloads kept. -/
def fp64Of (v : Nat) : Nat :=
  match fpDecode fp32 v with
  | .nan _ => v / 2 ^ 31 % 2 * 2 ^ 63 + 2047 * 2 ^ 52 + v % 2 ^ 23 * 2 ^ 29
  | .inf n => infBits fp64 n
  | .fin n m e => (roundTo fp64 RNE false n m e).1

/-! ## The keyed generator (R235) -/

def mask32 (v : Nat) : Nat := v % 2 ^ 32
def rotl32 (v r : Nat) : Nat := mask32 (v * 2 ^ r) + v / 2 ^ (32 - r)

/-- The seed words s_16, …, s_0 (newest first). -/
def keyedSeed (seed block : Word) : List Nat :=
  let k0 := seed.toNat % 2 ^ 32 ^^^ block.toNat % 2 ^ 32
  let k1 := seed.toNat / 2 ^ 32 ^^^ block.toNat / 2 ^ 32
  ((upFrom 0 17).map fun i =>
    let v := rotl32 (mask32 (k0 + i * 0x9E3779B9)) (5 * i % 32) ^^^ k1
    if i = 0 then v ||| 1 else v).reverse

/-- n further words, newest first (s_n = s_(n-17) + s_(n-5)). -/
def keyedExtend : Nat → List Nat → List Nat
  | 0, l => l
  | n + 1, l => keyedExtend n (mask32 (l.getD 16 0 + l.getD 4 0) :: l)

def temper (v : Nat) : Nat := v ^^^ v / 2 ^ 15

/-- o_0 … o_255 of a block. -/
def keyedBlock (seed block : Word) : List Nat := ((keyedExtend 256 (keyedSeed seed block)).take 256).reverse.map temper

/-- KEYED_WORD of R235. -/
def keyedWord (seed e : Word) : Nat :=
  temper ((keyedExtend (e.toNat % 256 + 1) (keyedSeed seed (BitVec.ofNat 64 (e.toNat / 256)))).getD 0 0)

/-- The grid magnitude that SR picks for m × 2^ex on a grid of step 2^q, and its exponent (R205). -/
def stochasticMag (seed e : Word) (m : Nat) (ex q : Int) : Nat × Int :=
  if q ≤ ex then (m, ex)
  else
    let d := 2 ^ (q - ex).toNat
    let rho := m % d * 2 ^ 24 / d
    (if keyedWord seed e / 256 < rho then m / d + 1 else m / d, q)

/-- Stochastic rounding (R205) of a value to a format. -/
def stochastic (f : FpFmt) (sat : Bool) (seed e : Word) (v : FVal) : Nat × FFlags :=
  match v with
  | .fin n m ex =>
    if m = 0 then (signBit f n, 0)
    else
      let q := max (lastPlace f.prec m ex) f.emin
      if q ≤ ex then roundTo f RNE sat n m ex
      else
        if m % 2 ^ (q - ex).toNat = 0 then roundTo f RNE sat n m ex
        else
          let r := stochasticMag seed e m ex q
          let u := stochasticMag seed e m ex (lastPlace f.prec m ex)
          let tiny := decide ((Nat.log2 u.1 : Int) + u.2 < 1 - f.bias)
          match encodeMag f r.1 q with
          | some c => (signBit f n + c, fNX ||| flagIf tiny fUF)
          | none =>
            let c := overflowCode f RNE sat n
            (c, fOF ||| fNX ||| nfOf f c)
  | v => fvRound f RNE sat v

/-! ## The function family (R217) -/

/-- Working precision of the transcendental functions: 256 fraction bits, far beyond what any FP32 argument needs to round
correctly (log 19). -/
def K256 : Nat := 2 ^ 256

/-- ln 2 as a 256-bit fraction: the sum of 1/(k 2^k). -/
def ln2Fix : Nat := (upFrom 1 300).foldl (fun acc k => acc + K256 * 2 ^ 64 / (k * 2 ^ k)) 0 / 2 ^ 64

/-- exp(y) for a fraction y in [0, 1): Taylor terms. -/
def expFix (y : Nat) : Nat :=
  ((upFrom 1 80).foldl (fun (p : Nat × Nat) k => let t := p.2 * y / K256 / k; (p.1 + t, t)) (K256, K256)).1

/-- 2^(n + fr / 2^256) with a sticky last bit. -/
def exp2Parts (fr : Nat) : Nat := 2 * expFix (fr * ln2Fix / K256) + 1

/-- ln t for t / 2^256 in [1, 2): 2 atanh((t-1)/(t+1)). -/
def lnFix (t : Nat) : Nat :=
  let z := (t - K256) * K256 / (t + K256)
  let z2 := z * z / K256
  2 * ((upFrom 0 110).foldl (fun (p : Nat × Nat) k => (p.1 + p.2 / (2 * k + 1), p.2 * z2 / K256)) (0, z)).1

/-- ±m × 2^e as a 256-bit fixed-point integer (exact for e ≥ -256). -/
def toFix (n : Bool) (m : Nat) (e : Int) : Int := signed n (m * 2 ^ (e + 256).toNat)

/-- 2^x in FP32, RNE. -/
def fvExp2 (a : FVal) : Nat × FFlags :=
  match a with
  | .nan s => nanResult fp32 s
  | .inf n => if n then (0, 0) else infResult fp32 false
  | .fin n m e =>
    if m = 0 then (0x3F800000, 0)
    else if 0 < e ∧ 8 < e + Nat.log2 m ∨ 8 < e + Nat.log2 m then
      if n then (0, fNX ||| fUF) else ((infResult fp32 false).1, fOF ||| fNX ||| fNF)
    else
      let x := toFix n m e
      let i := x / (K256 : Int)
      let fr := (x % (K256 : Int)).toNat
      if fr = 0 then roundTo fp32 RNE false false 1 i else roundTo fp32 RNE false false (exp2Parts fr) (i - 257)

/-- log2 x in FP32, RNE. -/
def fvLog2 (a : FVal) : Nat × FFlags :=
  match a with
  | .nan s => nanResult fp32 s
  | .inf n => if n then nanResult fp32 true else infResult fp32 false
  | .fin n m e =>
    if m = 0 then (infBits fp32 true, fDZ ||| fNF)
    else if n then nanResult fp32 true
    else
      let ex : Int := e + Nat.log2 m
      let t := m * 2 ^ (256 - Nat.log2 m)
      if t = K256 then ofInteger fp32 RNE ex
      else
        let v : Int := ex * K256 + (lnFix t * K256 / ln2Fix : Nat)
        roundTo fp32 RNE false (decide (v < 0)) (2 * v.natAbs + 1) (-257)

/-- tanh x in FP32, RNE. -/
def fvTanh (a : FVal) : Nat × FFlags :=
  match a with
  | .nan s => nanResult fp32 s
  | .inf n => (signBit fp32 n + 0x3F800000, 0)
  | .fin n m e =>
    if m = 0 then (signBit fp32 n, 0)
    else if e + Nat.log2 m < -12 then roundTo fp32 RNE false n (m * 2 ^ 40 - 1) (e - 40)
    else if 4 ≤ e + Nat.log2 m then roundTo fp32 RNE false n (2 ^ 40 - 1) (-40)
    else
      let y := (toFix false m e).toNat * 2
      let u := y * K256 / ln2Fix
      let b := expFix (u % K256 * ln2Fix / K256) * 2 ^ (u / K256)
      roundTo fp32 RNE false n (divSticky (b - K256) (b + K256) 256) (-257)

/-- 1/x rounded to p bits and the destination's subnormal grid (p = 12 for the .A forms). -/
def fvRcp (f : FpFmt) (p : Nat) (a : FVal) : Nat × FFlags :=
  match a with
  | .nan s => nanResult f s
  | .inf n => (signBit f n, 0)
  | .fin n m e =>
    if m = 0 then (infBits f n, fDZ ||| fNF)
    else
      let extra := p + 4 + Nat.log2 m
      roundPrec f p RNE false n (divSticky 1 m extra) (-e - extra - 1)

/-- 1/√x rounded to p bits. -/
def fvRsqrt (f : FpFmt) (p : Nat) (a : FVal) : Nat × FFlags :=
  match a with
  | .nan s => nanResult f s
  | .inf n => if n then nanResult f true else (0, 0)
  | .fin n m e =>
    if m = 0 then (infBits f n, fDZ ||| fNF)
    else if n then nanResult f true
    else
      let m2 := if e % 2 = 0 then m else 2 * m
      let e2 := if e % 2 = 0 then e else e - 1
      let k := 2 * (p + 4) + 2 * (Nat.log2 m2 / 2 + 1)
      let r := isqrt (2 ^ k / m2)
      roundPrec f p RNE false false (2 * r + (if r * r * m2 = 2 ^ k then 0 else 1)) (-(e2 / 2) - (k / 2 : Nat) - 1)

end Sys2Proof.Machine
end

