-- ==== Sys2Proof/Machine/Cache.lean ====
section
/-! DEFINITION. LLC slices, gateway caches and cluster data caches (R75, R81 to R84): which lines they hold, their replacement
state, and a slice's misses and write-backs. No value that a load returns depends on them. -/

namespace Sys2Proof.Machine

def cacheWays : Nat := 16

/-- The ways of a set; an empty way counts as one with RRPV 3 (log 9). -/
def waysOf (c : Cache) (set : Nat) : List (Option CacheLine) := tget c.sets (List.replicate cacheWays none) set

/-- RRPV of a way. -/
def wayRrpv : Option CacheLine → Nat
  | some l => l.rrpv
  | none => 3

/-- The lowest way with RRPV 3, every way ageing until there is one. -/
def victimWay : Nat → List (Option CacheLine) → List (Option CacheLine) × Nat
  | 0, ws => (ws, 0)
  | n + 1, ws =>
    match findAt (fun w => wayRrpv w == 3) ws with
    | some i => (ws, i)
    | none => victimWay n (ws.map fun w => w.map fun l => { l with rrpv := l.rrpv + 1 })

/-- A set leads for static or bimodal insertion. -/
def leadsStatic (m set : Nat) : Bool := set % m == 0
def leadsBimodal (m set : Nat) : Bool := set % m == m / 2

/-- ACCESS_LLC of R82 for one line of a set; `sel` is the selector of the class. -/
def accessCache (c : Cache) (m set sel line : Nat) (noalloc write : Bool) : Cache :=
  let ws := waysOf c set
  match findAt (fun w => w.any fun l => l.line == line) ws with
  | some i =>
    { c with sets := tput c.sets set (setAt ws i ((ws.getD i none).map fun l =>
        { l with rrpv := if noalloc then l.rrpv else 0, dirty := l.dirty || write })) }
  | none =>
    let p := c.psel.getD sel 512
    let p1 := if leadsStatic m set then min (p + 1) 1023 else if leadsBimodal m set then p - 1 else p
    let c1 := { c with psel := setAt c.psel sel p1 }
    if noalloc then c1
    else
      let v := victimWay 4 ws
      let static := leadsStatic m set || (!leadsBimodal m set && p1 < 512)
      let n := if static then c.bimodal else c.bimodal + 1
      let r := if static then 2 else if n = 0 then 2 else 3
      { c1 with bimodal := n, sets := tput c.sets set (setAt v.1 v.2 (some { line := line, rrpv := r, dirty := write })) }

/-- The line is in a set. -/
def cacheHolds (c : Cache) (set line : Nat) : Bool := (waysOf c set).any fun w => w.any fun l => l.line == line

/-- The dirty line that ACCESS_LLC gives up to hold another. -/
def dirtyVictim (c : Cache) (set line : Nat) (noalloc : Bool) : Option Nat :=
  if noalloc || cacheHolds c set line then none
  else
    let v := victimWay 4 (waysOf c set)
    match v.1.getD v.2 none with
    | some l => if l.dirty then some l.line else none
    | none => none

/-- Table 4.11. A line is known by its whole key: two mappings of a frame with different HSEL reach different bytes (R86; log 9). -/
def sliceSet (a : Nat) : Nat := a % 2 ^ 52 / 2 ^ 13 % 512
def sliceAccess (c : Cache) (cls a : Nat) (noalloc write : Bool) : Cache :=
  accessCache c 16 (sliceSet a) cls (a / 64) noalloc write
def dieGatewayAccess (c : Cache) (a pa : Nat) (noalloc : Bool) : Cache :=
  accessCache c 128 (pa / 64 % 4096) 0 (a / 64) noalloc false
def fabSet (pa : Nat) : Nat := pa / 64 % 32768
def fabGatewayAccess (c : Cache) (a pa : Nat) (noalloc : Bool) : Cache :=
  accessCache c 1024 (fabSet pa) 0 (a / 64) noalloc false

/-! ## Misses and write-backs of a slice (R84) -/

def generalEntries : Nat := 44
def reservedEntries : Nat := 4

/-- An access misses, no entry has its line, and all general entries are in use: a new miss waits. -/
def sliceFull (k : Cluster) (a : Nat) : Bool :=
  !cacheHolds k.slice (sliceSet a) (a / 64) && !k.missTab.any (fun m => m.line == a / 64) && generalEntries ≤ k.missTab.length

/-- A write-back takes a reserved entry, else its controller's place, else it waits on the write-back channel. -/
def acceptWb (w : WriteBacks) (ctl line : Nat) : WriteBacks :=
  if w.reserved.length < reservedEntries then { w with reserved := w.reserved ++ [line] }
  else if (tfind w.places ctl).isNone then { w with places := tput w.places ctl line }
  else { w with channel := w.channel ++ [line] }

/-- Write-backs that wait on the channel take what has been freed, oldest first; `ctl` gives a line's controller. -/
def admitWb (ctl : Nat → Nat) (w : WriteBacks) : WriteBacks :=
  w.channel.foldl (fun w line => acceptWb w (ctl line) line) { w with channel := [] }

/-- A miss takes an entry unless one has its line; its fill waits for the write-back of a dirty victim. -/
def takeMiss (k : Cluster) (line : Nat) (victim : Option Nat) : List SliceMiss :=
  if k.missTab.any (fun m => m.line == line) then k.missTab else k.missTab ++ [{ line := line, victim := victim }]

/-- An access to the slice of a cluster (R82, R84), with the controller of a line. -/
def sliceLookup (k : Cluster) (ctl : Nat → Nat) (cls a : Nat) (noalloc write : Bool) : Cluster :=
  let hit := cacheHolds k.slice (sliceSet a) (a / 64)
  let v := dirtyVictim k.slice (sliceSet a) (a / 64) noalloc
  let k1 := { k with slice := sliceAccess k.slice cls a noalloc write }
  if hit then k1
  else
    { k1 with missTab := takeMiss k (a / 64) v,
              wb := match v with | some l => acceptWb k.wb (ctl l) l | none => k.wb }

/-- Elements of a list but those that end (`done` by place). -/
def keepUndone {α : Type} (done : Nat → Bool) (l : List α) : List α :=
  ((l.zip (upFrom 0 l.length)).filter fun p => !done p.2).map (·.1)

/-- Time passes for a slice: fills whose victim is accepted and write-backs end as `done` says (misses, reserved entries, places),
and waiting write-backs move up. The second value lists the lines written back. -/
def sliceTime (done : Nat → Bool) (ctl : Nat → Nat) (k : Cluster) : Cluster × List Nat :=
  let n := k.missTab.length
  let mDone := fun (p : SliceMiss × Nat) => done p.2 && !(p.1.victim.any fun l => k.wb.channel.contains l)
  let left := ((k.missTab.zip (upFrom 0 n)).filter fun p => !mDone p).map (·.1)
  let rDone := fun i => done (n + i)
  let pDone := fun i => done (n + reservedEntries + i)
  let gone := fun {α : Type} (d : Nat → Bool) (l : List α) => ((l.zip (upFrom 0 l.length)).filter fun p => d p.2).map (·.1)
  let w : WriteBacks :=
    { reserved := keepUndone rDone k.wb.reserved, places := keepUndone pDone k.wb.places, channel := k.wb.channel }
  ({ k with missTab := left, wb := admitWb ctl w }, gone rDone k.wb.reserved ++ (gone pDone k.wb.places).map (·.2))

/-! ## The cluster's shared data cache (R75, R77, R81) -/

def clusterSets : Nat := 2048
def clusterSet (a : Nat) : Nat := a / 64 % clusterSets

/-- The ways of a set, one per bank; a bank that is no CACHE bank holds nothing. -/
def clusterWays (k : Cluster) (set : Nat) : List (Option CacheLine) := tget k.dcache (List.replicate 16 none) set

def modeOfBank (m : BitVec 32) (b : Nat) : Nat := m.toNat / 4 ^ b % 4

/-- Banks that take fills: in CACHE mode and not on their way to another (Table 4.3). -/
def fillBanks (k : Cluster) : List Nat := (upFrom 0 16).filter fun b => modeOfBank k.modes b == 0 && modeOfBank k.csmode b == 0

def clusterHolds (k : Cluster) (a : Nat) : Bool :=
  (clusterWays k (clusterSet a)).any fun w => w.any fun l => l.line == a / 64

/-- The bank that a fill of a line enters: an empty way of one, else one that the implementation chooses. -/
def fillBank (k : Cluster) (free a : Nat) : Option Nat :=
  let banks := fillBanks k
  match banks.find? (fun b => ((clusterWays k (clusterSet a)).getD b none).isNone) with
  | some b => some b
  | none => banks[Config.clusterWay free (a / 64) % max 1 banks.length]?

/-- A line enters the cluster's cache; the dirty line that it displaces, if any. -/
def clusterFill (k : Cluster) (free a : Nat) : Cluster × Option Nat :=
  match fillBank k free a with
  | none => (k, none)
  | some b =>
    let ws := clusterWays k (clusterSet a)
    let out := match ws.getD b none with | some l => if l.dirty then some l.line else none | none => none
    ({ k with dcache := tput k.dcache (clusterSet a) (setAt ws b (some { line := a / 64, rrpv := 0, dirty := false })) }, out)

/-- A cell of the cluster registers a word: its line here, if any, is dirty. -/
def clusterDirty (k : Cluster) (a : Nat) : Cluster :=
  if clusterHolds k a then
    { k with dcache := tput k.dcache (clusterSet a) ((clusterWays k (clusterSet a)).map fun w =>
        w.map fun l => if l.line = a / 64 then { l with dirty := true } else l) }
  else k

/-- The first line that a bank holds, with its set. -/
def bankLine (k : Cluster) (bank : Nat) : Option (Nat × CacheLine) :=
  k.dcache.findSome? fun p => (p.2.getD bank none).map fun l => (p.1, l)

/-- A line of a bank is invalidated. -/
def dropBankLine (k : Cluster) (bank set : Nat) : Cluster :=
  let ws := setAt (clusterWays k set) bank none
  { k with dcache := if ws.all (·.isNone) then tdel k.dcache set else tput k.dcache set ws }

end Sys2Proof.Machine
end

