-- ==== Sys2Proof/Machine/Route.lean ====
section
/-! DEFINITION. The ports of the Ryoft domain, the routes of packets and their way through this module's routers (R390 to R395). -/

namespace Sys2Proof.Machine

/-! ## Ports (R390) -/

def getPort (s : State) (p : Nat) : Port := s.hub.ports.toList.getD p Port.reset
def modPort (s : State) (p : Nat) (f : Port → Port) : State :=
  modHub s fun h => { h with ports := vecOfList 30 Port.reset (setAt h.ports.toList p (f (getPort s p))) }

/-- Row and column of a port's partner. -/
def partnerOf (h : Hub) (p : Nat) : Nat × Nat :=
  let r := h.modRow.toNat
  let c := h.modCol.toNat
  if p < 15 then (r, if p < c then p else p + 1) else (if p - 15 < r then p - 15 else p - 14, c)

/-- The partner lies in the domain; the port is used. -/
def portUsed (h : Hub) (p : Nat) : Bool :=
  let q := partnerOf h p
  decide (q.1 ≤ h.rowsM1.toNat) && decide (q.2 ≤ h.colsM1.toNat)

/-- A port that new routes may take (R392, R399). -/
def portOpen (s : State) (p : Nat) : Bool :=
  let x := getPort s p
  x.up && !x.out.keywait && portUsed s.hub p && !s.hub.outPorts.contains p

/-- The port of a row router from one column to another, and of a column router from one row to another (R390). -/
def rowPort (fromCol toCol : Nat) : Fin 30 := Fin.ofNat 30 (if toCol < fromCol then toCol else toCol - 1)
def colPort (fromRow toRow : Nat) : Fin 30 := Fin.ofNat 30 (15 + if toRow < fromRow then toRow else toRow - 1)

/-! ## Routes (R392) -/

/-- A dimension's hops: the direct one, or two through an intermediate module. -/
def rowHops (fromCol toCol : Nat) (via : Option Nat) : List (Fin 30) :=
  if fromCol = toCol then []
  else match via with
    | none => [rowPort fromCol toCol]
    | some k => [rowPort fromCol k, rowPort k toCol]
def colHops (fromRow toRow : Nat) (via : Option Nat) : List (Fin 30) :=
  if fromRow = toRow then []
  else match via with
    | none => [colPort fromRow toRow]
    | some k => [colPort fromRow k, colPort k toRow]

/-- Intermediate modules of a dimension of n + 1: every one but the two ends. -/
def viaOf (n a b : Nat) : List (Option Nat) := ((upFrom 0 (n + 1)).filter fun k => k ≠ a && k ≠ b).map some

/-- The routes to another module, minimal ones first: at most two hops in each dimension, so at most four in all. -/
def routesTo (h : Hub) (m : Nat) : List (List (Fin 30)) × List (List (Fin 30)) :=
  let r := h.modRow.toNat
  let c := h.modCol.toNat
  let row := fun via => rowHops c (m % 16) via
  let col := fun via => colHops r (m / 16) via
  let both := fun v w => [row v ++ col w, col w ++ row v]
  let vr : List (Option Nat) := if c = m % 16 then [] else viaOf h.colsM1.toNat c (m % 16)
  let vc : List (Option Nat) := if r = m / 16 then [] else viaOf h.rowsM1.toNat r (m / 16)
  (both none none,
   vr.flatMap (fun v => both v none) ++ vc.flatMap (fun w => both none w) ++ vr.flatMap (fun v => vc.flatMap fun w => both v w))

/-- A route's first link is open; of the others the hub knows nothing. -/
def routeOpen (s : State) (route : List (Fin 30)) : Bool :=
  match route with
  | [] => false
  | p :: _ => portOpen s p.val

/-- A port's occupancy in the hub's view: flits in flight and packets that wait. -/
def portLoad (s : State) (route : List (Fin 30)) : Nat :=
  match route with
  | [] => 0
  | p :: _ => (getPort s p.val).inFlight.sum + (getPort s p.val).outQ.length

/-- The route with the least occupancy, an earlier one where two are equal. -/
def leastLoaded (s : State) : List (List (Fin 30)) → Option (List (Fin 30))
  | [] => none
  | a :: r =>
    match leastLoaded s r with
    | none => some a
    | some b => if portLoad s a ≤ portLoad s b then some a else some b

/-- The source hub's choice: an open minimal route, else an open detour (when a link counts as congested is not given; a detour is
taken only past a link that is down: log 84). -/
def chooseRoute (s : State) (m : Nat) : Option (List (Fin 30)) :=
  let t := routesTo s.hub m
  match leastLoaded s (t.1.filter (routeOpen s)) with
  | some r => some r
  | none => leastLoaded s (t.2.filter (routeOpen s))

/-- Some route leads to another module. -/
def moduleReachable (s : State) (m : Nat) : Bool := m == ownModule s || (chooseRoute s m).isSome

/-! ## Flits on a link (R393, R395, R398) -/

/-- Flits that each class of a channel is guaranteed. -/
def classShare : Nat := 2

/-- The place of a hop class in a channel's counts; a packet with r hops left uses class r. -/
def classKey (channel cls : Nat) : Nat := channel * 4 + (cls - 1)

/-- Flits of the other classes' guarantee that they have not taken. -/
def keptForOthers (x : Port) (channel cls : Nat) : Nat :=
  ((upFrom 1 4).map fun r => if r = cls then 0 else classShare - min classShare (x.inClass.getD (classKey channel r) 0)).sum

/-- The link is up, keyed and not at its key's last pair. -/
def linkRuns (x : Port) : Bool := x.up && x.out.key.isSome && !x.out.keywait && decide (x.out.counter ≠ 2 ^ 48 - 2)

/-- A packet of n flits may leave on a channel in a class: within the channel's limit and the other classes' guarantees. -/
def mayLeave (x : Port) (channel cls n : Nat) : Bool :=
  linkRuns x && decide (x.inFlight.getD channel 0 + n + keptForOthers x channel cls ≤ x.limits.getD channel 0)

/-- One sealed pair goes on the wire and is kept for retransmission (R398). -/
def sendPair (x : Port) (kind0 kind1 : Fin 4) (a b : BitVec 512) : Port :=
  match x.out.key with
  | none => x
  | some k =>
    let u : WireUnit := { sealed := true, kind0 := kind0, kind1 := kind1, pseq := BitVec.ofNat 16 (x.out.counter / 2), cipher := 0, tag := 0 }
    let hdr : BitVec 32 := BitVec.ofNat 32 (u.pseq.toNat + kind1.val * 2 ^ 27 + kind0.val * 2 ^ 29 + 2 ^ 31)
    let c := Config.gcmSeal k (x.out.salt ++ BitVec.ofNat 48 x.out.counter) hdr (b ++ a)
    { x with out := { x.out with counter := x.out.counter + 2 }, wire := x.wire ++ [{ u with cipher := c.1, tag := c.2 }] }

/-- Data flits go out two at a time; a last one alone is completed with an idle flit. The key's last pair carries none of them: what is
left waits for the next key. -/
def sendFlits (x : Port) : List (BitVec 512) → Port
  | a :: b :: r => if linkRuns x then sendFlits (sendPair x 0 0 a b) r else { x with cutOff := a :: b :: r }
  | [a] => if linkRuns x then sendPair x 0 2 a 0 else { x with cutOff := [a] }
  | [] => x

/-- The first packet of a port's queue leaves if it may, and takes its share of the buffer beyond. -/
def leaveHead (x : Port) : Option (Port × RyPacket × Option Nat) :=
  match x.outQ with
  | (p, src) :: r =>
    let cls := p.route.length
    let n := p.flits.length
    if mayLeave x p.channel.val cls n then
      let y := sendFlits { x with outQ := r } p.flits
      let key := classKey p.channel.val cls
      some ({ y with inFlight := setAt y.inFlight p.channel.val (y.inFlight.getD p.channel.val 0 + n),
                     inClass := setAt y.inClass key (y.inClass.getD key 0 + n) }, p, src)
    else none
  | [] => none

/-- A packet of another channel or class may pass a head that waits (R85, R393): the first of each channel and class is tried. -/
def pickReady (x : Port) : List (RyPacket × Option Nat) → List (Nat × Nat) → Option Nat
  | [], _ => none
  | (p, _) :: r, seen =>
    let k := (p.channel.val, p.route.length)
    if !seen.contains k && mayLeave x k.1 k.2 p.flits.length then some (x.outQ.length - (r.length + 1))
    else pickReady x r (k :: seen)

/-- A credit leaves in a pair of its own, or waits for the link's next key; it takes none of the CTL channel's buffer (DESIGN CHOICE,
log 80: no rule says what credits for credits would be). -/
def sendCredit (flit : BitVec 512) (x : Port) (f : LinkCtl) : Port :=
  if linkRuns x then { sendPair x 1 2 flit 0 with ctlSent := x.ctlSent ++ [f] } else { x with ctlQ := x.ctlQ ++ [f] }

/-- Flits that leave an input buffer: the packet goes, and the sender gets its credit (R395). -/
def freeInput (s : State) (src : Option Nat) (p : RyPacket) : State :=
  match src with
  | none => s
  | some q =>
    bumpFree (modPort s q fun x =>
      sendCredit (Config.packetFlit s.freeCtr 0) { x with inBuf := x.inBuf.erase p }
        (.credit p.channel.val (p.route.length + 1) p.flits.length))

/-- Everything that a port's credits allow goes out, in the order of each channel and class; `n` bounds the packets. -/
def pumpPort (s : State) (port : Nat) : Nat → State
  | 0 => s
  | n + 1 =>
    let x := getPort s port
    match pickReady x x.outQ [] with
    | none => s
    | some i =>
      match x.outQ[i]? with
      | none => s
      | some e =>
        match leaveHead { x with outQ := e :: dropAt x.outQ i } with
        | none => s
        | some (y, p, src) => pumpPort (freeInput (modPort s port fun _ => y) src p) port n

def pump (s : State) (port : Nat) : State := pumpPort s port (getPort s port).outQ.length

/-! ## Injection (R392, R394) -/

def pairKey (m : Nat) (channel : Fin 6) : Nat := m * 8 + channel.val

/-- A packet takes its route, or waits for one. -/
def startPacket (s : State) (p : RyPacket) : State :=
  match chooseRoute s p.dst with
  | none => modHub s fun h => { h with noRoute := h.noRoute ++ [p] }
  | some r =>
    match r with
    | [] => s
    | q :: _ => pump (modPort s q.val fun x => { x with outQ := x.outQ ++ [({ p with route := r }, none)] }) q.val

/-- Reply channels: their slots were reserved when the request came (R393). -/
def isReply (channel : Fin 6) : Bool := channel == 1

/-- The hub injects a packet for another module: the pair's next sequence number, its flits, its route. -/
def inject (s : State) (dst : Nat) (channel : Fin 6) : State :=
  if dst = ownModule s then s
  else
    let key := pairKey dst channel
    let n := tget s.hub.sendSeq 0 key
    let p : RyPacket :=
      { src := ownModule s, dst := dst, channel := channel, seq := n,
        flits := (upFrom 0 ((Config.packetLen s.freeCtr).val + 1)).map (Config.packetFlit s.freeCtr), route := [] }
    let s1 := modHub (bumpFree s) fun h =>
      { h with sendSeq := tput h.sendSeq key (n + 1), replySlots := if isReply channel then h.replySlots.erase dst else h.replySlots }
    startPacket s1 p

/-- A word on the control channel (Table 21.1). -/
def sendCtl (s : State) (m : Nat) (w : CtlMsg) : State :=
  if m = ownModule s then s else inject (modHub s fun h => { h with ctlOut := h.ctlOut ++ [(m, w)] }) m 3

/-- What comes of something that a peer has sent, or the word on CTL that it is refused (R118, R356). -/
def orRefuse (s : State) (m : Nat) (w : CtlMsg) (o : Option State) : State := o.getD (sendCtl s m w)

/-- The modules of the domain but this one. -/
def otherModules (h : Hub) : List Nat :=
  ((upFrom 0 (h.rowsM1.toNat + 1)).flatMap fun r => (upFrom 0 (h.colsM1.toNat + 1)).map fun c => r * 16 + c).filter
    (· ≠ h.modRow.toNat * 16 + h.modCol.toNat)

/-- A word on the control channel for every hub of some modules. -/
def tellModules (s : State) (ms : List Nat) (w : CtlMsg) : State := ms.foldl (fun s m => sendCtl s m w) s

/-- Packets that had no route try again. -/
def retryRoutes (s : State) : State :=
  s.hub.noRoute.foldl startPacket (modHub s fun h => { h with noRoute := [] })

/-! ## Packets that arrive (R393, R394) -/

/-- Deliver what is next of its pair, and whatever was held back behind it; `fuel` bounds the packets. -/
def deliverPair (s : State) (key : Nat) : Nat → State
  | 0 => s
  | n + 1 =>
    let due := tget s.hub.recvSeq 0 key
    match s.hub.reorder.find? (fun p => pairKey p.src p.channel == key && p.seq == due) with
    | none => s
    | some p =>
      deliverPair (modHub s fun h =>
        { h with reorder := h.reorder.erase p, inbox := h.inbox ++ [p], recvSeq := tput h.recvSeq key (due + 1),
                 replySlots := if p.channel = 0 then h.replySlots ++ [p.src] else h.replySlots }) key n

/-- A packet at its destination's hub is always sunk: it leaves the input buffer and waits only for its order. -/
def sinkPacket (s : State) (port : Nat) (p : RyPacket) : State :=
  let s1 := freeInput s (some port) p
  let s2 := modHub s1 fun h => { h with reorder := h.reorder ++ [p] }
  deliverPair s2 (pairKey p.src p.channel) (s2.hub.reorder.length)

/-- A packet has come in by a port: it is sunk here, or waits for the next link of its route, which it keeps (R392). -/
def routePacket (s : State) (port : Nat) (p : RyPacket) : State :=
  let s1 := modPort s port fun x => { x with inBuf := x.inBuf ++ [p] }
  match p.route with
  | [] => sinkPacket s1 port p
  | q :: _ => pump (modPort s1 q.val fun x => { x with outQ := x.outQ ++ [(p, some port)] }) q.val

end Sys2Proof.Machine
end

