-- ==== Sys2Proof/Machine/Ordering.lean ====
section
/-! DEFINITION. Homes of addresses (R79, R80, R86, R87) and the moves of the ordering machine (R45 to R70): registration,
gateway queues, the sources of a load, acquires, propagation. -/

namespace Sys2Proof.Machine

/-! ## Addresses -/

/-- A byte of a module's HBM or LPDDR tier, as a mapping with an HSEL reaches it (R72, R86). -/
def memKey (module hsel pa : Nat) : Nat := module * 2 ^ 60 + hsel * 2 ^ 52 + pa
/-- A byte of a cluster store, by LOCAL window offset (R73). -/
def storeKey (module cluster off : Nat) : Nat := module * 2 ^ 60 + 2 ^ 56 + cluster * 2 ^ 21 + off
/-- A byte of a peer member's Keystone share (R400). -/
def shareKey (module lslot off : Nat) : Nat := module * 2 ^ 60 + 2 * 2 ^ 56 + lslot * 2 ^ 21 + off

def keySpace (a : Nat) : Nat := a / 2 ^ 56 % 16
def keyModule (a : Nat) : Nat := a / 2 ^ 60
def keyPa (a : Nat) : Nat := a % 2 ^ 52
def keyHsel (a : Nat) : Nat := a / 2 ^ 52 % 16
/-- The aligned word of a byte (R48). -/
def wordKey (a : Nat) : Nat := a / 8 * 8

/-- HBM lies below 512 GiB, the LPDDR tier in the next 512 GiB (Table 4.1). -/
def hbmTop : Nat := 0x8000000000
def memTop : Nat := 0x10000000000

/-- The XOR term of channel bit i under a hash (Table 4.6). -/
def hashTerm (hsel pa i : Nat) : Nat :=
  let b := fun j => pa / 2 ^ j % 2
  match hsel with
  | 0 => if i = 7 then b (16 + i) ^^^ b (24 + i) else b (16 + i) ^^^ b (24 + i) ^^^ b (32 + i)
  | 1 => 0
  | 2 => b (16 + i)
  | 3 => b (24 + i)
  | 4 => b (16 + i) ^^^ b (24 + i)
  | 5 => b (16 + 2 * i) ^^^ b (17 + 2 * i)
  | 6 => b (31 + i)
  | _ => b (23 - i)

/-- The HBM channel of a physical address (R87). -/
def hbmChannel (hsel pa : Nat) : Nat :=
  (upFrom 0 8).foldl (fun acc i => acc + 2 ^ i * ((pa / 2 ^ (6 + i) % 2) ^^^ hashTerm hsel pa i)) 0

/-- The LPDDR package of a physical address of the tier, and the byte offset within it (R89). -/
def lpddrPackage (pa : Nat) : Nat := (pa - hbmTop) / 2 ^ 12 % 8
def lpddrOffset (pa : Nat) : Nat := (pa - hbmTop) / 2 ^ 15 * 4096 + (pa - hbmTop) % 4096

/-- The offset within the channel (R86). -/
def hbmOffset (pa : Nat) : Nat := pa / 2 ^ 16 % 2 ^ 23 * 256 + pa / 2 ^ 14 % 4 * 64 + pa % 64

/-- The home die of a memory address (R79). -/
def homeDie (a : Nat) : Nat :=
  if keyPa a < hbmTop then hbmChannel (keyHsel a) (keyPa a) / 64 else keyPa a / 2 ^ 12 % 4

/-- The home slice on the home die (R79). -/
def homeSlice (pa : Nat) : Nat :=
  ((pa / 2 ^ 6) ^^^ (pa / 2 ^ 13) ^^^ (pa / 2 ^ 20) ^^^ (pa / 2 ^ 27) ^^^ (pa / 2 ^ 34)) % 128

/-- The home cell of a memory address (R80). -/
def homeCell (a : Nat) : Nat := (homeDie a * 128 + homeSlice (keyPa a)) * 4 + keyPa a / 64 % 4

/-! ## Degraded memory (R425) -/

/-- Units 0-7 are HBM stacks, two per die; 8-15 the LPDDR packages. A tier with a marked-out unit is folded: its upper half
is unpopulated; with both units of a pair marked out the whole tier is. -/
def foldedAway (out : List Nat) (pa : Nat) : Bool :=
  let isOut := fun n => out.contains n
  let pairOut := fun base => (upFrom 0 4).any fun i => isOut (base + 2 * i) && isOut (base + 2 * i + 1)
  if pa < hbmTop then
    let any := (upFrom 0 8).any isOut
    (any && 0x4000000000 ≤ pa) || pairOut 0
  else
    let any := (upFrom 8 8).any isOut
    (any && 0xC000000000 ≤ pa) || pairOut 8

/-- The channel that serves a line, and the offset in it: of a marked-out stack's line, the same channel of the die's other stack, with
bit 30 of the offset set. -/
def servedChannel (out : List Nat) (a : Nat) : Nat × Nat :=
  let c := hbmChannel (keyHsel a) (keyPa a)
  if out.contains (c / 32) then (c ^^^ 32, hbmOffset (keyPa a) + 2 ^ 30) else (c, hbmOffset (keyPa a))

/-- The package that serves a line of the tier, and the offset in it: of a marked-out package's line, the other of its pair, with bit
35 set. -/
def servedPackage (out : List Nat) (pa : Nat) : Nat × Nat :=
  let k := lpddrPackage pa
  if out.contains (8 + k) then (k ^^^ 1, lpddrOffset pa + 2 ^ 35) else (k, lpddrOffset pa)

/-! ## Gateway queues -/

/-- The entries of a gateway queue, oldest first. -/
def gwEntries (s : State) (q : GwId) : List GwEntry :=
  match s.gwq.find? (fun p => p.1 = q) with
  | some p => p.2
  | none => []

/-- Replace a queue's entries. -/
def gwSet (s : State) (q : GwId) (es : List GwEntry) : State :=
  { s with gwq := if s.gwq.any (fun p => p.1 = q) then s.gwq.map (fun p => if p.1 = q then (q, es) else p)
                  else s.gwq ++ [(q, es)] }

/-- The channel of a module-pair entry (Table 21.1): REQ toward a home, RSP back, WB for acknowledgements. -/
def gwChannel : GwEntry → Fin 6
  | .fill .. => 1
  | .update .. => 1
  | .ack .. => 2
  | .atomicReply .. => 1
  | .shareReply .. => 1
  | _ => 0

/-- An entry of a queue to a peer module leaves this hub as a packet (R391, R394). -/
def gwInject (s : State) (e : GwEntry) : GwId → State
  | .die _ _ => s
  | .module a b => if a = ownModule s then inject s b (gwChannel e) else s

/-- Append an entry to a gateway queue (R46: FIFO). -/
def gwPush (s : State) (q : GwId) (e : GwEntry) : State := gwInject (gwSet s q (gwEntries s q ++ [e])) e q

/-- Whether a global word is homed on a die of this module. -/
def homedHere (s : State) (die a : Nat) : Bool := keyModule a == ownModule s && homeDie a == die

/-- The queue from a die to the home of a word homed elsewhere, and the queue back (R46). -/
def queueToHome (s : State) (die a : Nat) : GwId :=
  if keyModule a = ownModule s ∧ keySpace a = 0 then .die die (homeDie a) else .module (ownModule s) (keyModule a)
def queueFromHome (s : State) (die a : Nat) : GwId :=
  if keyModule a = ownModule s ∧ keySpace a = 0 then .die (homeDie a) die else .module (keyModule a) (ownModule s)

/-- The queue ends at a peer module, or begins at one (R46). -/
def toPeer (s : State) : GwId → Bool
  | .die _ _ => false
  | .module _ b => b != ownModule s
def fromPeer (s : State) : GwId → Bool
  | .die _ _ => false
  | .module a b => a != ownModule s && b == ownModule s

/-- The gateway copy of a word that a die can use: its own of a sibling's word, the module's of a peer's (Table 3.2). -/
def gwCopy (s : State) (die a : Nat) : Option Word :=
  if keyModule a = ownModule s then tfind (getDie s die).copies a else tfind s.hub.fabCopies a
def setGwCopy (s : State) (die a : Nat) (v : Word) : State :=
  if keyModule a = ownModule s then modDie s die fun d => { d with copies := tput d.copies a v }
  else modHub s fun h => { h with fabCopies := tput h.fabCopies a v }
def delGwCopy (s : State) (die a : Nat) : State :=
  if keyModule a = ownModule s then modDie s die fun d => { d with copies := tdel d.copies a }
  else modHub s fun h => { h with fabCopies := tdel h.fabCopies a }

def isFillOf (a : Nat) : GwEntry → Bool
  | .fill _ b _ _ _ => a == b
  | _ => false

/-- A die (or, for a peer's word, this module) holds a gateway copy, or a fill for it is under way (R53). -/
def holdsCopy (s : State) (die a : Nat) : Bool :=
  (gwCopy s die a).isSome || (gwEntries s (queueFromHome s die a)).any (isFillOf a)

/-- Peers that hold a copy of a word homed here (R396): the directory's bits. -/
def holdersOf (s : State) (a : Nat) : List Nat := tget s.hub.directory [] a
def addHolder (s : State) (a m : Nat) : State :=
  if (holdersOf s a).contains m then s
  else modHub s fun h => { h with directory := tput h.directory a (holdersOf s a ++ [m]) }
def dropHolder (s : State) (a m : Nat) : State :=
  let r := (holdersOf s a).filter (· != m)
  modHub s fun h => { h with directory := if r.isEmpty then tdel h.directory a else tput h.directory a r }

/-! ## Channel counters (R88) -/

/-- One 64-byte burst on the HBM channel of an address: counter 0 reads, 1 writes (Table 4.7). -/
def hbmBurst (s : State) (counter a : Nat) : State :=
  if keyPa a < hbmTop then
    let ch := (servedChannel s.hub.outMem a).1
    modDie s (ch / 64) fun d =>
      if d.cntEn then { d with hbm := tput d.hbm (ch % 64 * 8 + counter) (tget d.hbm 0 (ch % 64 * 8 + counter) + 1) } else d
  else s

/-- The memory controller of a line: an HBM stack's, or an LPDDR package's (R84; log 99). -/
def lineCtl (out : List Nat) (line : Nat) : Nat :=
  let a := line * 64
  if keyPa a < hbmTop then (servedChannel out a).1 / 32 else 8 + (servedPackage out (keyPa a)).1

/-! ## Cache look-ups (R75, R81 to R84) -/

/-- The cluster whose slice is the home slice of an address of this module (R79). -/
def sliceCluster (a : Nat) : Nat := homeDie a * 128 + homeSlice (keyPa a)

/-- An access to this line must wait: its home slice is here and has no miss entry left (R55, R84). -/
def sliceBusy (s : State) (a : Nat) : Bool :=
  keySpace a == 0 && keyModule a == ownModule s && sliceFull (getCluster s (sliceCluster a)) a

/-- The home slice of a line of this module is looked up; a miss reads the line from memory. -/
def touchSlice (s : State) (a cls : Nat) (noalloc write : Bool) : State :=
  if keySpace a = 0 && keyModule a = ownModule s then
    let k := getCluster s (sliceCluster a)
    let s1 := modCluster s (sliceCluster a) fun k => sliceLookup k (lineCtl s.hub.outMem) cls a noalloc write
    if cacheHolds k.slice (sliceSet a) (a / 64) || k.missTab.any (fun m => m.line == a / 64) then s1
    else if noalloc && write then hbmBurst s1 1 a
    else hbmBurst s1 0 a
  else s

/-- Lines that a look-up has made a set of a cache give up. -/
def linesLost (old new : Cache) (set : Nat) : List Nat :=
  ((waysOf old set).filterMap fun w => w.map (·.line)).filter fun l => !cacheHolds new set l

/-- The fabric gateway cache gives up a line: the module's copies of its words go, and an eviction notice follows the earlier fill
requests to its home (R396). -/
def dropFabLine (s : State) (line : Nat) : State :=
  inject (modHub s fun h => { h with fabCopies := h.fabCopies.filter fun p => p.1 / 64 != line }) (keyModule (line * 64)) 0

/-- A look-up of a peer's line would make the fabric gateway cache give up a line. -/
def fabDisplaces (s : State) (a : Nat) (noalloc : Bool) : Bool :=
  keyModule a != ownModule s &&
  !(linesLost s.hub.fabCache (fabGatewayAccess s.hub.fabCache a (keyPa a) noalloc) (fabSet (keyPa a))).isEmpty

/-- A look-up of the fabric gateway cache (R82). -/
def touchFab (s : State) (a : Nat) (noalloc : Bool) : State :=
  let c := fabGatewayAccess s.hub.fabCache a (keyPa a) noalloc
  (linesLost s.hub.fabCache c (fabSet (keyPa a))).foldl dropFabLine (modHub s fun h => { h with fabCache := c })

/-- A line looked up past the clusters' own caches: at the home slice on the requester's die, or in a gateway cache. -/
def touchHome (s : State) (die a cls : Nat) (noalloc : Bool) : State :=
  if keySpace a ≠ 0 then s
  else if homedHere s die a then touchSlice s a cls noalloc false
  else if keyModule a = ownModule s then
    modDie s die fun d =>
      { d with gwCaches := tput d.gwCaches (homeDie a) (dieGatewayAccess (tget d.gwCaches Cache.reset (homeDie a)) a (keyPa a) noalloc) }
  else touchFab s a noalloc

/-- A line enters the data cache of a cluster; the dirty line that it displaces goes back to its slice (R75, R81). -/
def fillCluster (s : State) (cl a : Nat) (noalloc : Bool) : State :=
  if noalloc then s
  else
    let r := clusterFill (getCluster s cl) s.freeCtr a
    let s1 := modCluster s cl fun _ => r.1
    match r.2 with
    | some l => touchSlice s1 (l * 64) 0 false true
    | none => s1

/-- A request of a cluster's cell or engine for a line: served by the cluster's data cache, else looked up and filled there. -/
def touchLine (s : State) (cl a cls : Nat) (noalloc : Bool) : State :=
  if keySpace a ≠ 0 || clusterHolds (getCluster s cl) a then s
  else fillCluster (touchHome s (dieOfCluster cl) a cls noalloc) cl a noalloc

/-- Traffic class of a registration (Table 4.4). Table 4.4 names no class for the dispatcher, the interrupt controllers, traces and
RDMA; they count as cell data (DESIGN CHOICE, log 9). -/
def originClass : Origin → Nat
  | .xfer _ => 1
  | _ => 0

/-! ## Registration (R52, R53) -/

/-- The update entries that a registration causes: to each other die of this module and each peer that holds a copy, or to this
module for a peer's word (R53, R396). -/
def pushUpdates (s0 : State) (o : Origin) (a : Nat) (v : Word) : State :=
  let e : GwEntry := .update o s0.regCtr a v
  let s := { s0 with regCtr := s0.regCtr + 1 }
  if keyModule a = ownModule s then
    let s1 := (upFrom 0 4).foldl (fun s d =>
      if d ≠ homeDie a ∧ holdsCopy s d a then gwPush s (.die (homeDie a) d) e else s) s
    (holdersOf s a).foldl (fun s m => gwPush s (.module (ownModule s) m) e) s1
  else if holdsCopy s 0 a then gwPush s (.module (keyModule a) (ownModule s)) e else s

/-- The previous owner's OWNED entry becomes a COPY of its old value (R52). -/
def demoteOwner (s : State) (newOwner : Option Nat) (a : Nat) : State :=
  match tfind s.owners a with
  | some p =>
    if newOwner = some p then s
    else modCell s p fun c =>
      match tfind c.view a with
      | some e => { c with view := tput c.view a { e with owned := false } }
      | none => c
  | none => s

/-- A word registers at its home (R52): the home takes the masked bits; `owner` is the registering cell of the home die, if
one registers. Words of cluster stores have no owner and no copies (Table 3.2). -/
def registerAt (s : State) (owner : Option Nat) (o : Origin) (w : WordStore) : State :=
  let v := mergeBits (readWord s.mem w.addr) w.mask w.data
  let s1 := { s with mem := writeMasked s.mem w.addr w.mask w.data }
  if keySpace w.addr ≠ 0 then s1
  else
    let s2 := demoteOwner (touchSlice s1 w.addr (originClass o) w.noalloc true) owner w.addr
    let s3 :=
      match owner with
      | some c =>
        modCell (modCluster { s2 with owners := tput s2.owners w.addr c } (clusterOf c) fun k => clusterDirty k w.addr) c fun x =>
          { x with view := tput x.view w.addr { owned := true, value := v } }
      | none => { s2 with owners := tdel s2.owners w.addr }
    pushUpdates s3 o w.addr v

/-- A store of an engine or other unit of a die (R63): registered at the home, or sent there. -/
def unitStore (s : State) (die : Nat) (o : Origin) (w : WordStore) : State :=
  if keySpace w.addr ≠ 0 || homedHere s die w.addr then registerAt s none o w
  else gwPush (delGwCopy s die w.addr) (queueToHome s die w.addr) (.store o w)

/-- Bytes written at their homes at once by a unit that stands for no die (dispatcher, interrupt controller, RDMA). -/
def homeWriteBytes (s : State) (a : Nat) (bs : List Byte) : State :=
  (bs.zip (upFrom a bs.length)).foldl (fun s p =>
    registerAt s none .unit { addr := wordKey p.2, mask := BitVec.ofNat 64 (255 * 2 ^ (8 * (p.2 % 8))),
                              data := BitVec.ofNat 64 (p.1.toNat * 2 ^ (8 * (p.2 % 8))) }) s

/-- One whole word written at its home by such a unit. -/
def homeWriteWord (s : State) (a : Nat) (v : Word) : State :=
  registerAt s none .unit { addr := a, mask := BitVec.allOnes 64, data := v }

/-- Words written one after another. -/
def homeWriteWords (s : State) (a : Nat) : List Word → State
  | [] => s
  | v :: r => homeWriteWords (homeWriteWord s a v) (a + 8) r

/-- The value at a word's home. -/
def homeRead (s : State) (a : Nat) : Word := readWord s.mem a

/-- What a unit of a die reads of a word: its own stores that are still on their way to the home come first, as a fill request
behind them would find (R52, R54). -/
def unitRead (s : State) (die a : Nat) : Word :=
  if homedHere s die a || keySpace a ≠ 0 then homeRead s a
  else
    (gwEntries s (queueToHome s die a)).foldl (fun v e =>
      match e with
      | .store _ w => if w.addr = a then mergeBits v w.mask w.data else v
      | _ => v) (homeRead s a)

def homeReadWords (s : State) (a : Nat) : Nat → List Word
  | 0 => []
  | n + 1 => homeRead s a :: homeReadWords s (a + 8) n

/-! ## Queues of a context's stores -/

def entryOrigin : GwEntry → Option Origin
  | .store o _ => some o
  | .update o _ _ _ => some o
  | .ack o _ => some o
  | .atomic c _ _ => some (.amo c)
  | .share r => if r.store.isSome || r.atomic.isSome then some r.origin else none
  | _ => none

def entryAddr : GwEntry → Option Nat
  | .store _ w => some w.addr
  | .update _ _ a _ => some a
  | .atomic _ _ a => some (wordKey a.byteAddr)
  | .share r => if r.store.isSome || r.atomic.isSome then some r.addr else none
  | _ => none

/-- An atomic's registration is one of its context's (R56, R60). -/
def sameOrigin (o : Origin) (q : Origin) : Bool :=
  decide (q = o) || (match o, q with | .ctx c, .amo d => decide (c = d) | _, _ => false)

/-- Some registration of this origin has not yet propagated (R53). -/
def unpropagated (s : State) (cell : Nat) (o : Origin) : Bool :=
  (getCell s cell).regq.any (fun e => e.origin = o) ||
  s.gwq.any (fun q => q.2.any fun e => (entryOrigin e).any (sameOrigin o)) ||
  s.clusters.any (fun k => k.2.lanes.any fun l => l.scatter && decide (.ctx l.from_ = o)) ||
  (match o with
   | .ctx c => (getCtx s c).loads.any (fun p => p.atomic.isSome) || (getCell s c.cell).amos.any fun p => p.1 == c.slot
   | _ => false)

/-- The registrations of a context's stores whose updates are on their way, one for each (R53). -/
def updatesOnWay (s : State) (c : CtxId) : List Nat :=
  ((s.gwq.flatMap (·.2)).filterMap fun e => match e with
    | .update o n _ _ => if o = .ctx c then some n else none
    | .ack o n => if o = .ctx c then some n else none
    | _ => none).eraseDups

def isStoreOf (c : CtxId) : GwEntry → Bool
  | .store o _ => decide (o = .ctx c)
  | .share r => r.store.isSome && decide (r.origin = .ctx c)
  | _ => false

/-- The number of a context's stores that have entered the registration queue and not yet propagated (R169). -/
def unpropagatedCount (s : State) (c : CtxId) : Nat :=
  ((getCell s c.cell).regq.filter (fun e => e.origin = .ctx c)).length +
  (s.gwq.map fun q => (q.2.filter (isStoreOf c)).length).sum + (updatesOnWay s c).length +
  (s.clusters.flatMap fun k => (k.2.lanes.filter fun l => l.scatter && decide (l.from_ = c)).map (·.id)).eraseDups.length

/-- A release waits until the context's earlier registrations have propagated (R56). -/
def waitPropagated (c : CtxId) : X Unit := do
  if unpropagated (← get) c.cell (.ctx c) then stallWith .other

/-! ## Loads (R54) -/

/-- Overlay a store on the bits taken so far (younger over older). -/
def overlay (acc : Word × Word) (w : WordStore) : Word × Word :=
  (acc.1 ||| w.mask, mergeBits acc.2 w.mask w.data)

/-- The stores of an effect to a word. -/
def effectStores (a : Nat) : Effect → List WordStore
  | .stores _ ws => ws.filter fun w => w.addr == a
  | _ => []

/-- The bits that the context's registration-queue entries and section buffer cover, and their values (R54). -/
def ownBits (s : State) (c : CtxId) (a : Nat) : Word × Word :=
  let q := ((getCell s c.cell).regq.filter fun e => decide (e.origin = .ctx c) && e.store.addr == a).map (·.store)
  let b := (getCtx s c).sec.buffer.flatMap (effectStores a)
  (q ++ b).foldl overlay (0, 0)

/-- A word of a cluster store as a context's load takes it: its own deferred and queued stores first (R54). -/
def storeWord (s : State) (c : CtxId) (a : Nat) : Word :=
  let own := ownBits s c a
  mergeBits (readWord s.mem a) own.1 own.2

/-- A store of the context to this word is on its way to a remote home, or its update on the way back: a copy taken
earlier could be older than it, so the load sends its own fill request behind it (R54). -/
def ownInFlight (s : State) (c : CtxId) (a : Nat) : Bool :=
  let mine := fun e => (entryOrigin e).any (sameOrigin (.ctx c)) && decide (entryAddr e = some a)
  (gwEntries s (queueToHome s (dieOf c.cell) a)).any mine || (gwEntries s (queueFromHome s (dieOf c.cell) a)).any mine

def setView (s : State) (cell a : Nat) (e : ViewEntry) : State :=
  modCell s cell fun x => { x with view := tput x.view a e }

/-- The source of a global word after the context's own queues: the cell's view, the home on this die, a gateway copy, or
none at hand (R54). -/
def sourceWord (s0 : State) (c : CtxId) (a : Nat) (noalloc : Bool) : Option Word × State :=
  if keySpace a ≠ 0 then (some (readWord s0.mem a), s0)
  else
    let die := dieOf c.cell
    let stale := ownInFlight s0 c a
    let s := touchLine s0 (clusterOf c.cell) a 0 noalloc
    match tfind (getCell s0 c.cell).view a with
    | some e => if e.owned || !stale then (some e.value, s0) else (none, s)
    | none =>
      if homedHere s die a then
        let v := readWord s.mem a
        (some v, setView s c.cell a { owned := false, value := v })
      else
        match gwCopy s die a with
        | some v => if stale then (none, s) else (some v, setView s c.cell a { owned := false, value := v })
        | none => (none, s)

/-- A load of a word: its value, or the bits taken so far when a fill must be asked for (R54). -/
def loadSource (s : State) (c : CtxId) (a : Nat) (noalloc : Bool) : (Option Word × Word × Word) × State :=
  let own := ownBits s c a
  if own.1 = BitVec.allOnes 64 then ((some own.2, own), s)
  else
    match sourceWord s c a noalloc with
    | (some v, s') => ((some (mergeBits v own.1 own.2), own), s')
    | (none, s') => ((none, own), s')

/-- A load of a word would look up its home slice, whose miss table is full: it waits (R55, R84). -/
def loadMustWait (s : State) (c : CtxId) (a : Nat) : Bool :=
  (ownBits s c a).1 != BitVec.allOnes 64 && (tfind (getCell s c.cell).view a).isNone && homedHere s (dieOf c.cell) a &&
  !clusterHolds (getCluster s (clusterOf c.cell)) a && sliceBusy s a

def isFillReq (cell a : Nat) : GwEntry → Bool
  | .fillReq k b none _ _ _ => k == cell && b == a
  | _ => false

/-- A request of the cell for the word with no load behind it, or its fill, is under way. -/
def fillUnderWay (s : State) (cell a : Nat) : Bool :=
  (gwEntries s (queueToHome s (dieOf cell) a)).any (fun e => isFillReq cell a e) ||
  (gwEntries s (queueFromHome s (dieOf cell) a)).any fun e => match e with
    | .fill k b _ none _ => k == cell && b == a
    | _ => false

/-- Ask the home for the word (R54); a request behind which no load waits is not repeated. -/
def requestFill (s : State) (cell : Nat) (a : Nat) (who : Option (CtxId × Nat)) (cls : Nat) (noalloc view : Bool) : State :=
  if who.isNone && fillUnderWay s cell a then s
  else gwPush s (queueToHome s (dieOf cell) a) (.fillReq cell a who cls noalloc view)

/-- A word for an instruction that cannot leave its load outstanding: the instruction stalls until a source is at hand. -/
def loadWordX (c : CtxId) (a : Nat) (noalloc : Bool) : X Word := do
  let s ← get
  if loadMustWait s c a then stallWith .other
  match loadSource s c a noalloc with
  | ((some v, _), s') =>
    set s'
    pure v
  | ((none, _), s') =>
    set (requestFill s' c.cell a none 0 noalloc true)
    stallWith .other

/-- n bytes (within one aligned word) for such an instruction. -/
def loadBytesX (c : CtxId) (a n : Nat) (noalloc : Bool) : X Nat := do
  let v ← loadWordX c (wordKey a) noalloc
  pure (v.toNat / 2 ^ (8 * (a % 8)) % 2 ^ (8 * n))

/-! ## Acquires (R57) and instruction views (R70) -/

/-- Every COPY entry of the cell's view is discarded; OWNED entries stay (R57). -/
def dropCopies (s : State) (cell : Nat) : State :=
  modCell s cell fun x => { x with view := x.view.filter fun p => p.2.owned }

def acquire (c : CtxId) : X Unit := modify fun s => dropCopies s c.cell

/-- A word through the cell's instruction view, which holds COPY entries only (R70); none while a fill is needed or a miss must
wait. The four parcels of an aligned word enter the view together, and a parcel in the view keeps its value until ICSYNC; R70
and R158 would also let parcels of one word differ in age and a fetch return a later value (DESIGN CHOICE, log 100). -/
def fetchWord (s0 : State) (cell a : Nat) (noalloc : Bool) : Option Word × State :=
  match tfind (getCell s0 cell).iview a with
  | some v => (some v, s0)
  | none =>
    if homedHere s0 (dieOf cell) a && !clusterHolds (getCluster s0 (clusterOf cell)) a && sliceBusy s0 a then (none, s0) else
    let s := touchLine s0 (clusterOf cell) a 0 noalloc
    let keep := fun (v : Word) => (some v, modCell s cell fun x => { x with iview := tput x.iview a v })
    if homedHere s (dieOf cell) a then keep (readWord s.mem a)
    else
      match gwCopy s (dieOf cell) a with
      | some v => keep v
      | none => (none, requestFill s cell a none 0 noalloc false)

/-! ## Stores -/

/-- The one-word store of n bytes at a byte address (R48). -/
def byteStore (a n : Nat) (v : Nat) : WordStore :=
  { addr := wordKey a, mask := BitVec.ofNat 64 ((2 ^ (8 * n) - 1) * 2 ^ (8 * (a % 8))),
    data := BitVec.ofNat 64 (v % 2 ^ (8 * n) * 2 ^ (8 * (a % 8))) }

/-- A word leaves for its home: the cell's view entry and the gateway copy here go (R52). -/
def dropLocal (s : State) (cell a : Nat) : State :=
  delGwCopy (modCell s cell fun x => { x with view := tdel x.view a }) (dieOf cell) a

/-- A store enters the cell's registration queue (R49, R50). -/
def enqueueReg (s : State) (c : CtxId) (w : WordStore) : State :=
  modCell s c.cell fun x => { x with regq := x.regq ++ [{ origin := .ctx c, store := w }] }

end Sys2Proof.Machine
end

