-- ==== Sys2Proof/Machine/Translate.lean ====
section
/-! DEFINITION. Address translation (R90 to R96), the LOCAL window (R73, R74), the Keystone window's address rule (R400 to
R404), the watch filter (R418), and where an access of a context lands. -/

namespace Sys2Proof.Machine

/-! ## Kinds of access and causes (R95, Table 4.9) -/

def kRead : Fin 4 := 0
def kWrite : Fin 4 := 1
def kAtomic : Fin 4 := 2
def kFetch : Fin 4 := 3

/-- The virtual-address field of a translation fault (R95): VA[54:0], the kind in 57:56, the cause in 63:58. -/
def faultVa (va : Word) (kind : Fin 4) (cause : Nat) : Word :=
  BitVec.ofNat 64 (va.toNat % 2 ^ 55 + kind.val * 2 ^ 56 + cause % 64 * 2 ^ 58)

/-! ## Windows -/

def localBase : Nat := 0xFFFFFFFFFFE00000
def windowBase : Nat := 0xFFFFFFFFE0000000
def windowTop : Nat := 0xFFFFFFFFF0000000

/-- A LOCAL-window address (R73). -/
def isLocal (va : Word) : Bool := localBase ≤ va.toNat
/-- An address of the Keystone window's range (R400). -/
def isWindow (va : Word) : Bool := windowBase ≤ va.toNat && va.toNat < windowTop
def localVa (off : Nat) : Word := BitVec.ofNat 64 (localBase + off)

/-- Bank of a LOCAL offset and its current mode: 0 CACHE, 1 SCRATCH, 2 FIFO (R73, Table 4.2). -/
def bankOf (off : Nat) : Nat := off / 2 ^ 17 % 16
def bankMode (m : BitVec 32) (b : Nat) : Nat := m.toNat / 4 ^ b % 4

/-- Every byte of a LOCAL range lies in a SCRATCH bank (R74). -/
def inScratchBanks (cl : Cluster) (off n : Nat) : Bool :=
  off + n ≤ 2 ^ 21 && (upFrom (off / 2 ^ 17) ((off + n - 1) / 2 ^ 17 - off / 2 ^ 17 + 1)).all fun b => bankMode cl.modes b == 1

/-- off..off+n-1 inside base..base+size-1. -/
def within (off n base size : Nat) : Bool := base ≤ off && off + n ≤ base + size

/-- The scratch grants that a context may touch on its cluster, as (offset, size) (R74). -/
def scratchGrants (s : State) (c : CtxId) : List (Nat × Nat) :=
  let x := getCtx s c
  if isStrand c then
    match launchAt s x.ident.lslot.toNat with
    | some l => (l.groups.filter fun g => g.2.cluster == clusterOf c.cell && !g.2.retired).map
        fun g => (g.2.scratchOff, l.packet.scratch)
    | none => []
  else [(x.grants.scratchOff, x.grants.scratchSize)]

/-- The place of a LOCAL range that R74 permits, if it does. -/
def localLoc (s : State) (c : CtxId) (off n : Nat) : Option Loc :=
  let x := getCtx s c
  let cl := clusterOf c.cell
  let here := storeKey (ownModule s) cl off
  if !inScratchBanks (getCluster s cl) off n then none
  else if !isStrand c && within off n x.grants.frameOff x.grants.frameSize then some ⟨here, .frame, 0, 0, none⟩
  else if (scratchGrants s c).any (fun g => within off n g.1 g.2) then some ⟨here, .scratch, 0, 0, none⟩
  else none

/-! ## Page table (R90 to R93) -/

def pteV (e : Word) : Bool := bit e 0
def pteR (e : Word) : Bool := bit e 1
def pteW (e : Word) : Bool := bit e 2
def pteX (e : Word) : Bool := bit e 3
def pteA (e : Word) : Bool := bit e 4
def pteD (e : Word) : Bool := bit e 5
def pteTier (e : Word) : Nat := bits e 7 6
def pteHsel (e : Word) : Nat := bits e 10 8
def pteWatch (e : Word) : Bool := bit e 11
def pteNoalloc (e : Word) : Bool := bit e 12
def ptePpn (e : Word) : Nat := bits e 51 16

/-- The physical address of va through a leaf (R90): 64 KiB page or 512 MiB block. -/
def leafPa (e va : Word) (block : Bool) : Nat :=
  if block then ptePpn e / 2 ^ 13 * 2 ^ 29 + va.toNat % 2 ^ 29 else ptePpn e * 2 ^ 16 + va.toNat % 2 ^ 16

/-- The byte that a leaf reaches (R86, R91): HSEL counts only for HBM pages. -/
def leafKey (s : State) (e : Word) (pa : Nat) : Nat :=
  match pteTier e with
  | 0 => memKey (ownModule s) (pteHsel e) pa
  | 1 => memKey (ownModule s) 0 pa
  | _ => memKey (bits e 59 56 * 16 + bits e 55 52) 0 pa

/-- A physical read or write by a unit must lie in populated memory (Table 4.1, R425); it uses the default hash (log 15). -/
def physKey (s : State) (pa : Nat) : Nat := memKey (ownModule s) 0 pa
def populated (s : State) (pa n : Nat) : Bool :=
  pa + n ≤ memTop && !foldedAway s.hub.outMem pa && !foldedAway s.hub.outMem (pa + n - 1)

inductive WalkResult where
  | ok (pa : Nat) (pte : Word) (block : Bool) (s : State)
  /-- a translation fault; `block` where the walk ended at a block's leaf -/
  | fault (code cause : Nat) (block : Bool)
  /-- a table entry where no memory is: Table 4.1 or a mark-out leaves the address unpopulated (R425; log 90) -/
  | dead
  /-- an entry's home slice has no miss entry left (R84) -/
  | busy

/-- The checks of a leaf at level 2 or 3, in the order of R92; the fault's code and cause. -/
def leafCheck (s : State) (e va : Word) (kind : Fin 4) (block : Bool) : Option (Nat × Nat) :=
  let pa := leafPa e va block
  if pteW e && !pteR e then some (cPAGE_FAULT, 6)
  else if pteTier e = 3 then some (cPAGE_FAULT, 6)
  else if block && ptePpn e % 2 ^ 13 ≠ 0 then some (cPAGE_FAULT, 6)
  else if pteTier e = 2 ∧ bits e 59 56 * 16 + bits e 55 52 = ownModule s then some (cPAGE_FAULT, 6)
  else if (pteTier e = 0 ∧ hbmTop ≤ pa) ∨ (pteTier e = 1 ∧ (pa < hbmTop ∨ memTop ≤ pa)) ∨ (pteTier e = 2 ∧ memTop ≤ pa) then
    some (cPAGE_FAULT, 7)
  else if kind = kRead && !pteR e then some (cPROT, 8)
  else if kind = kFetch && !pteX e then some (cPROT, 10)
  else if kind = kWrite && !pteW e then some (cPROT, 9)
  else if kind = kAtomic && (!pteR e || !pteW e) then some (cPROT, 9)
  else none

/-- Set A, and D for a store or atomic, by an atomic OR at the entry's home (R93). -/
def setAD (s : State) (ea : Nat) (e : Word) (kind : Fin 4) : Word × State :=
  let want : Word := if kind = kWrite ∨ kind = kAtomic then 0x30 else 0x10
  if e &&& want = want then (e, s)
  else (e ||| want, registerAt s none .unit { addr := ea, mask := want, data := want })

/-- The levels of a walk from a table (R92); `n` levels remain. -/
def walkFrom (s0 : State) (va : Word) (kind : Fin 4) (table : Nat) : Nat → WalkResult
  | 0 => .fault cPAGE_FAULT 6 false
  | n + 1 =>
    let index := va.toNat / 2 ^ (16 + 13 * n) % 2 ^ 13
    let pa := table * 2 ^ 16 + index * 8
    if !populated s0 pa 8 then .dead
    else if sliceBusy s0 (physKey s0 pa) then .busy
    else
      let ea := physKey s0 pa
      let s := touchSlice s0 ea 0 false false
      let e := homeRead s ea
      if !pteV e then .fault cPAGE_FAULT (5 - n) false
      else if !pteR e && !pteW e && !pteX e then walkFrom s va kind (ptePpn e) n
      else if n = 2 then .fault cPAGE_FAULT 6 false
      else
        match leafCheck s e va kind (n == 1) with
        | some f => .fault f.1 f.2 (n == 1)
        | none =>
          let r := setAD s ea e kind
          .ok (leafPa e va (n == 1)) r.1 (n == 1) r.2

/-- A 64-bit address is canonical when bits 63:55 equal bit 54 (R73). -/
def canonical (va : Word) : Bool := va.toNat < 2 ^ 54 || 2 ^ 64 - 2 ^ 54 ≤ va.toNat

/-- WALK of R92. -/
def walk (s : State) (asid : BitVec 16) (va : Word) (kind : Fin 4) : WalkResult :=
  if !canonical va then .fault cPAGE_FAULT 1 false
  else
    let pa := bits s.hub.asidtab 51 20 * 2 ^ 20 + asid.toNat * 16
    if !populated s pa 16 then .dead
    else if sliceBusy s (physKey s pa) then .busy
    else
      let root := homeRead s (physKey s pa)
      if !bit root 0 then .fault cPAGE_FAULT 2 false
      else walkFrom (touchSlice s (physKey s pa) 0 false false) va kind (bits root 51 16) 3

/-! ## TLBs (R94) -/

def vpnOf (va : Word) : Nat := va.toNat / 2 ^ 16 % 2 ^ 39

/-- A TLB entry that serves the access: right page or block, permission, and D for a store or atomic (R93). -/
def tlbServes (asid : BitVec 16) (va : Word) (kind : Fin 4) (e : TlbEntry) : Bool :=
  decide (e.asid = asid) &&
  (if e.block then e.vpn / 2 ^ 13 == vpnOf va / 2 ^ 13 else e.vpn == vpnOf va) &&
  (match kind with
   | 0 => pteR e.pte
   | 1 => pteW e.pte && pteD e.pte
   | 2 => pteR e.pte && pteW e.pte && pteD e.pte
   | _ => pteX e.pte)

def tlbFind (cl : Cluster) (asid : BitVec 16) (va : Word) (kind : Fin 4) : Option TlbEntry :=
  (cl.tlbPages ++ cl.tlbBlocks).find? (tlbServes asid va kind)

/-- Two entries of one kind are for the same page, or for the same block. -/
def tlbSame (e o : TlbEntry) : Bool :=
  decide (o.asid = e.asid) && (if e.block then o.vpn / 2 ^ 13 == e.vpn / 2 ^ 13 else o.vpn == e.vpn)

/-- Fill a TLB (R94): the entry of the same page or block is replaced; beyond the capacity the oldest leaves (log 16). -/
def tlbFill (cl : Cluster) (e : TlbEntry) : Cluster :=
  let keep := fun (l : List TlbEntry) => l.filter fun o => !tlbSame e o
  if e.block then { cl with tlbBlocks := (e :: keep cl.tlbBlocks).take 64 }
  else { cl with tlbPages := (e :: keep cl.tlbPages).take 1024 }

/-! ## Fault records of a context (R95, R188) -/

/-- ACTID for an actor context, GTID for a strand slot. -/
def identWord (c : CtxId) (x : Ctx) : Word :=
  if isStrand c then x.ident.gtid else BitVec.ofNat 64 (actidOf x.ident.root)

/-- MSGID of a message (R103). -/
def msgId (m : Message) : Word := BitVec.ofNat 64 (m.sender.toNat + m.seq.toNat * 2 ^ 40)

def triggerId (x : Ctx) : Word :=
  match x.trigger with
  | some t => msgId t.stored.msg
  | none => 0

/-- A record of a context's cell (R188). `flags` beyond STRAND are the caller's. -/
def ctxRecord (s : State) (c : CtxId) (code : Nat) (pc vaddr cursor : Word) (lane flags : Nat) : FaultRecord :=
  let x := getCtx s c
  { code := BitVec.ofNat 8 code, unit := 0, unitIdx := BitVec.ofNat 16 c.cell, asid := x.ident.asid,
    sections := BitVec.ofNat 16 (min x.sec.committed 65535), ident := identWord c x, msgid := triggerId x, pc := pc,
    vaddr := vaddr, cursor := cursor, lane := BitVec.ofNat 16 lane,
    flags := BitVec.ofNat 8 (flags + if isStrand c then 2 else 0), dtc := s.dtc }

/-- A unit hands a record to the interrupt controllers (R411, R414). -/
def pushRecord (s : State) (r : FaultRecord) : State := modHub s fun h => { h with records := h.records ++ [r] }

/-- A record of an error that no operation or access meets; what no rule gives it is a free value. -/
def strayRecord (s : State) (unit : BitVec 8) (idx asid : Nat) : FaultRecord :=
  { code := BitVec.ofNat 8 cMEM_UNCORRECTABLE, unit := unit, unitIdx := BitVec.ofNat 16 idx,
    asid := BitVec.ofNat 16 asid, sections := 0, ident := Config.freeWord s.freeCtr, msgid := Config.freeWord (s.freeCtr + 1),
    pc := Config.freeWord (s.freeCtr + 2), vaddr := Config.freeWord (s.freeCtr + 3), cursor := Config.freeWord (s.freeCtr + 4),
    lane := BitVec.ofNat 16 (Config.freeWord (s.freeCtr + 5)).toNat, flags := 0, dtc := s.dtc }

/-- The counter moves past six free values. -/
def bump6 (s : State) : State := { s with freeCtr := s.freeCtr + 6 }

/-- A unit that is no context's reaches an address where no memory is: MEM_UNCORRECTABLE, an error with no requester (R411, R425;
log 90). -/
def strayError (s : State) : State :=
  bumpFree (bump6 (pushRecord s (strayRecord s 6 ((Config.freeWord (s.freeCtr + 6)).toNat % 1024) 0)))

/-! ## Trace (R419) -/

/-- Append a trace record for a context of a launch with TRACE, or count it dropped. -/
def traceAppend (s : State) (c : CtxId) (kind cls code : Nat) : State :=
  let x := getCtx s c
  let on := match launchAt s x.ident.lslot.toNat with
    | some l => bit l.packet.flags 3
    | none => false
  let log := bits s.hub.trbase 4 0
  if !on || log < 11 || 24 < log then s
  else
    let pa := bits s.hub.trbase 51 16 * 2 ^ 16 + s.hub.trtail.toNat % 2 ^ log * 32
    if 2 ^ log ≤ (s.hub.trtail - s.hub.trhead).toNat || !populated s pa 32 then
      modHub s fun h => { h with trdrop := h.trdrop + 1 }
    else
      let w0 := kind + cls * 2 ^ 8 + code % 2 ^ 16 * 2 ^ 16 + c.cell * 2 ^ 32 + x.ident.asid.toNat * 2 ^ 48
      let s1 := homeWriteWords s (physKey s pa) [BitVec.ofNat 64 w0, identWord c x, triggerId x, s.dtc]
      modHub s1 fun h => { h with trtail := h.trtail + 1 }

/-- The class of the trigger, or 0 (R419; CLASS of every record of a run, log 21). -/
def triggerClass (x : Ctx) : Nat :=
  match x.trigger with
  | some t => t.stored.msg.cls
  | none => 0

/-- A cell sends a fault record, and traces it (R414, R419). -/
def sendRecord (s : State) (c : CtxId) (r : FaultRecord) : State :=
  pushRecord (traceAppend s c 6 (triggerClass (getCtx s c)) r.code.toNat) r

/-! ## Translation faults (R95, R96) -/

/-- A new outstanding miss on a page, or on a block (R94). -/
def newMiss (asid : BitVec 16) (va : Word) (block : Bool) : Miss :=
  { asid := asid, vpn := if block then vpnOf va / 2 ^ 13 * 2 ^ 13 else vpnOf va, block := block, waiters := [] }

/-- The outstanding-miss entry an access joins: its page's or block's, or the lowest free one of 64 (R94, R96). -/
def missEntry (cl : Cluster) (n : Miss) : Option Nat :=
  match cl.misses.find? (fun p => decide (p.2.asid = n.asid) && p.2.vpn == n.vpn && p.2.block == n.block) with
  | some p => some p.1
  | none => (upFrom 0 64).find? fun i => (tfind cl.misses i).isNone

/-- The stall token of an outstanding-miss entry (R95). -/
def stallToken (cl e : Nat) : Word := BitVec.ofNat 64 (cl % 128 * 64 + e)

/-- A faulted access joins the miss of its page or block, or takes a free entry, and its record goes out with the stall token (R95,
R96). The entry; none when all 64 are in use. -/
def stallAccess (s : State) (w : Waiter) (block : Bool) : Option (Nat × State) :=
  let cl := clusterOf w.ctx.cell
  let n := newMiss (getCtx s w.ctx).ident.asid w.va block
  (missEntry (getCluster s cl) n).map fun e =>
    let m := tget (getCluster s cl).misses n e
    let s1 := modCluster s cl fun k => { k with misses := tput k.misses e { m with waiters := m.waiters ++ [w] } }
    (e, sendRecord s1 w.ctx (ctxRecord s w.ctx w.code.toNat w.pc (faultVa w.va w.kind w.cause) (stallToken cl e) w.lane 4))

/-- A translation fault stalls its access (R95). -/
def stallTranslation {α : Type} (c : CtxId) (va : Word) (kind : Fin 4) (lane code cause : Nat) (block : Bool) : X α := do
  let s ← get
  let pc := if kind = kFetch then va else (getCtx s c).pc
  match stallAccess s { ctx := c, va := va, kind := kind, code := BitVec.ofNat 8 code, cause := cause, lane := lane, pc := pc } block with
  | none => stallWith .other
  | some (e, t) =>
    set t
    stallWith (.xlate (clusterOf c.cell) e)

/-- The page's outstanding miss has already faulted: a further access walks for itself and faults with its own record (R96). -/
def faultStands (cl : Cluster) (n : Miss) : Bool :=
  cl.misses.any fun p => decide (p.2.asid = n.asid) && p.2.vpn == n.vpn && p.2.block == n.block && !p.2.walking

/-- A walk of the page has been asked for and has not ended: a further access joins it (R94). -/
def walkStands (cl : Cluster) (n : Miss) : Bool :=
  cl.misses.any fun p => decide (p.2.asid = n.asid) && p.2.vpn == n.vpn && p.2.block == n.block && p.2.walking

/-- An access waits for a walk of its page: it joins the cluster's outstanding miss, which asks the die's walkers once (R94). -/
def requestWalk {α : Type} (c : CtxId) (va : Word) (kind : Fin 4) (lane : Nat) : X α := do
  let s ← get
  let cl := clusterOf c.cell
  let n := { newMiss (getCtx s c).ident.asid va false with walking := true }
  match missEntry (getCluster s cl) n with
  | none => stallWith .other
  | some e =>
    let fresh := (tfind (getCluster s cl).misses e).isNone
    let m := tget (getCluster s cl).misses n e
    let w : Waiter := { ctx := c, va := va, kind := kind, code := 0, cause := 0, lane := lane,
                        pc := if kind = kFetch then va else (getCtx s c).pc }
    let m1 := if m.waiters.any (fun o => decide (o.ctx = c)) then m else { m with waiters := m.waiters ++ [w] }
    let s1 := modCluster s cl fun k => { k with misses := tput k.misses e m1 }
    set (if fresh then modDie s1 (dieOfCluster cl) fun d => { d with walks := d.walks ++ [(cl, e)] } else s1)
    stallWith .other

/-- Translate an access of a context: TLB hit or walk (R92 to R95). The address, the leaf, and whether it is a block's. -/
def translateX (c : CtxId) (va : Word) (kind : Fin 4) (lane : Nat) : X (Nat × Word × Bool) := do
  let s ← get
  let cl := clusterOf c.cell
  let asid := (getCtx s c).ident.asid
  match (if canonical va then tlbFind (getCluster s cl) asid va kind else none) with
  | some e => pure (leafKey s e.pte (leafPa e.pte va e.block), e.pte, e.block)
  | none =>
    let n := newMiss asid va false
    if canonical va && !faultStands (getCluster s cl) n && (s.lateWalks || walkStands (getCluster s cl) n) then
      requestWalk c va kind lane
    match walk s asid va kind with
    | .ok pa e block s' =>
      set (modCluster s' cl fun k => tlbFill k { asid := asid, vpn := vpnOf va, block := block, pte := e })
      pure (leafKey s' e pa, e, block)
    | .busy => stallWith .other
    | .fault code cause block => stallTranslation c va kind lane code cause block
    | .dead => trapWith { code := cMEM_UNCORRECTABLE, lane := lane }

/-- A translation by a unit that takes a failure as an answer: the fault's code and cause; code 0 where the walk has to wait for
a miss entry (R84). -/
def translateUnit (s : State) (asid : BitVec 16) (va : Word) (kind : Fin 4) : Except (Nat × Nat) (Nat × State) :=
  if isLocal va || isWindow va then .error (cPROT, 8)
  else
    match walk s asid va kind with
    | .ok pa e _ s' => .ok (leafKey s' e pa, s')
    | .fault code cause _ => .error (code, cause)
    | .dead => .error (cMEM_UNCORRECTABLE, 0)
    | .busy => .error (0, 0)

/-! ## The Keystone window (R400 to R404) -/

/-- KBASE of a launch (R400). -/
def kbase (l : Option Launch) : Nat :=
  match l with
  | some l => if bit l.packet.flags 0 && 0 < l.packet.kshare then windowBase else 0
  | none => 0

/-- Where member m's share lies: this module's own member in its group 0's cluster store, another member on its module. -/
def shareAddr (s : State) (l : Launch) (m off : Nat) : Nat :=
  match l.gang with
  | some g =>
    if m = g.member then
      let gr := tget l.groups { cluster := 0, scratchOff := 0, ctxs := [], retired := false } 0
      storeKey (ownModule s) gr.cluster (gr.scratchOff + off)
    else shareKey (g.modules.getD m 0) (g.slots.getD m 0) off
  | none => shareKey 0 0 off

/-- The cause for which the window is gone to a context: 1 DETACHED, 2 CLOSED, 3 COLLAPSED (R403, R404). -/
def windowGone (c : CtxId) (x : Ctx) (l : Launch) : Option Nat :=
  match l.gang with
  | some g =>
    if g.state = 3 then some 3
    else if g.state = 2 then some 2
    else if !isStrand c && x.detached then some 1
    else none
  | none => none

/-- A window access: PROT, BOUNDS, then ALIGN (R400), then the window's state (log 18). -/
def windowLoc (c : CtxId) (va : Word) (align : Nat) (kind : Fin 4) (lane : Nat) : X Loc := do
  let s ← get
  let x := getCtx s c
  let l? := launchAt s x.ident.lslot.toNat
  match l?, kbase l? with
  | some l, k + 1 =>
    let size := l.packet.kshare * 1024
    let m := (va.toNat - (k + 1)) / size
    let off := (va.toNat - (k + 1)) % size
    if l.packet.gangn ≤ m ∨ l.packet.scratch ≤ off then trapWith { code := cBOUNDS, vaddr := va, lane := lane }
    else if va.toNat % align ≠ 0 then trapWith { code := cALIGN, vaddr := va, lane := lane }
    else
      match windowGone c x l with
      | some cause =>
        trapWith { code := cKEYSTONE_GONE, vaddr := BitVec.ofNat 64 (va.toNat % 2 ^ 58 + cause * 2 ^ 58), lane := m }
      | none => pure ⟨shareAddr s l m off, .window, 0, m, none⟩
  | _, _ =>
    trapWith { code := cPROT, vaddr := faultVa va kind (if kind = kRead ∨ kind = kFetch then 8 else 9), lane := lane }

/-! ## The watch filter (R418) -/

/-- The lowest byte of n bytes at pa that a filter entry watches. -/
def watchByte (mask : Word) (pa n : Nat) : Option Nat :=
  ((upFrom (pa % 64) n).filter fun b => b < 64).find? fun b => bit mask b

/-- The lowest entry that the access hits, and the lowest hitting byte offset in the line. -/
def watchHit (d : Die) (pa n : Nat) (load store : Bool) : Option (Nat × Nat) :=
  (upFrom 0 32).findSome? fun e =>
    let w := d.wf.toList.getD e (0, 0)
    if bit w.1 0 && bits w.1 51 6 == pa / 64 && ((load && bit w.1 1) || (store && bit w.1 2)) then
      (watchByte w.2 pa n).map fun b => (e, b)
    else none

def checkWatch (c : CtxId) (va : Word) (lane : Nat) (l : Loc) (n : Nat) (kind : Fin 4) : X Unit := do
  if pteWatch l.pte then
    let s ← get
    match watchHit (getDie s (dieOf c.cell)) (keyPa l.addr) n (kind == kRead || kind == kAtomic) (kind == kWrite || kind == kAtomic) with
    | some h => trapWith { code := cWATCH, vaddr := va, lane := lane, cursor := BitVec.ofNat 64 (h.1 * 256 + h.2) }
    | none => pure ()

/-! ## Where an access of a context lands -/

/-- The place of an access of n bytes that must be a multiple of `align`: alignment (R151), then the LOCAL window's grants
(R74) or the page table (R92), then the watch filter (R418); the Keystone window by its own order (R400). An address in
memory that a mark-out unpopulates raises MEM_UNCORRECTABLE (R425). -/
def locate (c : CtxId) (va : Word) (n align : Nat) (kind : Fin 4) (lane : Nat) : X Loc := do
  if isWindow va then windowLoc c va align kind lane
  else if va.toNat % align ≠ 0 then trapWith { code := cALIGN, vaddr := va, lane := lane }
  else if isLocal va then
    match localLoc (← get) c (va.toNat - localBase) n with
    | some l => pure l
    | none => trapWith { code := cPROT, vaddr := va, lane := lane }
  else
    let (a, e, b) ← translateX c va kind lane
    let l : Loc := ⟨a, .global, e, 0, some (vpnOf va, b)⟩
    if keyModule a = ownModule (← get) && foldedAway (← get).hub.outMem (keyPa a) then
      trapWith { code := cMEM_UNCORRECTABLE, lane := lane }
    checkWatch c va lane l n kind
    pure l

/-- The place of a store or an atomic, found once: an instruction that waits after this goes on with it (R153, R161). -/
def locateOnce (c : CtxId) (va : Word) (n align : Nat) (kind : Fin 4) : X Loc := do
  match (← ctx c).place with
  | some l => pure l
  | none =>
    let l ← locate c va n align kind 0
    updCtx c fun x => { x with place := some l }
    pure l

end Sys2Proof.Machine
end

