-- ==== Sys2Proof/Machine/Queues.lean ====
section
/-! DEFINITION. Messages and notices (R102 to R104), mailboxes (R115 to R120), mooring queues (R384, R385), timing tables and
trace (R419, R420), barriers (R128, R129), network reductions (R410), detaching and the end of an actor (R130, R403). -/

namespace Sys2Proof.Machine

/-! ## Message layout (Table 5.4) -/

/-- The words of a message: four of header, then the payload. -/
def msgWords (m : Message) : List Word :=
  let h0 := m.dest.toNat + (m.mb.val + m.len % 32 * 8) * 2 ^ 40 +
    (m.cls % 64 + if m.full then 64 else 0) * 2 ^ 48 + m.typ.toNat * 2 ^ 56
  [BitVec.ofNat 64 h0, msgId m, BitVec.ofNat 64 (m.stime.toNat + m.pcoff.toNat * 2 ^ 32), m.gtid] ++ m.payload

/-- A message read back from its words. -/
def msgOfWords (ws : List Word) : Message :=
  let w := fun i => ws.getD i 0
  let len := bits (w 0) 47 43
  { dest := BitVec.ofNat 40 (w 0).toNat, mb := Fin.ofNat 8 (bits (w 0) 42 40), len := len, cls := bits (w 0) 53 48,
    full := bit (w 0) 54, typ := BitVec.ofNat 8 (bits (w 0) 63 56), sender := BitVec.ofNat 40 (w 1).toNat,
    seq := BitVec.ofNat 24 (bits (w 1) 63 40), stime := BitVec.ofNat 32 (w 2).toNat,
    pcoff := BitVec.ofNat 32 (bits (w 2) 63 32), gtid := w 3, payload := (ws.drop 4).take len }

/-- SENDER of notices that the device makes (Table 5.4). -/
def deviceSender : BitVec 40 := 0xFFFFFFFFFF

/-- A notice of a class (R102). -/
def mkNotice (s : State) (dest : BitVec 40) (cls : Nat) (payload : List Word) : Message :=
  { dest := dest, mb := 0, len := payload.length, cls := cls, full := false, typ := 0, sender := deviceSender, seq := 0,
    stime := BitVec.ofNat 32 s.dtc.toNat, pcoff := 0, gtid := 0, payload := payload }

/-- An actor's address on this module (R21). -/
def ownAddr (s : State) (lslot aindex : Nat) : BitVec 40 :=
  BitVec.ofNat 40 (ownModule s * 2 ^ 32 + lslot * 2 ^ 24 + aindex)

/-- Send a notice on its way (delivered by NOTICE_ARRIVAL); `cell` counts it if it is lost. -/
def postNotice (s : State) (dest : BitVec 40) (asid : BitVec 16) (cell : Nat) (m : Message) : State :=
  modHub s fun h =>
    { h with notices := h.notices ++ [{ dest := dest, asid := asid, msg := m, cell := cell, held := none, die := none }] }

/-! ## Timing tables (R420) -/

/-- Add to a sender's sums; a new sender takes a free entry or the least recently used one. -/
def timingAdd (x : Cell) (sender : BitVec 40) (n transit qwait run : Nat) : Cell :=
  let gain := fun (t : Timing) =>
    { t with count := t.count + BitVec.ofNat 64 n, transit := t.transit + BitVec.ofNat 64 transit,
             qwait := t.qwait + BitVec.ofNat 64 qwait, run := t.run + BitVec.ofNat 64 run }
  match x.timing.find? (fun t => decide (t.sender = sender)) with
  | some t => { x with timing := gain t :: x.timing.filter fun t => !decide (t.sender = sender) }
  | none =>
    let fresh := gain { Timing.zero with sender := sender }
    if x.timing.length < 32 then { x with timing := fresh :: x.timing }
    else
      let old := x.timing.getLastD Timing.zero
      let o := x.timingOthers
      { x with timing := fresh :: x.timing.take 31,
               timingOthers := { o with count := o.count + old.count, transit := o.transit + old.transit,
                                        qwait := o.qwait + old.qwait, run := o.run + old.run } }

/-- At a run's start (R420): transit and queue wait once per message. -/
def timingStart (s : State) (cell : Nat) (m : StoredMsg) : State :=
  if m.counted then s
  else modCell s cell fun x =>
    timingAdd x m.msg.sender 1 ((m.arrival.toNat + 2 ^ 32 - m.msg.stime.toNat) % 2 ^ 32) (s.dtc - m.arrival).toNat 0

/-- At a run's end: its length. -/
def timingEnd (s : State) (c : CtxId) : State :=
  let x := getCtx s c
  match x.trigger with
  | some t => modCell s c.cell fun k => timingAdd k t.stored.msg.sender 0 0 0 (s.dtc - x.runStart).toNat
  | none => s

/-! ## Memory of units under an ASID -/

/-- Write words at a virtual address, each word translated (ring traffic of R117 and R124). -/
def unitWriteWords (s : State) (die : Nat) (asid : BitVec 16) (va : Word) : List Word → Option State
  | [] => some s
  | v :: r =>
    match translateUnit s asid va kWrite with
    | .ok (a, s1) =>
      unitWriteWords (unitStore s1 die .unit { addr := wordKey a, mask := BitVec.allOnes 64, data := v }) die asid (va + 8) r
    | .error _ => none

/-- Read words at a virtual address for a cell of a die; a failed translation gives the code and cause. -/
def unitReadWords (s : State) (die : Nat) (asid : BitVec 16) (va : Word) : Nat → Except (Nat × Nat) (List Word × State)
  | 0 => .ok ([], s)
  | n + 1 =>
    match translateUnit s asid va kRead with
    | .ok (a, s1) =>
      match unitReadWords (touchHome s1 die (wordKey a) 0 false) die asid (va + 8) n with
      | .ok (r, s2) => .ok (unitRead s1 die (wordKey a) :: r, s2)
      | .error e => .error e
    | .error e => .error e

/-! ## Mooring queues (R384, R385) -/

/-- Entries of a 64 KiB block, and where an entry lies in it. -/
def blockEntries : Nat := 408
def entryPlace (pos : Nat) : Nat := 64 + 160 * (pos % blockEntries)

/-- A block's physical address. -/
def blockPa (s : State) (b : Nat) : Nat := bits s.hub.evpool 51 16 * 2 ^ 16 + b * 2 ^ 16

def poolFits (s : State) (blocks : Nat) : Bool :=
  s.hub.evpoolUse.toNat + blocks ≤ s.hub.evpoolSz.toNat % 2 ^ 32

/-- The blocks in use become these; EVPOOLUSE counts them. -/
def setPool (s : State) (used : List Nat) : State :=
  modHub s fun h => { h with poolUsed := used, evpoolUse := BitVec.ofNat 64 used.length }

/-- The lowest n blocks that are not in use (log 34); none when the pool has not as many. -/
def poolTake (s : State) (n : Nat) : Option (List Nat × State) :=
  if !poolFits s n then none
  else
    let free := ((upFrom 0 (s.hub.poolUsed.length + n)).filter fun b => !s.hub.poolUsed.contains b).take n
    some (free, setPool s (s.hub.poolUsed ++ free))

/-- Blocks return to the pool. -/
def poolGive (s : State) (bs : List Nat) : State := setPool s (s.hub.poolUsed.filter fun b => !bs.contains b)

/-- Words written to the pool, where it lies in memory. -/
def poolWrite (s : State) (pa : Nat) (ws : List Word) : State :=
  if populated s pa (8 * ws.length) then homeWriteWords s (physKey s pa) ws else s

/-- An entry is appended to a chain at a position counted from its first block: a full last block is followed by a new one, whose
header holds 0 and whose address the old one's header takes (R385). None when the pool has no block. -/
def chainAppend (s : State) (chain : List Nat) (pos : Nat) (ws : List Word) : Option (List Nat × State) :=
  let put := fun (s : State) (b : Nat) => poolWrite s (blockPa s b + entryPlace pos) ws
  match chain[pos / blockEntries]? with
  | some b => some (chain, put s b)
  | none =>
    match poolTake s 1 with
    | some ([b], s1) =>
      let s2 := poolWrite s1 (blockPa s b) [0]
      let s3 := match chain.getLast? with
        | some p => poolWrite s2 (blockPa s p) [BitVec.ofNat 64 (blockPa s b)]
        | none => s2
      some (chain ++ [b], put s3 b)
    | _ => none

/-- What remains of a chain once its oldest entries are taken: blocks without an entry left return to the pool. The chain, the
entries taken from its first block, and the state. -/
def chainDrop (s : State) (chain : List Nat) (taken n left : Nat) : List Nat × Nat × State :=
  if left = 0 then ([], 0, poolGive s chain)
  else
    let gone := (taken + n) / blockEntries
    (chain.drop gone, (taken + n) % blockEntries, if gone = 0 then s else poolGive s (chain.take gone))

/-- An entry's words: a message in the layout of Table 5.4. No layout is given for what an engine moors. -/
def mooredWords : Moored → List Word
  | .msg m => msgWords m
  | _ => []

/-- Append an arrival to an actor's mooring queue; none when the pool cannot take it. -/
def moor (s : State) (lslot aindex : Nat) (e : Moored) : Option State :=
  match launchAt s lslot with
  | none => none
  | some l =>
    let a := actorOf l aindex
    match chainAppend s a.chain (a.taken + a.mooring.length) (mooredWords e) with
    | none => none
    | some (chain, s1) => some (modActor s1 lslot aindex fun a => { a with mooring := a.mooring ++ [e], chain := chain })

/-- Take the n oldest moored entries. -/
def unmoorMany (s : State) (lslot aindex n : Nat) : State :=
  match launchAt s lslot with
  | none => s
  | some l =>
    let a := actorOf l aindex
    let rest := a.mooring.drop n
    let r := chainDrop s a.chain a.taken n rest.length
    modActor r.2.2 lslot aindex fun a => { a with mooring := rest, taken := r.2.1, chain := r.1 }

/-- Take the oldest moored entry. -/
def unmoor (s : State) (lslot aindex : Nat) : State := unmoorMany s lslot aindex 1

/-! ## Mailboxes (R117) and notice queues (R102, R385) -/

/-- An IDLE actor with mail becomes READY (Table 5.1). -/
def setReady (s : State) (c : CtxId) : State :=
  modCtx s c fun x => if x.state = .idle then { x with state := .ready } else x

def modMailbox (s : State) (c : CtxId) (n : Fin 8) (f : Mailbox → Mailbox) : State :=
  modCtx s c fun x => { x with mailboxes := x.mailboxes.set n.val (f x.mailboxes[n]) n.isLt }

/-- FIFO slots in use, the running trigger's among them until its first commit (R180). -/
def fifoCount (x : Ctx) (n : Fin 8) : Nat :=
  let held : Bool := match x.trigger with
    | some t => t.held && decide (t.source = .mailbox n)
    | none => false
  x.mailboxes[n].fifo.length + (if held then 1 else 0)

def ovfCap (b : Mailbox) : Nat := if b.ovflog = 0 then 0 else 2 ^ b.ovflog

/-- ARRIVE of R117; none when the message is refused. A ring entry that cannot be written, its page not mapped, refuses the message
too: the sender holds it (DESIGN CHOICE, log 101). -/
def arriveMailbox (s : State) (c : CtxId) (n : Fin 8) (m : Message) : Option State :=
  let x := getCtx s c
  let b := x.mailboxes[n]
  if b.ovf.isEmpty && fifoCount x n < b.cap then
    some (setReady (modMailbox s c n fun b => { b with fifo := b.fifo ++ [{ msg := m, arrival := s.dtc, counted := false }] }) c)
  else if b.ovf.length < ovfCap b then
    let i := (b.ovfHead + b.ovf.length) % ovfCap b
    match unitWriteWords s (dieOf c.cell) x.ident.asid (b.ovfbase + BitVec.ofNat 64 (160 * i)) (msgWords m) with
    | some s1 => some (setReady (modMailbox s1 c n fun b => { b with ovf := b.ovf ++ [(s.dtc, false)] }) c)
    | none => none
  else none

/-- REFILL of R117, one step per overflow entry; an entry that cannot be read stays. -/
def refillFrom (s : State) (c : CtxId) (n : Fin 8) : Nat → State
  | 0 => s
  | k + 1 =>
    let x := getCtx s c
    let b := x.mailboxes[n]
    match b.ovf with
    | [] => s
    | (arr, cnt) :: rest =>
      if fifoCount x n < b.cap then
        match unitReadWords s (dieOf c.cell) x.ident.asid (b.ovfbase + BitVec.ofNat 64 (160 * b.ovfHead)) 20 with
        | .ok (ws, s1) =>
          let m : StoredMsg := { msg := msgOfWords ws, arrival := arr, counted := cnt }
          refillFrom (modMailbox s1 c n fun b =>
            { b with fifo := b.fifo ++ [m], ovf := rest, ovfHead := (b.ovfHead + 1) % max 1 (ovfCap b) }) c n k
        | .error _ => s
      else s

def refill (s : State) (c : CtxId) (n : Fin 8) : State := refillFrom s c n (getCtx s c).mailboxes[n].ovf.length

/-- Notice-queue entries in use, the running trigger's among them until its first commit (R180). -/
def noticeCount (x : Ctx) : Nat :=
  let held : Bool := match x.trigger with
    | some t => t.held && decide (t.source = .notice)
    | none => false
  x.notices.length + (if held then 1 else 0)

def isMsg : Moored → Bool
  | .msg _ => true
  | _ => false

/-- The mooring queue of a resident actor holds a notice (R385). -/
def hasMoored (s : State) (x : Ctx) : Bool :=
  match launchAt s x.ident.lslot.toNat with
  | some l => !(actorOf l (aindexOf (actidOf x.ident.root))).mooring.isEmpty
  | none => false

/-- The mooring queue of a resident actor still holds a message of its replay (R386). -/
def hasMooredMsg (s : State) (x : Ctx) : Bool :=
  match launchAt s x.ident.lslot.toNat with
  | some l => (actorOf l (aindexOf (actidOf x.ident.root))).mooring.any fun e =>
      match e with
      | .msg m => !(m.cls < 8 || m.cls == 63)
      | _ => false
  | none => false

/-- A moored message is a notice: the classes that arrive in the notice queue (Table 5.3). -/
def isNoticeClass (m : Message) : Bool := m.cls < 8 || m.cls == 63

/-- The oldest moored entries move on, in their order: notices into free notice-queue entries, messages that a replay left
into their mailboxes (R385, R386). -/
def unmoorNotices (s : State) (c : CtxId) : Nat → State
  | 0 => s
  | k + 1 =>
    let x := getCtx s c
    let ai := aindexOf (actidOf x.ident.root)
    match launchAt s x.ident.lslot.toNat with
    | none => s
    | some l =>
      match (actorOf l ai).mooring with
      | .msg m :: _ =>
        if !isNoticeClass m then
          match arriveMailbox s c m.mb m with
          | some s1 => unmoorNotices (unmoor s1 x.ident.lslot.toNat ai) c k
          | none => s
        else if noticeCount x < 8 then
          let s1 := unmoor s x.ident.lslot.toNat ai
          let s2 := modCtx s1 c fun x => { x with notices := x.notices ++ [{ msg := m, arrival := s.dtc, counted := false }] }
          unmoorNotices (setReady s2 c) c k
        else s
      | _ => s

/-- A slot of the trigger's source frees (R180): refill or unmoor. -/
def sourceFreed (s : State) (c : CtxId) : TrigSource → State
  | .notice => unmoorNotices s c 8
  | .mailbox n =>
    let s1 := refill s c n
    if hasMooredMsg s1 (getCtx s1 c) then unmoorNotices s1 c 8 else s1
  | .strand => s

/-- A notice that cannot reach its actor is counted by the cell that holds it: a REJECT in REJECTED, another in DISCARDED. -/
def countLost (s : State) (cell : Nat) (m : Message) : State :=
  if m.cls = 6 then modCell s cell fun x => { x with rejected := x.rejected + 1 }
  else modCell s cell fun x => { x with discarded := x.discarded + 1 }

/-- A reduction's result reaches its actor's cluster store (R410). -/
def putResult (s : State) (c : CtxId) : Option (Nat × BitVec 2048) → State
  | some (dst, data) => { s with mem := writeLE s.mem (storeKey (ownModule s) (clusterOf c.cell) dst) 256 data.toNat }
  | none => s

/-- What moors of a notice: it alone, or with a reduction's result. -/
def mooredOf (n : NoticeMsg) : Moored :=
  match n.result with
  | some (dst, data) => .result dst data n.msg
  | none => .msg n.msg

/-- A message or notice leaves for a peer module, as a packet (R22, R391). -/
def leaveFor (s : State) (m : Nat) (k : OutKind) : State := inject (modHub s fun h => { h with toPeers := h.toPeers ++ [k] }) m 5

/-- A notice reaches its actor, moors, is lost and counted, leaves for a peer, or must be held (none) (R102, R116, R384, R385). -/
def deliverNotice (s : State) (n : NoticeMsg) : Option State :=
  if moduleOfAddr n.dest ≠ ownModule s then
    if moduleReachable s (moduleOfAddr n.dest) then some (leaveFor s (moduleOfAddr n.dest) (.actor n.msg)) else none
  else
    let ls := lslotOf (actidOf n.dest)
    let ai := aindexOf (actidOf n.dest)
    match launchAt s ls with
    | none => some (countLost s n.cell n.msg)
    | some l =>
      let a := actorOf l ai
      if l.packet.asid ≠ n.asid then some (countLost s n.cell n.msg)
      else
        match a.place with
        | .ended => some (countLost s (a.home.getD n.cell) n.msg)
        | .unplaced => moor s ls ai (mooredOf n)
        | .evicted => moor s ls ai (mooredOf n)
        | .at c =>
          let x := getCtx s c
          if hasMoored s x || 8 ≤ noticeCount x then (moor s ls ai (.msg n.msg)).map fun t => putResult t c n.result
          else
            some (setReady (modCtx (putResult s c n.result) c fun x =>
              { x with notices := x.notices ++ [{ msg := n.msg, arrival := s.dtc, counted := false }] }) c)

/-- A message is rejected (R26, R116): the cell that counts it, if one of this module does, and a REJECT notice with MSGID and reason. -/
def rejectMessage (s : State) (cell : Option Nat) (asid : BitVec 16) (m : Message) (reason : Nat) : State :=
  let s1 := match cell with | some n => modCell s n fun x => { x with rejected := x.rejected + 1 } | none => s
  postNotice s1 m.sender asid (cell.getD 0) (mkNotice s m.sender 6 [msgId m, BitVec.ofNat 64 reason])

/-! ## Barriers (R128, R129, Table 5.10) -/

def Barrier.fresh : Barrier := { gen := 0, value := 0, op := none, mixed := false, arrived := [], later := [] }

/-- Combine two values: OR, AND, ADD, MIN, MAX. -/
def barrierCombine (op : Nat) (a b : Word) : Word :=
  match op with
  | 0 => a ||| b
  | 1 => a &&& b
  | 2 => a + b
  | 3 => if a.slt b then a else b
  | _ => if a.slt b then b else a

/-- One arrival: a second arrival of the same actor counts toward the next generation. -/
def barrierArrive (b : Barrier) (who op : Nat) (v : Word) : Barrier :=
  if b.arrived.contains who then { b with later := b.later ++ [(who, op, v)] }
  else
    match b.op with
    | none => { b with arrived := who :: b.arrived, op := some op, value := v }
    | some o =>
      if o = op then { b with arrived := who :: b.arrived, value := barrierCombine op b.value v }
      else { b with arrived := who :: b.arrived, mixed := true }

/-- The next generation, with the arrivals that already count toward it. -/
def barrierNext (b : Barrier) : Barrier :=
  b.later.foldl (fun n a => barrierArrive n a.1 a.2.1 a.2.2) { Barrier.fresh with gen := b.gen + 1 }

/-- Payload of the release notice (R129). -/
def barrierPayload (b : Barrier) (n : Nat) (launchScope : Bool) : List Word :=
  [BitVec.ofNat 64 (n + (if launchScope then 256 else 0) + (if b.mixed then 512 else 0)), b.gen,
   if b.mixed then 0 else b.value]

/-- The actor with this index has ended. -/
def actorEnded (l : Launch) (aindex : Nat) : Bool := decide ((actorOf l aindex).place = .ended)

/-- Actors of one member module (R20). -/
def memberActors (l : Launch) : Nat := l.packet.groups * l.packet.actors
def ownMember (l : Launch) : Nat := match l.gang with | some g => g.member | none => 0
/-- The rank of an actor over the gang (R409). -/
def rankOf (l : Launch) (aindex : Nat) : Nat := ownMember l * memberActors l + aindex

/-- A rank counts as ended: an ended own actor, a reported peer's, or one of a departed member (R129, R404). -/
def rankEnded (l : Launch) (r : Nat) : Bool :=
  match l.gang with
  | none => actorEnded l r
  | some g =>
    let m := r / max 1 (memberActors l)
    g.departed.contains m || (if m = g.member then actorEnded l (r % max 1 (memberActors l)) else g.endedRanks.contains r)

def launchRanks (l : Launch) : List Nat :=
  upFrom 0 (memberActors l * match l.gang with | some g => g.modules.length | none => 1)

/-- A class-2 notice to every member among the actors of this module; one that has ended loses it, which its cell counts (R116,
R129). -/
def notifyActors (s : State) (lslot : Nat) (l : Launch) (who : List Nat) (payload : List Word) : State :=
  who.foldl (fun s a =>
    postNotice s (ownAddr s lslot a) l.packet.asid 0 (mkNotice s (ownAddr s lslot a) 2 payload)) s

/-- Release a launch-scope barrier as long as its generation is complete; `fuel` bounds the generations released at once. -/
def launchBarrierCheck (s : State) (lslot n : Nat) : Nat → State
  | 0 => s
  | k + 1 =>
    match launchAt s lslot with
    | none => s
    | some l =>
      let b := tget l.barriers Barrier.fresh n
      if !b.arrived.isEmpty && (launchRanks l).all (fun r => b.arrived.contains r || rankEnded l r) then
        let s1 := notifyActors s lslot l (upFrom 0 (memberActors l)) (barrierPayload b n true)
        launchBarrierCheck (modLaunch s1 lslot fun l => { l with barriers := tput l.barriers n (barrierNext b) }) lslot n k
      else s

def groupBarrierKey (lslot group n : Nat) : Nat := lslot * 2 ^ 28 + group * 16 + n

def groupMembers (l : Launch) (g : Nat) : List Nat := upFrom (g * l.packet.actors) l.packet.actors

def groupBarrierCheck (s : State) (cluster lslot group n : Nat) : Nat → State
  | 0 => s
  | k + 1 =>
    match launchAt s lslot with
    | none => s
    | some l =>
      let key := groupBarrierKey lslot group n
      let b := tget (getCluster s cluster).barriers Barrier.fresh key
      let ms := groupMembers l group
      if !b.arrived.isEmpty && ms.all (fun a => b.arrived.contains a || actorEnded l a) then
        let s1 := notifyActors s lslot l ms (barrierPayload b n false)
        groupBarrierCheck (modCluster s1 cluster fun c => { c with barriers := tput c.barriers key (barrierNext b) })
          cluster lslot group n k
      else s

/-! ## Network reductions (R409, R410) -/

/-- Lanes of a contribution as FP32 or INT32 codes: BF16 widened exactly. -/
def nredLanes (typ : Nat) (d : BitVec 2048) : List Nat :=
  if typ = 1 then (upFrom 0 128).map fun i => elemAt d 16 i * 65536 else (upFrom 0 64).map fun i => elemAt d 32 i

/-- One combination of two lane values. -/
def nredCombine (op typ a b : Nat) : Nat :=
  if typ = 2 then
    let x : BitVec 32 := BitVec.ofNat 32 a
    let y : BitVec 32 := BitVec.ofNat 32 b
    match op with
    | 0 => (x + y).toNat
    | 1 => (if x.slt y then x else y).toNat
    | _ => (if x.slt y then y else x).toNat
  else
    match op with
    | 0 => (fvAdd fp32 RNE (fpDecode fp32 a) (fpDecode fp32 b)).1
    | 1 => (fpMinMax fp32 false a b).1
    | _ => (fpMinMax fp32 true a b).1

def nredIdentity (op typ : Nat) : Nat :=
  match op, typ with
  | 0, 2 => 0
  | 0, _ => 0x80000000
  | 1, 2 => 0x7FFFFFFF
  | 1, _ => 0x7F800000
  | _, 2 => 0x80000000
  | _, _ => 0xFF800000

def zipLanes (op typ : Nat) (a b : List Nat) : List Nat := (a.zip b).map fun p => nredCombine op typ p.1 p.2

/-- One level of the deterministic tree: pairs (2i, 2i+1); a last odd node passes through (R410). -/
def pairLevel (f : List Nat → List Nat → List Nat) : List (List Nat) → List (List Nat)
  | a :: b :: r => f a b :: pairLevel f r
  | l => l

def treeFold (f : List Nat → List Nat → List Nat) : Nat → List (List Nat) → List (List Nat)
  | 0, l => l
  | n + 1, l => if l.length ≤ 1 then l else treeFold f n (pairLevel f l)

/-- The order a move gives for .nd sums: each (i, j) combines entry j into entry i. -/
def planFold (f : List Nat → List Nat → List Nat) : List (Nat × Nat) → List (List Nat) → List (List Nat)
  | [], l => l
  | (i, j) :: r, l =>
    match l[i]?, l[j]? with
    | some a, some b => if i = j then planFold f r l else planFold f r (dropAt (setAt l i (f a b)) j)
    | _, _ => planFold f r l

/-- Contributions in rank order. -/
def insertRank (c : Contribution) : List Contribution → List Contribution
  | [] => [c]
  | d :: r => if c.rank ≤ d.rank then c :: d :: r else d :: insertRank c r

/-- The 256 result bytes of a complete generation, and MIXED (R410). -/
def nredResult (cs : List Contribution) (plan : List (Nat × Nat)) : BitVec 2048 × Bool :=
  match cs with
  | [] => (0, false)
  | c :: _ =>
    if cs.any (fun d => d.op != c.op || d.typ != c.typ || d.nd != c.nd) then (0, true)
    else
      let sorted := cs.foldr insertRank []
      let leaves := sorted.map fun d => nredLanes c.typ.val d.data
      let f := zipLanes c.op.val c.typ.val
      let leaves := if c.nd then planFold f plan leaves else leaves
      let root := (treeFold f leaves.length leaves).headD []
      if c.typ = 1 then
        (packElems 2048 16 (root.map fun v => (fvRound bf16 RNE false (fpDecode fp32 v)).1), false)
      else
        (packElems 2048 32 (root.map fun v =>
          if c.typ = 0 && isNaN (fpDecode fp32 v) then canonNaN fp32 else v), false)

/-- The result when no participant is left to contribute (R410): the identity in every lane. -/
def nredIdentityData (op typ : Nat) : BitVec 2048 :=
  if typ = 1 then packElems 2048 16 (List.replicate 128 (nredIdentity op typ / 65536))
  else packElems 2048 32 (List.replicate 64 (nredIdentity op typ))

/-- A contribution joins its reduction's current or next generation. -/
def nredAdd (r : Reduction) (c : Contribution) : Reduction :=
  if r.contributions.any (fun d => d.rank == c.rank) then { r with later := r.later ++ [c] }
  else { r with contributions := r.contributions ++ [c] }

def nredNext (r : Reduction) : Reduction :=
  r.later.foldl nredAdd { gen := r.gen + 1, contributions := [], later := [] }

/-- Deliver a participant's result (R410): written at its destination offset, then a class-2 notice; moored while evicted, or held
with its notice while the pool has no block (R385). -/
def nredDeliver (s : State) (lslot : Nat) (l : Launch) (c : Contribution) (data : BitVec 2048) (m : Message) : State :=
  let ai := c.rank % max 1 (memberActors l)
  match (actorOf l ai).place with
  | .at x =>
    let s1 := { s with mem := writeLE s.mem (storeKey (ownModule s) (clusterOf x.cell) c.dstOff) 256 data.toNat }
    postNotice s1 (ownAddr s lslot ai) l.packet.asid 0 m
  | .evicted =>
    match moor s lslot ai (.result c.dstOff data m) with
    | some s1 => s1
    | none =>
      modHub s fun h =>
        { h with notices := h.notices ++ [{ dest := ownAddr s lslot ai, asid := l.packet.asid, msg := m, cell := 0,
                                            held := some (128, 128), die := none, result := some (c.dstOff, data) }] }
  | _ => s

/-- Release a reduction's generation when every participant has contributed or ended (R410). -/
def nredCheck (s : State) (lslot n : Nat) (plan : List (Nat × Nat)) : Nat → State
  | 0 => s
  | k + 1 =>
    match launchAt s lslot with
    | none => s
    | some l =>
      let r := tget l.reductions { gen := 0, contributions := [], later := [] } n
      if !r.contributions.isEmpty &&
          (launchRanks l).all (fun q => r.contributions.any (fun c => c.rank == q) || rankEnded l q) then
        let present := r.contributions.filter fun c => !rankEnded l c.rank
        let res := if present.isEmpty then
            (match r.contributions with | c :: _ => nredIdentityData c.op.val c.typ.val | [] => 0, false)
          else nredResult present plan
        let payload : List Word := [BitVec.ofNat 64 (n + 256 + (if res.2 then 512 else 0) + 1024), r.gen, 0]
        let mine := present.filter fun c => c.rank / max 1 (memberActors l) == ownMember l
        let s1 := mine.foldl (fun s c =>
          nredDeliver s lslot l c res.1 (mkNotice s (ownAddr s lslot (c.rank % max 1 (memberActors l))) 2 payload)) s
        nredCheck (modLaunch s1 lslot fun l => { l with reductions := tput l.reductions n (nredNext r) }) lslot n [] k
      else s

/-- Generations that one event may release: the current one and those that later arrivals already count toward. -/
def releaseLaunchBarrier (s : State) (lslot n : Nat) : State :=
  match launchAt s lslot with
  | some l => launchBarrierCheck s lslot n ((tget l.barriers Barrier.fresh n).later.length + 2)
  | none => s

def releaseGroupBarrier (s : State) (cluster lslot group n : Nat) : State :=
  let b := tget (getCluster s cluster).barriers Barrier.fresh (groupBarrierKey lslot group n)
  groupBarrierCheck s cluster lslot group n (b.later.length + 2)

def releaseReduction (s : State) (lslot n : Nat) (plan : List (Nat × Nat)) : State :=
  match launchAt s lslot with
  | some l => nredCheck s lslot n plan ((tget l.reductions { gen := 0, contributions := [], later := [] } n).later.length + 2)
  | none => s

/-! ## Detaching and ending (R130, R403) -/

/-- What the control channel carries to the other members of a gang of an actor's launch-scope arrival, or (no operation) of its end
(R185, Table 21.1). -/
def tellBarrier (s : State) (l : Launch) (rank n : Nat) (op : Option Nat) (v : Word) : State :=
  match l.gang with
  | none => s
  | some g =>
    ((upFrom 0 g.modules.length).filter fun m => m != g.member && !g.departed.contains m).foldl (fun s m =>
      sendCtl s (g.modules.getD m 0) (.barrier { lslot := g.slots.getD m 0, rank := rank, n := n, op := op, value := v })) s

/-- Whether every member has detached, given the bits (R403). -/
def allDetached (g : Gang) : Bool := (upFrom 0 g.modules.length).all fun i => bit g.detached i

/-- One more of a member's own actors has detached; the last one detaches the member, and the window closes with the last member. -/
def countDetached (l : Launch) : Launch :=
  match l.gang with
  | none => l
  | some g =>
    let n := g.ownDetached + 1
    let d := if memberActors l ≤ n then g.detached ||| BitVec.ofNat 256 (2 ^ g.member) else g.detached
    let g1 := { g with ownDetached := n, detached := d }
    { l with gang := some (if allDetached g1 && g1.state = 1 then { g1 with state := 2 } else g1) }

/-- The other members learn that this one has detached (R24, R403). -/
def tellDetached (s : State) (l : Launch) : State :=
  match l.gang with
  | none => s
  | some g =>
    if memberActors l = g.ownDetached + 1 then
      tellModules s (((upFrom 0 g.modules.length).filter fun m => m != g.member && !g.departed.contains m).map fun m => g.modules.getD m 0)
        (.detached l.packet.gangid g.member)
    else s

/-- An actor detaches from the Keystone window, once (R403, R406). -/
def detachActor (s : State) (c : CtxId) : State :=
  let x := getCtx s c
  if x.detached then s
  else
    let ls := x.ident.lslot.toNat
    let s1 := modLaunch (modCtx s c fun x => { x with detached := true }) ls countDetached
    match launchAt s ls with
    | some l => tellDetached s1 l
    | none => s1

/-- After an actor ended: its barriers and reductions may release (R129, R410). -/
def endChecks (s : State) (cluster lslot group : Nat) : State :=
  let s1 := (upFrom 0 16).foldl (fun s n => releaseGroupBarrier s cluster lslot group n) s
  let s2 := (upFrom 0 16).foldl (fun s n => releaseLaunchBarrier s lslot n) s1
  (upFrom 0 16).foldl (fun s n => releaseReduction s lslot n []) s2

/-- The messages, not notices, of a mooring queue. -/
def mooredMail (q : List Moored) : List Message :=
  q.filterMap fun e => match e with
    | .msg m => if isNoticeClass m then none else some m
    | _ => none

/-- The notices of a mooring queue. -/
def mooredNotices (q : List Moored) : List Message :=
  q.filterMap fun e => match e with
    | .msg m => if isNoticeClass m then some m else none
    | _ => none

/-- The messages of a mailbox, its overflow ring's behind its FIFO's; none for a ring entry that cannot be read. -/
def mailboxMail (s : State) (die : Nat) (asid : BitVec 16) (b : Mailbox) : List (Option Message) :=
  let ring := (upFrom 0 b.ovf.length).map fun i =>
    match unitReadWords s die asid (b.ovfbase + BitVec.ofNat 64 (160 * ((b.ovfHead + i) % max 1 (ovfCap b)))) 20 with
    | .ok (ws, _) => some (msgOfWords ws)
    | .error _ => none
  b.fifo.map (fun m => some m.msg) ++ ring

/-- A waiting message is rejected; one that cannot be read is counted alone (DESIGN CHOICE, log 101). -/
def rejectWaiting (s : State) (cell : Nat) (asid : BitVec 16) : Option Message → State
  | some m => rejectMessage s (some cell) asid m 5
  | none => modCell s cell fun x => { x with rejected := x.rejected + 1 }

/-- Everything waiting for an ended actor: messages rejected with reason 5, notices discarded and counted (R130), a REJECT notice
in REJECTED as Table 22.13 has it (DEDUCED, log 101). -/
def clearMail (s : State) (c : CtxId) : State :=
  let x := getCtx s c
  let msgs := x.mailboxes.toList.flatMap (mailboxMail s (dieOf c.cell) x.ident.asid)
  let s1 := msgs.foldl (fun s m => rejectWaiting s c.cell x.ident.asid m) s
  let ai := aindexOf (actidOf x.ident.root)
  let queue := match launchAt s x.ident.lslot.toNat with
    | some l => (actorOf l ai).mooring
    | none => []
  let s0 := (mooredMail queue).foldl (fun s m => rejectMessage s (some c.cell) x.ident.asid m 5) s1
  let s2 := (x.notices.map (·.msg) ++ mooredNotices queue).foldl (fun s m => countLost s c.cell m) s0
  let s3 := unmoorMany s2 x.ident.lslot.toNat ai queue.length
  modCtx s3 c fun x =>
    { x with notices := [], mailboxes := vmap x.mailboxes fun b => { b with fifo := [], ovf := [], ovfHead := 0, pass := 0 } }

/-- An actor ends (R130, R406): ENDED, mail cleared, detached, counted as arrived. -/
def endActor (s : State) (c : CtxId) : State :=
  let x := getCtx s c
  let ls := x.ident.lslot.toNat
  let ai := aindexOf (actidOf x.ident.root)
  let s1 := modCtx s c fun x => { x with state := .ended, trigger := none, resumeFrom := none }
  let s2 := detachActor (clearMail s1 c) c
  let s3 := modActor s2 ls ai fun a => { a with place := .ended }
  match launchAt s ls with
  | some l => endChecks (tellBarrier s3 l (rankOf l ai) 0 none 0) (clusterOf c.cell) ls (ai / max 1 l.packet.actors)
  | none => s3

end Sys2Proof.Machine
end

