-- ==== Sys2Proof/Machine/Mortar.lean ====
section
/-! DEFINITION. Partitioned objects (R349 to R356, R365): descriptor fields, part storage, ghost sources, the release of a
step, the placement of strips, and the owners of grid elements. -/

namespace Sys2Proof.Machine

/-! ## Descriptor fields (Table 19.1) -/

/-- n bytes at a byte offset of a record held as a bit vector. -/
def recField {w : Nat} (d : BitVec w) (off n : Nat) : Nat := bits d (8 * (off + n) - 1) (8 * off)

def gRank (d : BitVec 1024) : Nat := recField d 0 1
def gType (d : BitVec 1024) : Nat := recField d 1 1
def gRho (d : BitVec 1024) : Nat := recField d 2 1
def gTheta (d : BitVec 1024) : Nat := recField d 3 1
def gNotify (d : BitVec 1024) : Bool := bit d 32
def gDim (d : BitVec 1024) (j : Nat) : Nat := recField d (8 + 4 * j) 4
def gParts (d : BitVec 1024) (j : Nat) : Nat := recField d (24 + 2 * j) 2
def gOwnBase (d : BitVec 1024) : Nat := recField d 32 4
def gOwnStride (d : BitVec 1024) : Nat := recField d 36 4
def gRule (d : BitVec 1024) (f : Nat) : Nat := recField d (40 + f) 1
def gConst (d : BitVec 1024) (f : Nat) : Nat := recField d (48 + 8 * f) 8
def gStepBase (d : BitVec 1024) : Nat := recField d 112 8
def gLocalOff (d : BitVec 1024) : Nat := recField d 120 4
def gPpm (d : BitVec 1024) : Nat := recField d 124 2
/-- Halo width h (R349). -/
def gHalo (d : BitVec 1024) : Nat := gRho d * gTheta d

/-- Bytes of an element of the six grid types. -/
def gElemSize (d : BitVec 1024) : Nat :=
  match gType d with
  | 1 => 8
  | 9 => 8
  | 2 => 2
  | 3 => 2
  | _ => 4

def dims4 : List Nat := [0, 1, 2, 3]

/-- Product of the parts. -/
def gPartCount (d : BitVec 1024) : Nat := (dims4.map (gParts d)).foldl (· * ·) 1

/-- Part coordinate j of part p, dimension 0 fastest (R349). -/
def partCoord (d : BitVec 1024) (p j : Nat) : Nat :=
  p / ((upFrom 0 j).map (gParts d)).foldl (· * ·) 1 % max 1 (gParts d j)

/-- Origin and size of part p along j (R229). -/
def partStart (d : BitVec 1024) (p j : Nat) : Nat :=
  let jj := partCoord d p j
  jj * (gDim d j / max 1 (gParts d j)) + min jj (gDim d j % max 1 (gParts d j))
def partSize (d : BitVec 1024) (p j : Nat) : Nat :=
  gDim d j / max 1 (gParts d j) + if partCoord d p j < gDim d j % max 1 (gParts d j) then 1 else 0

/-- The part that holds global coordinate x along j. -/
def partOfCoord (d : BitVec 1024) (j x : Nat) : Nat :=
  let q := gDim d j / max 1 (gParts d j)
  let m := gDim d j % max 1 (gParts d j)
  if x < (q + 1) * m then x / (q + 1) else m + (x - (q + 1) * m) / max 1 q

/-- Linear number of the part that holds a cell. -/
def partOf (d : BitVec 1024) (g : List Nat) : Nat :=
  dims4.reverse.foldl (fun acc j => partOfCoord d j (g.getD j 0) + gParts d j * acc) 0

/-! ## Storage of a part (R351) -/

def align64 (n : Nat) : Nat := (n + 63) / 64 * 64

def interiorBytes (d : BitVec 1024) (p : Nat) : Nat := (dims4.map (partSize d p)).foldl (· * ·) (gElemSize d)

/-- Extent of a slab's box along dimension l, for a face of dimension j. -/
def slabExtent (d : BitVec 1024) (p j l : Nat) : Nat :=
  if l = j then gHalo d else if l < gRank d then partSize d p l + 2 * gHalo d else partSize d p l

def slabBytes (d : BitVec 1024) (p f : Nat) : Nat :=
  (dims4.map (slabExtent d p (f / 2))).foldl (· * ·) (gElemSize d)

/-- Byte offset of slab 2f + q from the part's storage. -/
def slabOffset (d : BitVec 1024) (p f q : Nat) : Nat :=
  align64 (interiorBytes d p) + ((upFrom 0 (2 * f + q)).map fun k => align64 (slabBytes d p (k / 2))).sum

/-- Bytes of a part's whole storage. -/
def partBytes (d : BitVec 1024) (p : Nat) : Nat := slabOffset d p (2 * gRank d) 0

/-- Element offset of an interior cell. -/
def interiorElem (d : BitVec 1024) (p : Nat) (i : List Nat) : Nat :=
  dims4.reverse.foldl (fun acc j => i.getD j 0 + partSize d p j * acc) 0

/-- Local coordinates: inside the part? -/
def isInterior (d : BitVec 1024) (p : Nat) (i : List Int) : Bool :=
  dims4.all fun j => 0 ≤ i.getD j 0 && i.getD j 0 < partSize d p j

/-- How far a coordinate lies beyond the interior edge. -/
def beyond (d : BitVec 1024) (p : Nat) (i : List Int) (j : Nat) : Nat :=
  let x := i.getD j 0
  if x < 0 then (-x).toNat else if (partSize d p j : Int) ≤ x then (x - partSize d p j + 1).toNat else 0

/-- δ of R351. -/
def distance (d : BitVec 1024) (p : Nat) (i : List Int) : Nat := (dims4.map (beyond d p i)).foldl max 0

/-- The face of an outside cell: the lowest dimension in which it lies outside. -/
def faceOf (d : BitVec 1024) (p : Nat) (i : List Int) : Nat :=
  match dims4.find? (fun j => beyond d p i j ≠ 0) with
  | some j => 2 * j + if i.getD j 0 < 0 then 0 else 1
  | none => 0

/-- Element offset of an outside cell in its slab's box. -/
def slabElem (d : BitVec 1024) (p : Nat) (i : List Int) : Nat :=
  let f := faceOf d p i
  let t := fun l =>
    let x := i.getD l 0
    if l = f / 2 then (if f % 2 = 0 then (x + gHalo d).toNat else (x - partSize d p l).toNat)
    else if l < gRank d then (x + gHalo d).toNat else x.toNat
  dims4.reverse.foldl (fun acc l => t l + slabExtent d p (f / 2) l * acc) 0

/-- The local coordinates that belong to a face's slab, in storage order. -/
def slabCells (d : BitVec 1024) (p f : Nat) : List (List Int) :=
  let j := f / 2
  let range := fun l =>
    let lo : Int := if l = j then (if f % 2 = 0 then -(gHalo d : Int) else partSize d p l)
                    else if l < gRank d then -(gHalo d : Int) else 0
    (upFrom 0 (slabExtent d p j l)).map fun (k : Nat) => lo + (k : Int)
  ((range 3).flatMap fun a => (range 2).flatMap fun b => (range 1).flatMap fun c => (range 0).map fun e =>
    [e, c, b, a]).filter fun i => faceOf d p i == f

/-! ## Ghost sources (R354) -/

inductive GhostSource where
  | none
  | const (v : Nat)
  | cell (g : List Nat)
  deriving DecidableEq, Repr

/-- One coordinate mapped by its face's rule: the face if outside, and the mapped coordinate. -/
def mapCoord (d : BitVec 1024) (j : Nat) (x : Int) : Option Nat × Nat :=
  let n : Int := gDim d j
  if x < 0 then
    (some (2 * j), match gRule d (2 * j) with
      | 1 => (x % n).toNat
      | 3 => (-x - 1).toNat
      | _ => 0)
  else if n ≤ x then
    (some (2 * j + 1), match gRule d (2 * j + 1) with
      | 1 => (x % n).toNat
      | 3 => (2 * n - 1 - x).toNat
      | _ => (n - 1).toNat)
  else (none, x.toNat)

/-- The source of the cell at global coordinates. -/
def ghostSource (d : BitVec 1024) (g : List Int) : GhostSource :=
  let ms := dims4.map fun j => mapCoord d j (g.getD j 0)
  let faces := ms.filterMap (·.1)
  if faces.any (fun f => gRule d f == 0) then .none
  else
    match faces.find? (fun f => gRule d f == 4) with
    | some f => .const (gConst d f % 2 ^ (8 * gElemSize d))
    | none => .cell (ms.map (·.2))

/-- Global coordinates of a part's local cell. -/
def globalOf (d : BitVec 1024) (p : Nat) (i : List Int) : List Int :=
  dims4.map fun j => (partStart d p j : Int) + i.getD j 0

/-- The part whose agent writes a ghost cell of part p: the source's owner, or p itself for a CONSTANT. -/
def ghostWriter (d : BitVec 1024) (p : Nat) (i : List Int) : Option Nat :=
  match ghostSource d (globalOf d p i) with
  | .none => none
  | .const _ => some p
  | .cell g => some (partOf d g)

/-- The parts whose strips a face of part p needs. -/
def faceWriters (d : BitVec 1024) (p f : Nat) : List Nat := ((slabCells d p f).filterMap (ghostWriter d p)).eraseDups

/-! ## Owners -/

/-- Actor index and member module index (none: the declaring module) of a part's owner (R349). -/
def ownerIndex (d : BitVec 1024) (p : Nat) : Nat :=
  gOwnBase d + (if gPpm d = 0 then p else p % gPpm d) * gOwnStride d
def ownerMember (d : BitVec 1024) (p : Nat) : Option Nat := if gPpm d = 0 then none else some (p / gPpm d)

/-- Whether a part's owner lies on this module, for a launch. -/
def ownerHere (l : Launch) (d : BitVec 1024) (p : Nat) : Bool :=
  match ownerMember d p with
  | none => true
  | some m => m == ownMember l

/-- The context that holds an actor's parts: its own while resident, and while its launch is being evicted until they are
saved (R367). -/
def holderCtx (l : Launch) (aindex : Nat) : Option CtxId :=
  match (actorOf l aindex).place with
  | .at c => some c
  | .evicted =>
    let a := max 1 l.packet.actors
    match tfind l.groups (aindex / a) with
    | some g => g.ctxs[aindex % a]?
    | none => none
  | _ => none

/-- The byte address of an element of a resident owner's part, at a byte offset of its storage. -/
def partAddr (s : State) (c : CtxId) (d : BitVec 1024) (off : Nat) : Nat :=
  storeKey (ownModule s) (clusterOf c.cell) ((getCtx s c).grants.scratchOff + gLocalOff d + off)

def readElem (s : State) (a n : Nat) : Nat := readLE s.mem a n
def writeElem (s : State) (a n v : Nat) : State := { s with mem := writeLE s.mem a n v }

/-! ## Generations (R353, R356) -/

def genParity (d : BitVec 1024) (n : Nat) : Nat := (n - gStepBase d) / max 1 (gTheta d) % 2

def getPar (g : GridSlot) (q : Nat) : Parity := if q = 0 then g.par0 else g.par1
def setPar (g : GridSlot) (q : Nat) (p : Parity) : GridSlot := if q = 0 then { g with par0 := p } else { g with par1 := p }

def modSlot (s : State) (c : CtxId) (n : Fin 4) (f : GridSlot → GridSlot) : State :=
  modCtx s c fun x => { x with grid := x.grid.set n.val (f x.grid[n]) n.isLt }

/-- Generation n is released: its parity holds it with REL set (R362), or holds a later one, which took its place only after that
(R356). -/
def genReleased (g : GridSlot) (d : BitVec 1024) (n : Nat) : Bool :=
  let par := getPar g (genParity d n)
  match par.gen with
  | some m => decide (n < m.toNat) || (m.toNat == n && par.rel)
  | none => false

/-- A face of generation n has arrived (R353); a face with no sourced cell has nothing to wait for. -/
def faceArrived (g : GridSlot) (d : BitVec 1024) (p n f : Nat) : Bool :=
  let par := getPar g (genParity d n)
  (decide (par.gen = some (BitVec.ofNat 64 n)) && bit par.arrived f) || (faceWriters d p f).isEmpty

def genArrived (g : GridSlot) (d : BitVec 1024) (p n : Nat) : Bool :=
  (upFrom 0 (2 * gRank d)).all (faceArrived g d p n)

/-- Set the ARRIVED bits whose writers have all written. -/
def markFaces (d : BitVec 1024) (p : Nat) (par : Parity) : Parity :=
  { par with arrived := (upFrom 0 (2 * gRank d)).foldl (fun acc f =>
      if (faceWriters d p f).all fun w => par.got.contains (f, w) then acc ||| BitVec.ofNat 8 (2 ^ f) else acc) 0 }

/-- The receiving slot of a strip: a resident owner's slot of the same number, bound with that part. -/
def stripSlot (s : State) (st : Strip) (c : CtxId) : Option (BitVec 1024) :=
  let g := (getCtx s c).grid[st.slotNo]
  if g.part = some st.dstPart then g.desc else none

/-- A strip's part of its face has arrived: the parity takes its generation, ARRIVED follows, and the generation's arrival sends the
HALO notice (R353, R356). -/
def countStrip (s : State) (st : Strip) (c : CtxId) (d : BitVec 1024) : State :=
  let g := (getCtx s c).grid[st.slotNo]
  let n := st.gen
  let q := genParity d n
  let par := getPar g q
  let held := decide (par.gen = some (BitVec.ofNat 64 n))
  let before := held && genArrived g d st.dstPart n
  let par1 : Parity := if held then par else { gen := some (BitVec.ofNat 64 n), arrived := 0, got := [] }
  let par2 := markFaces d st.dstPart { par1 with got := (st.face, st.srcPart) :: par1.got }
  let s1 := modSlot s c st.slotNo fun g => setPar g q par2
  if gNotify d && !before && genArrived ((getCtx s1 c).grid[st.slotNo]) d st.dstPart n then
    postNotice s1 (ownAddr s st.lslot st.owner) (getCtx s c).ident.asid c.cell
      (mkNotice s (ownAddr s st.lslot st.owner) 4 [BitVec.ofNat 64 st.slotNo.val, BitVec.ofNat 64 n])
  else s1

/-- The strip is written, and then counted (R356). -/
def writeStrip (s : State) (st : Strip) (c : CtxId) (d : BitVec 1024) : State :=
  let size := gElemSize d
  let base := partAddr s c d (slabOffset d st.dstPart st.face (genParity d st.gen))
  countStrip (st.cells.foldl (fun s w => writeElem s (base + w.1 * size) size w.2.toNat) s) st c d

/-- A late strip is discarded and its face counts as arrived (R356); the parity of a generation that a later one has replaced has
nothing left to count. -/
def lateStrip (s : State) (st : Strip) (c : CtxId) (d : BitVec 1024) : State :=
  if (getPar (getCtx s c).grid[st.slotNo] (genParity d st.gen)).gen = some (BitVec.ofNat 64 st.gen) then countStrip s st c d else s

/-- A resident owner's agent places a strip, discards a late one, or refuses it (none) (R356). -/
def placeStrip (s : State) (st : Strip) : Option State :=
  match launchAt s st.lslot with
  | none => some s
  | some l =>
    match holderCtx l st.owner with
    | some c =>
      match stripSlot s st c with
      | none => none
      | some d =>
        let g := (getCtx s c).grid[st.slotNo]
        if genReleased g d st.gen then some (lateStrip s st c d)
        else
          match (getPar g (genParity d st.gen)).gen with
          | some m => if m.toNat < st.gen && !genReleased g d m.toNat then none else some (writeStrip s st c d)
          | none => some (writeStrip s st c d)
    | none => none

/-- A strip for an owner that is evicted is moored once its part is saved (R367). -/
def moorStrip (s : State) (st : Strip) : Option State :=
  match launchAt s st.lslot with
  | none => none
  | some l =>
    if (actorOf l st.owner).place = .evicted && (holderCtx l st.owner).isNone then moor s st.lslot st.owner (.strip st) else none

def takeStrip (s : State) (st : Strip) : Option State := (placeStrip s st).orElse fun _ => moorStrip s st

/-- The strips that the release of step n by the owner of part p sends: one per receiving part and face it writes (R356). -/
def stepStrips (s : State) (c : CtxId) (slot : Fin 4) (d : BitVec 1024) (p n : Nat) : List Strip :=
  let ls := (getCtx s c).ident.lslot.toNat
  let size := gElemSize d
  (upFrom 0 (gPartCount d)).flatMap fun r => (upFrom 0 (2 * gRank d)).filterMap fun f =>
    let cells := (slabCells d r f).filterMap fun i =>
      match ghostSource d (globalOf d r i) with
      | .none => none
      | .const v => if r = p then some (slabElem d r i, BitVec.ofNat 64 v) else none
      | .cell g =>
        if partOf d g = p then
          let li := dims4.map fun j => g.getD j 0 - partStart d p j
          some (slabElem d r i, BitVec.ofNat 64 (readElem s (partAddr s c d (interiorElem d p li * size)) size))
        else none
    if cells.isEmpty then none
    else some { lslot := ls, owner := ownerIndex d r, srcPart := p, dstPart := r, slotNo := slot, gen := n, face := f, cells := cells }

/-- Module and launch slot of a part's owner when that is a peer's (R349, R356). -/
def ownerAway (s : State) (l : Launch) (d : BitVec 1024) (p : Nat) : Option (Nat × Nat) :=
  if ownerHere l d p then none
  else
    match l.gang, ownerMember d p with
    | some g, some m => some (g.modules.getD m 0, g.slots.getD m 0)
    | _, _ => some (ownModule s, 0)

/-- Two strips have one receiver (R356: the agent of one receiving owner; log 103). -/
def sameReceiver (a b : HeldStrip) : Bool :=
  a.toModule == b.toModule && a.strip.lslot == b.strip.lslot && a.strip.owner == b.strip.owner

/-- A cluster's agent sends a strip (R356): it joins what the agent is sending, behind what it holds. -/
def queueStrip (s : State) (cl : Nat) (h : HeldStrip) : State :=
  let s1 := modCluster s cl fun k => { k with strips := k.strips ++ [h] }
  match h.toModule with
  | some m => inject s1 m 5
  | none => s1

/-- The release of HSTEP n (R356): the agent reads what every part needs, writes its own ghosts where nothing that it holds goes
before them, and sends the rest. -/
def hstepRelease (s : State) (c : CtxId) (slot : Fin 4) (n : Word) : State :=
  let g := (getCtx s c).grid[slot]
  match g.desc, g.part, launchAt s (getCtx s c).ident.lslot.toNat with
  | some d, some p, some l =>
    (stepStrips s c slot d p n.toNat).foldl (fun s st =>
      let cl := clusterOf c.cell
      match ownerAway s l d st.dstPart with
      | some (m, ls) => queueStrip s cl { strip := { st with lslot := ls }, owner := c, held := none, toModule := some m }
      | none =>
        let h : HeldStrip := { strip := st, owner := c, held := none }
        if st.dstPart = p && !(getCluster s cl).strips.any (fun o => o.held.isSome && sameReceiver o h) then
          match placeStrip s st with
          | some s1 => s1
          | none => queueStrip s cl { h with held := some (128, 128) }
        else queueStrip s cl h) s
  | _, _, _ => s

/-- The release of HREL n: REL is set for each held generation up to n (R362). -/
def hrelRelease (s : State) (c : CtxId) (slot : Fin 4) (n : Word) : State :=
  let set := fun (p : Parity) => if p.gen.any (fun m => m.toNat ≤ n.toNat) then { p with rel := true } else p
  modSlot s c slot fun g => { g with par0 := set g.par0, par1 := set g.par1 }

/-! ## Elements by linear index (R365) -/

def gridTotal (d : BitVec 1024) : Nat := (dims4.map (gDim d)).foldl (· * ·) 1

/-- Global coordinates of a linear index. -/
def coordsOf (d : BitVec 1024) (e : Nat) : List Nat :=
  dims4.map fun j => e / ((upFrom 0 j).map (gDim d)).foldl (· * ·) 1 % max 1 (gDim d j)

/-- Part and interior element offset of a linear index. -/
def elemPlace (d : BitVec 1024) (e : Nat) : Nat × Nat :=
  let g := coordsOf d e
  let p := partOf d g
  (p, interiorElem d p (dims4.map fun j => g.getD j 0 - partStart d p j))

/-- Combine at the owner's word (R365): add, min, max, swap in the element type. -/
def gscatCombine (ty op old v : Nat) : Nat :=
  let fp := fun (f : FpFmt) =>
    match op with
    | 0 => (fvAdd f RNE (fpDecode f old) (fpDecode f v)).1
    | 1 => (fpMinMax f false old v).1
    | 2 => (fpMinMax f true old v).1
    | _ => v
  let int := fun (n : Nat) =>
    let a := (BitVec.ofNat n old).toInt
    let b := (BitVec.ofNat n v).toInt
    match op with
    | 0 => (old + v) % 2 ^ n
    | 1 => if a < b then old else v
    | 2 => if a < b then v else old
    | _ => v
  match ty with
  | 0 => fp fp32
  | 1 => fp fp64
  | 2 => fp bf16
  | 3 => fp fp16
  | 7 => int 32
  | _ => int 64

/-- One gather or scatter lane goes to its owner's agent: a resident owner's cluster, or another module, from the requester's own
cluster (R365). -/
def sendLane (s : State) (c : CtxId) (slot : Fin 4) (scatter : Bool) (op : Nat) (id lane e : Nat) (v : Word) : State :=
  let g := (getCtx s c).grid[slot]
  match g.desc, launchAt s (getCtx s c).ident.lslot.toNat with
  | some d, some l =>
    let pe := elemPlace d e
    let p := pe.1
    let el := pe.2
    let x := getCtx s c
    let entry : ActiveLane :=
      { from_ := c, owner := c, slotNo := slot, elem := el, scatter := scatter, op := op,
        value := v, id := id, lane := lane, lslot := x.ident.lslot.toNat, asid := x.ident.asid, root := x.ident.root,
        msgid := triggerId x, ownerIndex := ownerIndex d p, part := p }
    match ownerAway s l d p with
    | none =>
      let own := (holderCtx l (ownerIndex d p)).getD c
      modCluster s (clusterOf own.cell) fun k => { k with lanes := k.lanes ++ [{ entry with owner := own }] }
    | some (m, ls) =>
      let out : PeerLane :=
        { fromModule := ownModule s, toModule := m, lslot := ls, slotNo := slot, owner := ownerIndex d p, part := p, elem := el,
          scatter := scatter, op := Fin.ofNat 4 op, value := v, asid := x.ident.asid.toNat, root := x.ident.root, msgid := triggerId x, tag := id, lane := lane }
      inject (modCluster s (clusterOf c.cell) fun k => { k with lanes := k.lanes ++ [{ entry with away := some out }] }) m 5
  | _, _ => s

end Sys2Proof.Machine
end

