-- ==== Sys2Proof/Machine/Ops.lean ====
section
/-! DEFINITION. The named operations of a context: registers, the journal (R107), deferred effects and their release (R50,
R51, R56, R108), traps (R110 to R112, R187, R188), commits (R109, R179 to R181), handler entry (R105, R120) and strand
resumption (R105, R124), and the issue of one instruction (R121, R122). -/

namespace Sys2Proof.Machine

/-! ## Registers (R40, R135) -/

def pendsX (r : Reg) (p : Pending) : Bool := match p.dest with | .x q _ _ => q == r && r != 0 | _ => false
def pendsF (r : Reg) (p : Pending) : Bool := match p.dest with | .f q _ => q == r | _ => false
def pendsW (r : Reg) (p : Pending) : Bool := match p.dest with | .lane q _ _ => q == r | _ => false

/-- An instruction that names a register waits for a load to it (R122). -/
def needX (c : CtxId) (r : Reg) : X Unit := do if (← ctx c).loads.any (pendsX r) then stallWith .other
def needF (c : CtxId) (r : Reg) : X Unit := do if (← ctx c).loads.any (pendsF r) then stallWith .other
def needW (c : CtxId) (r : Reg) : X Unit := do if (← ctx c).loads.any (pendsW r) then stallWith .other

/-- x0 reads zero and ignores writes (Table 2.13). -/
def xVal (x : Ctx) (r : Reg) : Word := if r = 0 then 0 else x.regs.x[r]
def setXReg (x : Ctx) (r : Reg) (v : Word) : Ctx :=
  if r = 0 then x else { x with regs := { x.regs with x := x.regs.x.set r.val v r.isLt } }
def setFReg (x : Ctx) (r : Reg) (v : Word) : Ctx := { x with regs := { x.regs with f := x.regs.f.set r.val v r.isLt } }

def getX (c : CtxId) (r : Reg) : X Word := do
  needX c r
  pure (xVal (← ctx c) r)
def putX (c : CtxId) (r : Reg) (v : Word) : X Unit := do
  needX c r
  updCtx c fun x => setXReg x r v
def getF (c : CtxId) (r : Reg) : X Word := do
  needF c r
  pure (← ctx c).regs.f[r]
def putF (c : CtxId) (r : Reg) (v : Word) : X Unit := do
  needF c r
  updCtx c fun x => setFReg x r v

/-- k0 reads all ones; a write to it is discarded (Table 2.13, R252). -/
def kVal (x : Ctx) (k : Fin 8) : BitVec 256 := if k = 0 then BitVec.allOnes 256 else x.regs.k[k]
def putK (c : CtxId) (k : Fin 8) (v : BitVec 256) : X Unit :=
  updCtx c fun x => if k = 0 then x else { x with regs := { x.regs with k := x.regs.k.set k.val v k.isLt } }

/-- FSTAT bits are sticky (R209). -/
def addFlags (c : CtxId) (f : FFlags) : X Unit := updCtx c fun x => { x with fstat := x.fstat ||| f }

/-- Registers zero except the constant bank (R100, R105). -/
def clearRegs (x : Ctx) : Ctx := { x with regs := { Regs.zero with c := x.regs.c } }

/-- The physical rows of a context are free once its w registers are cleared (R233). -/
def dropRows (s : State) (c : CtxId) : State :=
  modCell s c.cell fun k => { k with rows := k.rows.filter fun r => r.slot != c.slot }

/-! ## The journal (R107) -/

def journalStore (c : CtxId) (a : Nat) : X Unit := do
  let x ← ctx c
  let g := a / 32 * 32
  if x.sec.irrevocable || x.sec.journal.any (fun j => j.1 == g) then pure ()
  else if 256 ≤ x.sec.journal.length then trapWith { code := cJOURNAL_FULL, cursor := 1 }
  else
    let old := BitVec.ofNat 256 (readLE (← get).mem g 32)
    updSec c fun k => { k with journal := (g, old) :: k.journal }

/-- Write back the old granules, in reverse order of recording. -/
def restoreFrame (m : Memory) : List (Nat × BitVec 256) → Memory
  | [] => m
  | (a, v) :: r => restoreFrame (writeLE m a 32 v.toNat) r

/-! ## Deferred effects (R108) -/

def cellEffects (s : State) (cell : Nat) : Nat :=
  ((upFrom 0 32).map fun k => (getCtx s ⟨cell, k⟩).sec.buffer.length).sum

def deferEffect (c : CtxId) (e : Effect) : X Unit := do
  if 64 ≤ (← ctx c).sec.buffer.length then trapWith { code := cJOURNAL_FULL, cursor := 2 }
  if 256 ≤ cellEffects (← get) c.cell then stallWith .full
  updSec c fun k => { k with buffer := k.buffer ++ [e] }

/-- A message needs room in the cell's outbound queue of 32 (R109). -/
def needOutbound (c : CtxId) : X Unit := do
  if 32 ≤ (getCell (← get) c.cell).outq.length then stallWith .full

def pushOut (c : CtxId) (k : OutKind) : X Unit := do
  let asid := (← ctx c).ident.asid
  modify fun s => modCell s c.cell fun x => { x with outq := x.outq ++ [{ slot := c.slot, asid := asid, kind := k, held := none }] }
  updCtx c fun x => { x with counters := { x.counters with sent := x.counters.sent + 1 } }

/-- STIME of a release. -/
def stimeNow : X (BitVec 32) := do pure (BitVec.ofNat 32 (← get).dtc.toNat)

/-- Release of SEND, SENDV, REPLY (R104, R172). -/
def releaseSend (c : CtxId) (m : Message) : X Unit := do
  waitPropagated c
  needOutbound c
  let q := (← ctx c).seq
  pushOut c (.actor { m with seq := q, stime := ← stimeNow })
  updCtx c fun x => { x with seq := q + 1 }

/-- Release of FWD and DEFER: the SEQ stays (R104, R176). -/
def releaseKeepSeq (c : CtxId) (m : Message) : X Unit := do
  waitPropagated c
  needOutbound c
  pushOut c (.actor { m with stime := ← stimeNow })

/-- The GTID of the next spawn of a cell (Table 5.9). -/
def nextGtid (s : State) (cell lslot : Nat) : Word :=
  BitVec.ofNat 64 (ownModule s * 2 ^ 56 + lslot * 2 ^ 48 + cell * 2 ^ 37 + (getCell s cell).spawnCount.toNat)

/-- Release of SPAWN (R123, R182). -/
def releaseSpawn (c : CtxId) (m : StrandMsg) : X Unit := do
  waitPropagated c
  needOutbound c
  let s ← get
  let g := nextGtid s c.cell (getCtx s c).ident.lslot.toNat
  set (modCell s c.cell fun x => { x with spawnCount := x.spawnCount + 1 })
  pushOut c (.strand { m with msg := { m.msg with gtid := g, stime := ← stimeNow } })

/-- Release of LAUNCH (R186). -/
def releaseLaunch (c : CtxId) (va : Word) (q : Nat) : X Unit := do
  waitPropagated c
  let x ← ctx c
  modify fun s => modHub s fun h =>
    { h with launchReqs := h.launchReqs ++ [{ asid := x.ident.asid, ident := identWord c x, va := va, queue := q }] }

/-- Release of BARR (R128). -/
def releaseBarr (c : CtxId) (launchScope : Bool) (n op : Nat) (v : Word) : X Unit := do
  let x ← ctx c
  let b : BarrMsg := { lslot := x.ident.lslot.toNat, aindex := aindexOf (actidOf x.ident.root), launchScope := launchScope,
                       n := n, op := op, value := v }
  modify fun s => modHub s fun h => { h with barrs := h.barrs ++ [b] }

/-- Release of NRED (R409). -/
def releaseNred (c : CtxId) (n : Contribution) : X Unit := do
  waitPropagated c
  modify fun s => modHub s fun h => { h with nreds := h.nreds ++ [n] }

/-- Release of GSCAT: every lane leaves for its owner; the lanes of one instruction carry one number (R365). -/
def releaseGscat (c : CtxId) (slot : Fin 4) (op : Nat) (lanes : List (Nat × Nat × Word)) : X Unit := do
  waitPropagated c
  let id := (← ctx c).nextId
  updCtx c fun x => { x with nextId := id + 1 }
  modify fun s => lanes.foldl (fun s l => sendLane s c slot true op id l.1 l.2.1 l.2.2) s

/-- One effect leaves the section buffer (R50, R56). It stalls before it changes anything. -/
def releaseEffect (c : CtxId) : Effect → X Unit
  | .stores rel ws => do
    if rel then waitPropagated c
    modify fun s => ws.foldl (fun s w => enqueueReg s c w) s
  | .send m => releaseSend c m
  | .forward m => releaseKeepSeq c m
  | .defer m => releaseKeepSeq c m
  | .spawn m => releaseSpawn c m
  | .launch va q => releaseLaunch c va q
  | .barr l n op v => releaseBarr c l n op v
  | .hstep slot n => do
    waitPropagated c
    modify fun s => hstepRelease s c slot n
  | .hrel slot n => modify fun s => hrelRelease s c slot n
  | .gscat slot op lanes => releaseGscat c slot op lanes
  | .nred n => releaseNred c n
  | .kdetach => modify fun s => detachActor s c

/-- The oldest deferred effect is released. -/
def drainOne (c : CtxId) : X Unit := do
  match (← ctx c).sec.buffer with
  | [] => pure ()
  | e :: r =>
    releaseEffect c e
    updSec c fun k => { k with buffer := r }

/-- The section buffer empties in program order (R50); a stall keeps what has been released. -/
def drain (c : CtxId) : Nat → X Unit
  | 0 => pure ()
  | n + 1 => do
    drainOne c
    drain c n

def drainAll (c : CtxId) : X Unit := do drain c (← ctx c).sec.buffer.length

/-- IMMEDIATE of R51: the section becomes irrevocable and its buffer empties. -/
def immediate (c : CtxId) : X Unit := do
  updSec c fun k => { k with irrevocable := true, journal := [] }
  drainAll c

/-- An effect: deferred in a revocable section, else taken at issue (R106). -/
def effect (c : CtxId) (now : Bool) (e : Effect) : X Unit := do
  if now || (← ctx c).sec.irrevocable then
    immediate c
    releaseEffect c e
  else deferEffect c e

/-! ## Sections -/

/-- The watchdog budget in cycles (R387). -/
def wdogCycles (l : Option Launch) : Nat :=
  match l with
  | some l => if l.packet.wdog = 0 then 1024 * 1024 else l.packet.wdog * 1024
  | none => 1024 * 1024

def snapshot (x : Ctx) : Snapshot :=
  { regs := x.regs, fstat := x.fstat, frm := x.frm, spawnlim := x.spawnlim, seq := x.seq, pc := x.pc }

/-- A section starts at the context's pc with `n` sections committed before (R106, R387). -/
def startSection (x : Ctx) (n : Nat) : Ctx :=
  { x with sec := { Section.fresh with committed := n, start := snapshot x }, wdog := x.wdogBudget }

/-- The rows of a section that ended no longer hold values newer than their section start (R234). -/
def settleRows (s : State) (c : CtxId) : State :=
  modCell s c.cell fun k =>
    { k with rows := k.rows.map fun r => if r.slot = c.slot then { r with newValue := false } else r }

/-- A context with mail is READY, else IDLE (Table 5.1). -/
def hasMail (x : Ctx) : Bool :=
  !x.notices.isEmpty || x.mailboxes.toList.any fun b => !b.fifo.isEmpty
def rest (x : Ctx) : Ctx := { x with state := if hasMail x then .ready else .idle }

/-- Send a decrement to a root actor's cell (R183). -/
def postDecrement (s : State) (root : BitVec 40) : State := modHub s fun h => { h with decrements := h.decrements ++ [root] }

/-! ## Debug stops (R416, R417) -/

/-- A context halts before its next instruction and sends DEBUG_HALT. -/
def haltCtx (s : State) (c : CtxId) (reason detail : Nat) : State :=
  let s1 := modCtx s c fun x =>
    { x with dbg := { x.dbg with halted := true, reason := reason, detail := detail, step := false, haltReq := false } }
  let x := getCtx s c
  sendRecord s1 c (ctxRecord s c cDEBUG_HALT x.pc 0 (BitVec.ofNat 64 (reason * 2 ^ 16 + detail % 2 ^ 16)) 0 8)

/-- A boundary between instructions: a single step or a halt request takes effect. -/
def boundary (s : State) (c : CtxId) : State :=
  let x := getCtx s c
  if x.state ≠ .running then s
  else if x.dbg.step then haltCtx s c 3 0
  else if x.dbg.haltReq then haltCtx s c 4 0
  else s

/-! ## Strands (R105, R123, R124) -/

/-- The launch slot of this module that a strand runs under: its root's, or this member's of its root's gang. -/
def strandLslot (s : State) (m : Message) : Nat :=
  let ls := lslotOf (actidOf m.sender)
  if moduleOfAddr m.sender = ownModule s then ls
  else
    match s.hub.launches.find? (fun l => match l.2.gang with
      | some g => (g.modules.zip g.slots).contains (moduleOfAddr m.sender, ls)
      | none => false) with
    | some l => l.1
    | none => ls

/-- The strand message of a slot as at its resumption point (R110, R180). -/
def strandOf (c : CtxId) (x : Ctx) (faulted : Bool) : Option StrandMsg :=
  match x.trigger with
  | some t => some { msg := t.stored.msg, asid := x.ident.asid, destCell := c.cell, fstat := x.sec.start.fstat,
                     arrival := t.stored.arrival, faulted := faulted, counted := t.stored.counted }
  | none => none

/-- The carried registers of a strand. -/
def carried (x : Ctx) : List Word := (upFrom 1 (if x.ident.full then 16 else 8)).map fun i => xVal x (Fin.ofNat 32 i)

/-- Registers of a resumed strand: the carried x registers, the constant image, everything else zero. -/
def strandRegs (consts : Vector Word 64) (payload : List Word) : Regs :=
  { Regs.zero with x := vecOfList 32 0 (0 :: payload), c := consts }

/-- The class-62 message of a strand that is to continue at a pc (R180, R184). -/
def strandMessage (s : State) (x : Ctx) (old : Message) (pc : Word) : Message :=
  let base := match launchAt s x.ident.lslot.toNat with | some l => l.packet.codebase | none => 0
  { old with payload := carried x, len := (carried x).length, pcoff := BitVec.ofNat 32 (pc - base).toNat, seq := x.seq }

/-- A strand's run starts in its slot: registers, FRM 0, section, acquire, timing, trace (R105, R184). -/
def runStrand (s : State) (c : CtxId) (m : StrandMsg) : State :=
  let ls := strandLslot s m.msg
  let l := launchAt s ls
  let consts := match l with | some l => l.consts | none => Vector.replicate 64 0
  let base := match l with | some l => l.packet.codebase | none => 0
  let stored : StoredMsg := { msg := m.msg, arrival := m.arrival, counted := true }
  let s0 := timingStart s c.cell { stored with counted := m.counted }
  let s1 := modCtx s0 c fun x =>
    startSection
      { x with regs := strandRegs consts m.msg.payload, fstat := m.fstat, frm := 0,
               pc := base + BitVec.ofNat 64 m.msg.pcoff.toNat, state := .running,
               ident := { lslot := BitVec.ofNat 8 ls, asid := m.asid, root := m.msg.sender, gtid := m.msg.gtid, full := m.msg.full },
               seq := m.msg.seq, trigger := some { stored := stored, source := .strand, held := true, deferred := false },
               runStart := s.dtc, wait := .none, progress := none, place := none, inUse := [], entryFetch := true, wdogBudget := wdogCycles l } 0
  let s2 := dropCopies (dropRows s1 c) c.cell
  traceAppend s2 c 4 62 0

/-- A context that holds nothing; the numbers of its accesses run on, so that a value that returns late finds none, and FSTAT
stays (R209). -/
def emptied (x : Ctx) : Ctx := { Ctx.free with nextId := x.nextId, fstat := x.fstat }

/-- A strand message enters a free slot (R105, R322, R329, R422). -/
def enterStrand (s : State) (c : CtxId) (m : StrandMsg) : State := runStrand (modCtx s c emptied) c m

/-- A slot becomes FREE. -/
def freeSlot (s : State) (c : CtxId) : State := dropRows (modCtx s c emptied) c

def sovCap (l : Launch) : Nat := 2 ^ (if l.packet.sovlog = 0 then 12 else l.packet.sovlog)

/-- A strand message read back from its overflow entry. -/
def sovRead (s : State) (l : Launch) (e : SovEntry) : Option (StrandMsg × State) :=
  match unitReadWords s (dieOf e.cell) l.packet.asid (l.packet.sovbase + BitVec.ofNat 64 (160 * e.index)) 20 with
  | .ok (ws, s1) =>
    some ({ msg := msgOfWords ws, asid := l.packet.asid, destCell := e.cell, fstat := e.fstat, arrival := e.arrival,
            faulted := false, counted := false }, s1)
  | .error _ => none

/-- STRAND_QUEUE_REFILL: the arrival queue takes the oldest overflow entries bound for the cell (R124). -/
def refillStrandsOf (s : State) (cell lslot : Nat) : Nat → State
  | 0 => s
  | k + 1 =>
    match launchAt s lslot with
    | none => s
    | some l =>
      if 32 ≤ (getCell s cell).arrivals.length then s
      else
        match l.sov.find? (fun e => e.cell == cell) with
        | none => s
        | some e =>
          match sovRead s l e with
          | none => s
          | some (m, s1) =>
            let s2 := modLaunch s1 lslot fun l => { l with sov := l.sov.filter fun f => f.index != e.index }
            refillStrandsOf (modCell s2 cell fun x => { x with arrivals := x.arrivals ++ [m] }) cell lslot k

/-- The rings of all launches, those of lower slots first (DESIGN CHOICE: no rule orders them, log 59). -/
def refillStrands (s : State) (cell : Nat) : State :=
  (s.hub.launches.map (·.1)).foldl (fun s l => refillStrandsOf s cell l 32) s

/-! ## Traps (R110, R111, R187, R188) -/

/-- A translation stall of the context is cancelled (Table 7.9). -/
def cancelWaiters (s : State) (c : CtxId) : State :=
  modCluster s (clusterOf c.cell) fun k =>
    { k with misses := k.misses.filterMap fun p =>
        let ws := p.2.waiters.filter fun w => !decide (w.ctx = c)
        if ws.isEmpty then none else some (p.1, { p.2 with waiters := ws }) }

/-- The counts that the SPAWNs of a section ended by a trap return (R110, R187): all that it raised, or, of an irrevocable section,
what a SPAWN not carried out was granted. An answer not yet given is returned once it comes. -/
def returnSpawns (s : State) (c : CtxId) : State :=
  let x := getCtx s c
  let s1 := modHub s fun h => { h with spawnReqs := h.spawnReqs.map fun r => if r.ctx = c then { r with aborted := true } else r }
  let unread := if x.wait = .spawn (some true) then 1 else 0
  let n := unread + if x.sec.irrevocable then (if x.sec.granted then 1 else 0) else x.sec.spawned
  if isStrand c then (upFrom 0 n).foldl (fun s _ => postDecrement s x.ident.root) s1
  else modCtx s1 c fun x => { x with strands := x.strands - n }

/-- LAST of the grid slots goes back (R361). -/
def restoreLast (x : Ctx) : List (Fin 4 × Option Word) → Ctx
  | [] => x
  | (n, v) :: r => restoreLast { x with grid := x.grid.set n.val { x.grid[n] with last := v } n.isLt } r

/-- Roll a revocable section back: effects discarded, frame and registers of R167 restored, counts returned (R110). -/
def rollBack (s : State) (c : CtxId) : State :=
  let x := getCtx s c
  let s1 := returnSpawns { s with mem := restoreFrame s.mem x.sec.journal } c
  modCtx s1 c fun y =>
    restoreLast { y with fstat := x.sec.start.fstat, frm := x.sec.start.frm, spawnlim := x.sec.start.spawnlim } x.sec.lastJournal

/-- What ends at every trap: stalls, outstanding loads, the open section, the registers; the watchdog is full again (R187). -/
def endSection (x : Ctx) : Ctx :=
  { clearRegs x with wait := .none, loads := [], progress := none, place := none, inUse := [], sec := Section.fresh, wdog := x.wdogBudget,
                     entryFetch := false, dbg := { x.dbg with halted := false, step := false } }

/-- A strand message goes back to the arrival queue's return entries, or waits in its slot for one (R112). -/
def returnStrand (s : State) (c : CtxId) (m : StrandMsg) : State :=
  if (getCell s c.cell).returns.length < 16 then
    freeSlot (modCell s c.cell fun x => { x with returns := x.returns ++ [m] }) c
  else
    modCtx (modCell s c.cell fun x => { x with returnWait := x.returnWait ++ [(c.slot, m)] }) c fun x => { x with state := .returning }

/-- The trigger goes back to the head of its queue (R110). -/
def putBack (x : Ctx) (t : Trigger) : Ctx :=
  match t.source with
  | .notice => { x with notices := t.stored :: x.notices }
  | .mailbox n =>
    { x with mailboxes := x.mailboxes.set n.val { x.mailboxes[n] with fifo := t.stored :: x.mailboxes[n].fifo } n.isLt }
  | .strand => x

/-- The trap of an actor: FAULTED, its trigger returned or consumed. -/
def trapActor (s : State) (c : CtxId) (x : Ctx) : State :=
  let s1 := modCtx s c fun y => { endSection y with state := .faulted, trigger := none }
  match x.trigger with
  | none => s1
  | some t =>
    if x.sec.irrevocable || x.sec.committed ≠ 0 then (if t.held then sourceFreed s1 c t.source else s1)
    else modCtx s1 c fun y => { putBack y { t with stored := { t.stored with counted := true } } with resumeFrom := some t.source }

/-- The trap of a strand: its message returned, or discarded and counted as SDONE. -/
def trapStrand (s : State) (c : CtxId) (x : Ctx) : State :=
  let s1 := modCtx s c endSection
  if x.sec.irrevocable then postDecrement (freeSlot s1 c) x.ident.root
  else
    match strandOf c { x with trigger := x.trigger.map fun t => { t with stored := { t.stored with counted := true } } } true with
    | some m => returnStrand s1 c m
    | none => freeSlot s1 c

/-- The atomics that a context has issued and that wait for their homes' moves still execute there when its section ends by a trap:
only the value is discarded (R51, R60, R187). -/
def keepAtomics (s : State) (c : CtxId) : State :=
  let w := (getCtx s c).loads.filter fun p => p.atomic.isSome
  if w.isEmpty then s else modCell s c.cell fun k => { k with amos := k.amos ++ w.map fun p => (c.slot, p) }

/-- A trap: ABORT of R110, or the end of an irrevocable section by R111. -/
def takeTrap (s : State) (c : CtxId) (t : TrapInfo) : State :=
  let x := getCtx s c
  let rec_ := ctxRecord s c t.code (t.pc.getD x.pc) t.vaddr t.cursor t.lane (if x.sec.irrevocable then 1 else 0)
  let s1 := timingEnd (keepAtomics (cancelWaiters s c) c) c
  let s2 := if x.sec.irrevocable then returnSpawns s1 c else rollBack s1 c
  let s3 := modCtx s2 c fun y => { y with counters := { y.counters with aborts := y.counters.aborts + 1 } }
  let s4 := dropRows s3 c
  let s5 := sendRecord s4 c rec_
  if isStrand c then trapStrand s5 c x else trapActor s5 c x

/-! ## A window that collapses under a request (R404) -/

/-- A section's effects are on their way out, at its commit or before an immediate effect, which empties the buffer as a commit
does: no trap from outside interrupts that (R51, R181; log 40). -/
def releasing (x : Ctx) : Bool := x.sec.commit.isSome || (x.sec.irrevocable && !x.sec.buffer.isEmpty)

/-- A window load or atomic whose reply has not arrived. -/
def awaitsWindow (p : Pending) : Bool := p.window && p.value.isNone

def windowPending (x : Ctx) : Option Pending := x.loads.find? awaitsWindow

/-- The launch's window has collapsed, as this hub knows. -/
def collapsed (s : State) (lslot : Nat) : Bool :=
  match launchAt s lslot with
  | some l => match l.gang with
    | some g => g.state == 3
    | none => false
  | none => true

/-- A request to a window that has collapsed waits for a reply that will not come. -/
def windowLost (s : State) (c : CtxId) : Bool :=
  collapsed s (getCtx s c).ident.lslot.toNat && (windowPending (getCtx s c)).isSome

/-- The commit under way ends the handler or the strand's stay. -/
def endsRun (x : Ctx) : Bool := x.sec.commit.any fun k => k != .hcommit

/-- The trap of a lost request. While effects are being released no trap strikes (R181): it waits, or, where the commit ends the run,
is dropped with the request. -/
def collapseTrap (s : State) (c : CtxId) : State :=
  let x := getCtx s c
  match windowPending x with
  | some p =>
    if endsRun x then modCtx s c fun y => { y with loads := y.loads.filter fun q => !awaitsWindow q }
    else if releasing x then s
    else
      takeTrap s c { code := cKEYSTONE_GONE, vaddr := BitVec.ofNat 64 (p.va.toNat % 2 ^ 58 + 3 * 2 ^ 58), lane := p.member,
                     pc := some p.pc }
  | none => s

/-! ## Commits (R109, R179 to R181) -/

/-- An actor's trigger is consumed at the handler's first commit (R180). -/
def consumeTrigger (s : State) (c : CtxId) : State :=
  match (getCtx s c).trigger with
  | some t =>
    if t.held && !isStrand c then
      sourceFreed (modCtx s c fun x => { x with trigger := some { t with held := false } }) c t.source
    else s
  | none => s

/-- What every commit leaves: its counts, the trigger consumed, the rows settled. -/
def commitCommon (s : State) (c : CtxId) : State :=
  let s1 := modCtx s c fun x =>
    { x with counters := { x.counters with commits := x.counters.commits + 1, retired := x.counters.retired + 1 },
             wait := .none, dbg := { x.dbg with pass := false } }
  settleRows (consumeTrigger s1 c) c

/-- HCOMMIT: the next section starts at PC + 4; a strand's resumption point is rewritten (R179, R180). -/
def finishHcommit (s : State) (c : CtxId) : State :=
  let x := getCtx s c
  let pc := x.pc + 4
  let s1 := commitCommon s c
  modCtx s1 c fun y =>
    let z := startSection { y with pc := pc, place := none, inUse := [] } (x.sec.committed + 1)
    { z with sec := { z.sec with heldExpiry := x.sec.heldExpiry },
             trigger := if isStrand c then
                 y.trigger.map fun t => { t with stored := { t.stored with msg := strandMessage s1 y t.stored.msg pc } }
               else y.trigger }

/-- A handler or strand run ends: its run time counted, its section closed (R420). -/
def closeRun (s : State) (c : CtxId) (traceKind : Nat) : State :=
  let x := getCtx s c
  let cls := match x.trigger with | some t => t.stored.msg.cls | none => 0
  let s1 := traceAppend (timingEnd (commitCommon s c) c) c traceKind cls 0
  modCtx (dropRows s1 c) c fun y => { clearRegs y with sec := Section.fresh, progress := none, place := none, inUse := [] }

/-- HDONE: IDLE or READY; a TERMINATE handler ends its actor (R130, R179). -/
def finishHdone (s : State) (c : CtxId) : State :=
  let x := getCtx s c
  let ends := match x.trigger with | some t => t.stored.msg.cls == 63 | none => false
  let s1 := closeRun s c 3
  let s2 := modCtx s1 c fun y => rest { y with trigger := none }
  if ends then endActor s2 c else s2

def finishExit (s : State) (c : CtxId) : State := endActor (closeRun s c 3) c

def finishSdone (s : State) (c : CtxId) : State := refillStrands (freeSlot (closeRun s c 5) c) c.cell

/-- MIGRATE stays in its slot: its own cell is named and its launch is not being evicted (R184, R384). -/
def staysHere (s : State) (c : CtxId) (destCell destModule : Nat) : Bool :=
  let evicting := match launchAt s (getCtx s c).ident.lslot.toNat with | some l => l.evicting | none => false
  destCell == c.cell && destModule == ownModule s && !evicting

/-- MIGRATE to the strand's own cell continues in the slot as if resumed (R184). -/
def finishMigrate (s : State) (c : CtxId) (destCell destModule : Nat) : State :=
  let x := getCtx s c
  if staysHere s c destCell destModule then
    match x.trigger with
    | some t =>
      let m := { strandMessage s x t.stored.msg (x.pc + 4) with stime := BitVec.ofNat 32 s.dtc.toNat }
      let s1 := closeRun s c 5
      let s2 := enterStrand s1 c { msg := m, asid := x.ident.asid, destCell := c.cell, fstat := x.fstat, arrival := s.dtc,
                                   faulted := false, counted := false }
      modCtx s2 c fun y =>
        { y with sec := { y.sec with heldExpiry := x.sec.heldExpiry }, dbg := { x.dbg with pass := false } }
    | none => freeSlot (closeRun s c 5) c
  else refillStrands (freeSlot (closeRun s c 5) c) c.cell

/-- MIGRATE's own release: the strand message, after every other effect (R184). -/
def releaseMigrate (c : CtxId) (destCell destModule : Nat) : X Unit := do
  let s ← get
  let x := getCtx s c
  if staysHere s c destCell destModule then waitPropagated c
  else
    waitPropagated c
    needOutbound c
    match x.trigger with
    | some t =>
      let m := { strandMessage s x t.stored.msg (x.pc + 4) with
                 dest := BitVec.ofNat 40 (destModule * 2 ^ 32 + destCell), stime := ← stimeNow }
      pushOut c (.strand { msg := m, asid := x.ident.asid, destCell := destCell, fstat := x.fstat, arrival := 0,
                           faulted := false, counted := false })
    | none => pure ()

/-- A run's end waits until no load is outstanding (R122). -/
def needNoLoads (c : CtxId) : X Unit := do if !(← ctx c).loads.isEmpty then stallWith .other

/-- MIGRATE and SDONE wait until every tag is set (R341). -/
def needAllTags (c : CtxId) : X Unit := do
  if (← ctx c).tag.tags ≠ BitVec.allOnes 64 then stallWith (.tags (BitVec.allOnes 64) false)

/-- The commit of a section, resumed where a stall left it: the buffer empties, the waits of its kind, the last release, the
commit point (itself a release, R50), then what follows it (Table 7.7). -/
def commitX (c : CtxId) (kind : CommitKind) : X Unit := do
  updSec c fun k => { k with commit := some kind }
  drainAll c
  match kind with
  | .hcommit =>
    waitPropagated c
    modify fun s => finishHcommit s c
  | .hdone =>
    needNoLoads c
    waitPropagated c
    modify fun s => finishHdone s c
  | .exit =>
    needNoLoads c
    waitPropagated c
    modify fun s => finishExit s c
  | .sdone =>
    needNoLoads c
    needAllTags c
    waitPropagated c
    let root := (← ctx c).ident.root
    modify fun s => finishSdone (postDecrement s root) c
  | .migrate d m =>
    needNoLoads c
    needAllTags c
    releaseMigrate c d m
    modify fun s => finishMigrate s c d m

/-! ## Handler entry (R105, R120) -/

/-- The mailbox served next (R120). -/
def chooseMailbox (x : Ctx) : Option (Fin 8) :=
  let idx : List (Fin 8) := [0, 1, 2, 3, 4, 5, 6, 7]
  match idx.find? (fun n => !x.mailboxes[n].fifo.isEmpty && 16 ≤ x.mailboxes[n].pass) with
  | some n => some n
  | none => idx.find? fun n => !x.mailboxes[n].fifo.isEmpty

/-- The next trigger (R120, R131), and the context without it. -/
def chooseTrigger (x : Ctx) : Option (StoredMsg × TrigSource × Ctx) :=
  let fromNotice := match x.notices with
    | m :: r => some (m, .notice, { x with notices := r })
    | [] => none
  let fromMailbox := fun (n : Fin 8) => match x.mailboxes[n].fifo with
    | m :: r => some (m, .mailbox n, { x with mailboxes := x.mailboxes.set n.val { x.mailboxes[n] with fifo := r } n.isLt })
    | [] => none
  match x.resumeFrom with
  | some (.mailbox n) => fromMailbox n
  | some _ => fromNotice
  | none =>
    match fromNotice with
    | some t => some t
    | none =>
      match chooseMailbox x with
      | some n => fromMailbox n
      | none => none

/-- Pass counters when a handler starts from mailbox n (R120). -/
def bumpPass (x : Ctx) (n : Fin 8) : Ctx :=
  let upd := fun (k : Nat) (b : Mailbox) =>
    if k = n.val then { b with pass := 0 } else if b.fifo.isEmpty then b else { b with pass := min 16 (b.pass + 1) }
  { x with mailboxes := vecOfList 8 Mailbox.none (((upFrom 0 8).zip x.mailboxes.toList).map fun p => upd p.1 p.2) }

/-- Registers at handler entry (R105). -/
def entryRegs (x : Ctx) (m : Message) : Regs :=
  { Regs.zero with
    x := vecOfList 32 0 [0, 0, localVa x.grants.frameOff, if x.grants.scratchSize = 0 then 0 else localVa x.grants.scratchOff,
                         BitVec.ofNat 64 m.sender.toNat, BitVec.ofNat 64 m.len]
    m := vecOfList 16 0 m.payload, c := x.regs.c }

/-- A bound class's handler starts. -/
def runHandler (s : State) (c : CtxId) (m : StoredMsg) (src : TrigSource) (x : Ctx) : State :=
  let entry := x.routines.toList.getD m.msg.cls 0
  let s1 := timingStart s c.cell m
  let y := match src with | .mailbox n => bumpPass x n | _ => x
  let s2 := setCtx s1 c (startSection
    { y with regs := entryRegs x m.msg, pc := sext64 55 (bits entry 54 1 * 2), state := .running,
             trigger := some { stored := { m with counted := true }, source := src, held := true, deferred := false },
             runStart := s.dtc, wait := .none, progress := none, place := none, inUse := [], entryFetch := true, resumeFrom := none } 0)
  let s3 := traceAppend (dropCopies (dropRows s2 c) c.cell) c 2 m.msg.cls 0
  boundary s3 c

/-- What an unbound class does (Table 5.3). -/
def unboundTrigger (s : State) (c : CtxId) (m : StoredMsg) (src : TrigSource) (x : Ctx) : State :=
  let s1 := sourceFreed (setCtx s c { x with resumeFrom := none }) c src
  let s2 := modCtx s1 c rest
  if m.msg.cls = 63 then endActor s2 c
  else if 2 ≤ m.msg.cls ∧ m.msg.cls ≤ 6 then modCell s2 c.cell fun k => { k with discarded := k.discarded + 1 }
  else s2

/-- HANDLER_ENTRY: of a READY actor whose launch is not being evicted (R383). -/
def handlerEntry (s : State) (c : CtxId) : State :=
  let x := getCtx s c
  let evicting := match launchAt s x.ident.lslot.toNat with | some l => l.evicting | none => true
  if x.state ≠ .ready || isStrand c || evicting then s
  else
    match chooseTrigger x with
    | none => s
    | some (m, src, y) =>
      if bit (x.routines.toList.getD m.msg.cls 0) 0 then runHandler s c m src y else unboundTrigger s c m src y

/-! ## The issue of an instruction (R121, R122) -/

/-- A context can issue: running, not halted, no translation under service, no acquire outstanding (R57, R95, R122). -/
def canIssue (x : Ctx) : Bool :=
  decide (x.state = .running) && !x.dbg.halted && !x.loads.any (·.acq) &&
  (match x.wait with | .xlate _ _ => false | _ => true)

/-- An instruction completes: the pc advances by its length, the counters and stalls are settled. -/
def complete (s : State) (c : CtxId) (len : Nat) : State :=
  boundary (modCtx s c fun x =>
    { x with pc := x.pc + BitVec.ofNat 64 len, wait := .none, progress := none, place := none, inUse := [],
             counters := { x.counters with retired := x.counters.retired + 1 },
             dbg := { x.dbg with pass := false } }) c

/-- The outcome of an instruction's computation. -/
def settle (c : CtxId) (len : Nat) : Except Halt (Unit × State) → Host.Outcome State Fault Refusal
  | .ok (_, s) => .next (complete s c len)
  | .error (.trap t s) => .next (takeTrap s c t)
  | .error (.stall w s) => .next (modCtx s c fun x => { x with wait := w })

/-- A watchdog expiry held over a commit strikes at the next instruction (R181). -/
def heldTrap (s : State) (c : CtxId) : State := takeTrap s c { code := cWATCHDOG }

/-- Issue an instruction of `len` bytes in the current context. A context that cannot issue is left as it is (log 8). -/
def issueOp (s : State) (len : Nat) (body : X Unit) : Host.Outcome State Fault Refusal :=
  let x := getCtx s s.cur
  if !canIssue x || x.sec.commit.isSome then .next s
  else if x.sec.heldExpiry && (x.sec.buffer.isEmpty || !x.sec.irrevocable) then .next (heldTrap s s.cur)
  else settle s.cur len (body.run s)

/-- The outcome of a commit, which sets its own pc and counts. -/
def settleCommit (c : CtxId) : Except Halt (Unit × State) → Host.Outcome State Fault Refusal
  | .ok (_, s) => .next (boundary s c)
  | .error (.trap t s) => .next (takeTrap s c t)
  | .error (.stall w s) => .next (modCtx s c fun x => { x with wait := w })

/-- Issue a commit instruction: its checks, then the commit (R179). A commit under way goes on. -/
def issueCommit (s : State) (check : X CommitKind) : Host.Outcome State Fault Refusal :=
  let c := s.cur
  let x := getCtx s c
  if !canIssue x then .next s
  else
    match x.sec.commit with
    | some k => settleCommit c ((commitX c k).run s)
    | none =>
      if x.sec.heldExpiry && (x.sec.buffer.isEmpty || !x.sec.irrevocable) then .next (heldTrap s c)
      else settleCommit c ((do commitX c (← check)).run s)

/-- The oldest effect of a commit under way, or of a section made irrevocable, is released when nothing holds it back. -/
def releaseMove (s : State) (c : CtxId) : Option State :=
  let x := getCtx s c
  if x.state ≠ .running || x.dbg.halted || x.sec.buffer.isEmpty || !(x.sec.irrevocable || x.sec.commit.isSome) then none
  else
    match (drainOne c).run s with
    | .ok (_, t) => some t
    | .error _ => none

/-- A commit that waited goes on, and completes once its last effect is released (R109, R181). -/
def goOnCommit (s : State) (c : CtxId) : Host.Outcome State Fault Refusal :=
  let x := getCtx s c
  match x.sec.commit with
  | some k => if canIssue x then settleCommit c ((commitX c k).run s) else .next s
  | none => .next s

/-- A move of another agent that changes nothing when it is not enabled (log 8). -/
def move (o : Option State) (s : State) : Host.Outcome State Fault Refusal :=
  match o with
  | some s1 => .next s1
  | none => .next s

end Sys2Proof.Machine
end

