-- ==== Sys2Proof/Machine/Fetch.lean ====
section
/-! DEFINITION. Fetching: code blocks and instruction starts (R27, R29 to R31), the checks of a transfer's target (R142), the
first fetch of a run (R30), and what a context executes next. -/

namespace Sys2Proof.Machine

/-- Parcel k of a 32-byte block held as a number. -/
def parcelOf (blk k : Nat) : Nat := blk / 65536 ^ k % 65536

/-- The parcels of a block from parcel k on. -/
def parcelsFrom (blk k : Nat) : List Nat := (upFrom k (16 - k)).map (parcelOf blk)

/-- Whether parcel `t` of a block is a marked start: the walk of R29 from parcel k. -/
def isStart (blk t : Nat) : Nat → Nat → Bool
  | _, 0 => false
  | k, n + 1 => if k = t then true else if t < k then false else isStart blk t (k + parcelCount (parcelOf blk k)) n

/-- The block at a byte address, through the cell's instruction view (R70). A fill stalls the context. -/
def fetchBlock (c : CtxId) (a : Nat) (noalloc : Bool) : X Nat := do
  let base := a / 32 * 32
  let word := fun (acc : Nat) (k : Nat) => (do
    match fetchWord (← get) c.cell (base + 8 * k) noalloc with
    | (some v, s) =>
      set s
      pure (acc + v.toNat * 2 ^ (64 * k))
    | (none, s) =>
      set s
      stallWith .other : X Nat)
  foldX word 0 [0, 1, 2, 3]

/-- The block of code at an address: LOCAL and window addresses are never executable (R74, R142; log 27), a page must have X. -/
def codeBlock (c : CtxId) (va : Word) : X Nat := do
  if isLocal va then trapWith { code := cPROT, vaddr := faultVa va kFetch 10, pc := some va }
  if isWindow va then trapWith { code := cPROT, vaddr := faultVa va kFetch 8, pc := some va }
  let p ← translateX c va kFetch 0
  fetchBlock c p.1 (pteNoalloc p.2.1)

/-- BAD_TARGET at va; `from_` is the transferring instruction's address, or 0 (R30). -/
def badTarget {α : Type} (va from_ : Word) : X α := trapWith { code := cBAD_TARGET, vaddr := from_, pc := some va }

/-- A start must be marked in its block (R30). An odd target is BAD_TARGET wherever it lies: R142 raises that for every odd target, R74
and R92 the faults of the window and of the page, and no rule orders them (DESIGN CHOICE, log 104). -/
def checkStart (c : CtxId) (va from_ : Word) : X Unit := do
  if va.toNat % 2 = 1 then badTarget va from_
  let blk ← codeBlock c va
  if !isStart blk (va.toNat / 2 % 16) 0 16 then badTarget va from_

/-- A taken transfer checks its target, then goes there (R142). The pc is set `len` short of it: `complete` adds the length. -/
def transfer (c : CtxId) (len : Nat) (va : Word) : X Unit := do
  let x ← ctx c
  checkStart c va x.pc
  updCtx c fun y => { y with pc := va - BitVec.ofNat 64 len }

/-- The bits that an undecodable instruction has in its block, as one number. -/
def parcelBits : List Nat → Nat
  | [] => 0
  | p :: r => p + 65536 * parcelBits r

/-- What decodes at a parcel of a block: an encoding that the tables do not assign, and an instruction that runs past its
block, give RESERVED_ENCODING (R29, R36 to R39). -/
def decodeAt (blk k : Nat) : Instr :=
  let ps := (parcelsFrom blk k).take 4
  match decode ps with
  | .ok (i, _) => i
  | .error _ => .reservedEncoding (parcelBits ps)

/-- The instruction at the pc. The first fetch of a run checks its start (R30). -/
def fetchX (c : CtxId) : X Instr := do
  let x ← ctx c
  if x.entryFetch then checkStart c x.pc 0
  let blk ← codeBlock c x.pc
  updCtx c fun y => { y with entryFetch := false }
  pure (decodeAt blk (x.pc.toNat / 2 % 16))

end Sys2Proof.Machine
end

