-- ==== Sys2Proof/Machine/Operands.lean ====
section
/-! DEFINITION. Operand forms (R33, R34, R134, R138 to R141, R151) and the loads and stores of a context (R48, R49, R54,
R106, R152, R153). -/

namespace Sys2Proof.Machine

/-! ## Scalar operands (R134) -/

/-- The value of an immediate or offset field, or of the literal in its place (Table 2.1). -/
def immVal {n : Nat} (scale : Nat) : Imm n → Word
  | .imm v => BitVec.ofInt 64 (v.toInt * scale)
  | .lit v => v.signExtend 64

/-- Length in bytes: a literal makes 8 (R27). -/
def lenImm {n : Nat} : Imm n → Nat
  | .imm _ => 4
  | .lit _ => 8
def lenB : OpB → Nat
  | .lit _ => 8
  | _ => 4
def lenL : OpL → Nat
  | .lit _ => 8
  | .reg _ => 4

/-- An entry of the constant bank. -/
def bankVal (x : Ctx) (k : Fin 32) : Word := x.regs.c.toList.getD k.val 0

/-- OPB(INT). -/
def opInt (c : CtxId) : OpB → X Word
  | .reg r => getX c r
  | .bank k => do pure (bankVal (← ctx c) k)
  | .lit v => pure (v.signExtend 64)

def opIntL (c : CtxId) : OpL → X Word
  | .reg r => getX c r
  | .lit v => pure (v.signExtend 64)

/-- An operand of a precision: FP32 reads bits 31:0. -/
def fpBits (p : Prec) (v : Word) : Nat := match p with | .w => v.toNat % 2 ^ 32 | .d => v.toNat
def fpLit (p : Prec) (v : Word32) : Nat := match p with | .w => v.toNat | .d => fp64Of v.toNat

/-- OPB(FP32) and OPB(FP64). -/
def opFp (c : CtxId) (p : Prec) : OpB → X Nat
  | .reg r => do pure (fpBits p (← getF c r))
  | .bank k => do pure (fpBits p (bankVal (← ctx c) k))
  | .lit v => pure (fpLit p v)

def opFpL (c : CtxId) (p : Prec) : OpL → X Nat
  | .reg r => do pure (fpBits p (← getF c r))
  | .lit v => pure (fpLit p v)

def opFpC (c : CtxId) (p : Prec) : OpC → X Nat
  | .reg r => do pure (fpBits p (← getF c r))
  | .bank k => do pure (fpBits p (bankVal (← ctx c) k))

def fmtOf : Prec → FpFmt
  | .w => fp32
  | .d => fp64

/-- The rounding mode of an instruction (R143). -/
def roundMode (x : Ctx) : RmField → Nat
  | .frm => x.frm.toNat
  | .rtz => RTZ
  | .rup => RUP
  | .rdn => RDN

/-- EA of a load or store (R151). -/
def effAddr (c : CtxId) (base : Reg) (scale : Nat) (off : Imm 9) : X Word := do pure ((← getX c base) + immVal scale off)

/-! ## Loads (R54, R152) -/

/-- A load's value as its destination takes it. -/
def extendLoad (d : Dest) (v : Nat) : Word :=
  match d with
  | .x _ size signed => if signed then sext64 (8 * size) v else BitVec.ofNat 64 v
  | .f _ _ => BitVec.ofNat 64 v
  | .lane _ _ _ => BitVec.ofNat 64 v

/-- The bytes of a load within its word. -/
def bytesOfWord (w : Word) (off size : Nat) : Nat := w.toNat / 2 ^ (8 * off) % 2 ^ (8 * size)

/-- Bytes of a cluster store as a plain load of the context takes them: its own waiting stores first (R54). -/
def storeBytes (s : State) (c : CtxId) (a n : Nat) : Nat :=
  ((upFrom 0 n).map fun i => bytesOfWord (storeWord s c (wordKey (a + i))) ((a + i) % 8) 1 * 2 ^ (8 * i)).sum

def destSize : Dest → Nat
  | .x _ n _ => n
  | .f _ n => n
  | .lane _ n _ => n

def needDest (c : CtxId) : Dest → X Unit
  | .x r _ _ => needX c r
  | .f r _ => needF c r
  | .lane r _ _ => needW c r

/-- Set element `lane` of n bytes of a w register. -/
def setLane (x : Ctx) (w : Reg) (n lane v : Nat) : Ctx :=
  let r := x.regs.w[w]
  let d := setBits r.data (8 * n * (lane + 1) - 1) (8 * n * lane) v
  { x with regs := { x.regs with w := x.regs.w.set w.val { r with data := d } w.isLt } }

/-- A value reaches its register. -/
def writeDest (x : Ctx) (d : Dest) (v : Word) : Ctx :=
  match d with
  | .x r _ _ => setXReg x r v
  | .f r _ => setFReg x r v
  | .lane w n lane => setLane x w n lane v.toNat

/-- A load that stays outstanding. -/
def addPending (c : CtxId) (p : Pending) : X Unit :=
  updCtx c fun x => { x with loads := x.loads ++ [{ p with id := x.nextId, pc := x.pc }], nextId := x.nextId + 1 }

def blankPending (d : Dest) (a off : Nat) (acq : Bool) : Pending :=
  { id := 0, dest := d, addr := a, byteOff := off, acq := acq, atomic := none, haveMask := 0, haveBits := 0, value := none,
    window := false, member := 0, va := 0, pc := 0 }

/-- The value of a load at hand: it returns now, or stays outstanding when loads are late (log 3). An acquire discards the
COPY entries once the value is taken (R57). -/
def deliver (c : CtxId) (d : Dest) (a off : Nat) (acq : Bool) (v : Nat) : X Unit := do
  let val := extendLoad d v
  if acq then acquire c
  if (← get).lateLoads then addPending c { blankPending d a off false with value := some val }
  else updCtx c fun x => writeDest x d val

/-- A context's request for a word of a peer member's share leaves on the gateway queue to that module (R401, Table 3.2). -/
def requestShare (s : State) (c : CtxId) (r : KeyReq) : State := gwPush s (queueToHome s (dieOf c.cell) r.addr) (.share r)

/-- A load of a place: cluster-store words are read at home under the context's own waiting stores; a global word by R54, left
outstanding while a fill is under way; a peer member's share by a request to its owner (R401). -/
def loadPlace (c : CtxId) (va : Word) (l : Loc) (d : Dest) (acq : Bool) : X Unit := do
  let a := wordKey l.addr
  let off := l.addr % 8
  let size := destSize d
  match l.kind with
  | .frame => deliver c d a off acq (readLE (← get).mem l.addr size)
  | .scratch => deliver c d a off acq (bytesOfWord (storeWord (← get) c a) off size)
  | .global =>
    let na := pteNoalloc l.pte
    if loadMustWait (← get) c a then stallWith .other
    match loadSource (← get) c a na with
    | ((some v, _, _), s) =>
      set s
      deliver c d a off acq (bytesOfWord v off size)
    | ((none, m, b), s) =>
      let id := (getCtx s c).nextId
      set (requestFill s c.cell a (some (c, id)) 0 na true)
      addPending c { blankPending d a off acq with haveMask := m, haveBits := b }
  | .window =>
    let own := ownBits (← get) c a
    if keySpace a = 1 then deliver c d a off acq (bytesOfWord (storeWord (← get) c a) off size)
    else
      let x ← ctx c
      modify fun s => requestShare s c
        { ctx := c, id := x.nextId, addr := a, member := l.member, lslot := x.ident.lslot.toNat, store := none, origin := .ctx c,
          atomic := none }
      addPending c { blankPending d a off acq with haveMask := own.1, haveBits := own.2, window := true, member := l.member, va := va }

/-- LOADOP of R152. -/
def loadOp (c : CtxId) (d : Dest) (acq : Bool) (va : Word) : X Unit := do
  needDest c d
  let l ← locate c va (destSize d) (destSize d) kRead 0
  loadPlace c va l d acq

/-! ## Stores (R49, R106, R153) -/

/-- Bytes written to a cluster-store home, a frame's journalled first. -/
def storeHome (c : CtxId) (l : Loc) (n v : Nat) : X Unit := do
  if l.kind = .frame then journalStore c l.addr
  modify fun s => { s with mem := writeLE s.mem l.addr n v }

/-- A store by its location, its order and the state of its section. -/
def storePlace (c : CtxId) (l : Loc) (ord : StOrder) (n v : Nat) : X Unit := do
  if ord = .now then immediate c
  match l.kind with
  | .frame => do
    if ord = .rel then waitPropagated c
    storeHome c l n v
  | .scratch => do
    if ord = .rel then waitPropagated c
    storeHome c l n v
  | _ => do
    let w := { byteStore l.addr n v with noalloc := pteNoalloc l.pte, leaf := l.leaf }
    if (← ctx c).sec.irrevocable then
      if ord = .rel then waitPropagated c
      modify fun s => enqueueReg s c w
    else deferEffect c (.stores (ord == .rel) [w])

/-- STOREOP of R153 for the low n bytes of a value. -/
def storeOp (c : CtxId) (ord : StOrder) (n : Nat) (va : Word) (v : Nat) : X Unit := do
  let l ← locateOnce c va n n kWrite
  storePlace c l ord n (v % 2 ^ (8 * n))
  updCtx c fun x => { x with place := none }

end Sys2Proof.Machine
end

