-- ==== Sys2Proof/Machine/Rows.lean ====
section
/-! DEFINITION. The physical rows behind w0 to w31 and their spill slots (R232 to R234). -/

namespace Sys2Proof.Machine

/-- VSPILL (R232). -/
def vspill (s : State) (c : CtxId) : Word :=
  let base := match launchAt s (getCtx s c).ident.lslot.toNat with | some l => l.packet.spill | none => 0
  base + BitVec.ofNat 64 (8192 * (c.cell * 32 + c.slot))

def isRow (slot reg : Nat) (r : Row) : Bool := r.slot == slot && r.reg == reg

/-- The row of a register, if it is in one. -/
def rowOf (s : State) (c : CtxId) (reg : Nat) : Option Row := (getCell s c.cell).rows.find? (isRow c.slot reg)

/-- A row becomes the most recently used. -/
def frontRow (s : State) (c : CtxId) (r : Row) : State :=
  modCell s c.cell fun k => { k with rows := r :: k.rows.filter fun q => !isRow r.slot r.reg q }

/-- A register leaves its row. -/
def dropRow (s : State) (c : CtxId) (reg : Nat) : State :=
  modCell s c.cell fun k => { k with rows := k.rows.filter fun q => !isRow c.slot reg q }

def setW (x : Ctx) (r : Reg) (v : WReg) : Ctx := { x with regs := { x.regs with w := x.regs.w.set r.val v r.isLt } }

/-- An instruction's register is in a row, or the instruction stalls until VECTOR_ROW_FILL (R233). A register that reads zero
since handler entry takes a free row at once (log 22). Until the instruction has gone on it keeps the row. -/
def ensureRow (c : CtxId) (r : Reg) : X Row := do
  needW c r
  updCtx c fun x => { x with inUse := if x.inUse.contains r.val then x.inUse else r.val :: x.inUse }
  let s ← get
  match rowOf s c r.val with
  | some q => do
    set (frontRow s c q)
    pure q
  | none => do
    if (getCtx s c).regs.w[r].spilled || 256 ≤ (getCell s c.cell).rows.length then stallWith .other
    let q : Row := { slot := c.slot, reg := r.val, dirty := false, newValue := false }
    set (frontRow s c q)
    pure q

/-- The 32 words of a register's data. -/
def rowWords (d : BitVec 2048) : List Word := (upFrom 0 32).map fun i => BitVec.ofNat 64 (elemAt d 64 i)

/-- A spill overwrites what the program has stored to the slot, also the stores that still wait in the section buffer (R233). -/
def overwriteDeferred (lo hi : Nat) : Effect → Effect
  | .stores rel ws => .stores rel (ws.filter fun w => !(lo ≤ w.addr && w.addr < hi))
  | e => e

/-- Write a register's value to its slot, as plain stores of its context that no section defers (R233; log 22). -/
def spillValue (c : CtxId) (reg : Nat) (d : BitVec 2048) : X Unit := do
  let (a, e, _) ← translateX c (vspill (← get) c + BitVec.ofNat 64 (256 * reg)) kWrite 0
  let store := fun (p : Nat × Word) =>
    ({ addr := wordKey a + 8 * p.1, mask := BitVec.allOnes 64, data := p.2, noalloc := pteNoalloc e } : WordStore)
  updSec c fun k => { k with buffer := k.buffer.map (overwriteDeferred (wordKey a) (wordKey a + 256)) }
  modify fun s => (((upFrom 0 32).zip (rowWords d)).map store).foldl (fun s w => enqueueReg s c w) s

/-- The 256 bytes of an unbound register. -/
def readW (c : CtxId) (r : Reg) : X (BitVec 2048) := do
  let _ ← ensureRow c r
  pure (← ctx c).regs.w[r].data

/-- Write an unbound register. At the first write of a section, a row newer than its slot is first written there (R234). -/
def writeW (c : CtxId) (r : Reg) (d : BitVec 2048) : X Unit := do
  let q ← ensureRow c r
  if q.dirty && !q.newValue then spillValue c r.val (← ctx c).regs.w[r].data
  modify fun s => frontRow s c { q with dirty := true, newValue := true }
  updCtx c fun x => setW x r { bound := none, data := d, spilled := false }

/-! ## VECTOR_ROW_FILL (R233, R234) -/

/-- An instruction being issued uses the row. -/
def rowInUse (s : State) (cell : Nat) (r : Row) : Bool := (getCtx s ⟨cell, r.slot⟩).inUse.contains r.reg

/-- The row to give up: of those that no instruction uses, the least recently used one that holds no new value, else the least
recently used one (R233, R234). -/
def victimRow (s : State) (cell : Nat) : Option Row :=
  let rows := (getCell s cell).rows.reverse.filter fun r => !rowInUse s cell r
  (rows.find? fun r => !r.newValue).orElse fun _ => rows.head?

/-- The victim's value goes to its slot, over whatever the program has stored there; a new value spilled makes its section not
rerunnable (R233, R234). -/
def spillRow (cell : Nat) (r : Row) : X Unit := do
  let o : CtxId := { cell := cell, slot := r.slot }
  let reg : Reg := Fin.ofNat 32 r.reg
  let w := (← ctx o).regs.w[reg]
  spillValue o r.reg w.data
  modify fun s => dropRow s o r.reg
  updCtx o fun x => setW x reg { w with spilled := true }
  if r.newValue then updSec o fun k => { k with rerunnable := false }

/-- Make room for one row. -/
def makeRoom (cell : Nat) : X Unit := do
  if 256 ≤ (getCell (← get) cell).rows.length then
    match victimRow (← get) cell with
    | some r => spillRow cell r
    | none => pure ()

/-- Fill a register from its slot, or give a zero register a row. -/
def fillRow (c : CtxId) (r : Reg) : X Unit := do
  let w := (← ctx c).regs.w[r]
  if w.spilled then
    let (a, e, _) ← translateX c (vspill (← get) c + BitVec.ofNat 64 (256 * r.val)) kRead 0
    let ws ← mapX (fun i => loadWordX c (wordKey a + 8 * i) (pteNoalloc e)) (upFrom 0 32)
    updCtx c fun x => setW x r { w with data := BitVec.ofNat 2048 (packWords 32 ws).toNat, spilled := false }
  modify fun s => frontRow s c { slot := c.slot, reg := r.val, dirty := false, newValue := false }

/-- The context whose row would be spilled next, or the one that fills. -/
def rowFillOwner (s : State) (c : CtxId) : CtxId :=
  if 256 ≤ (getCell s c.cell).rows.length then
    match victimRow s c.cell with
    | some r => { cell := c.cell, slot := r.slot }
    | none => c
  else c

/-- A computation that a move makes for a context: its stall on a translation fault and its trap are the context's (R233);
any other stall leaves the move to be tried again. -/
def ownerMove (who : CtxId) (body : X Unit) (s : State) : Except (Host.Outcome State Fault Refusal) State :=
  match body.run s with
  | .ok (_, t) => .ok t
  | .error (.stall (.xlate k e) t) => .error (.next (modCtx t who fun x => { x with wait := .xlate k e }))
  | .error (.stall _ t) => .error (.next t)
  | .error (.trap i t) => .error (.next (takeTrap t who i))

/-- A context waits on a translation fault under service (R95). -/
def waitsXlate (x : Ctx) : Bool :=
  match x.wait with
  | .xlate _ _ => true
  | _ => false

/-- VECTOR_ROW_FILL of an unbound register that is in no row; it waits while a translation of the register's owner, or of the owner of
the row to be spilled, is under service (R95). -/
def execVectorRowFill (c : CtxId) (w : Reg) (s : State) : Host.Outcome State Fault Refusal :=
  let x := getCtx s c
  if x.state ≠ .running || x.regs.w[w].bound.isSome || (rowOf s c w.val).isSome || waitsXlate x || waitsXlate (getCtx s (rowFillOwner s c)) then .next s
  else
    match ownerMove (rowFillOwner s c) (makeRoom c.cell) s with
    | .error o => o
    | .ok t =>
      match ownerMove c (fillRow c w) t with
      | .error o => o
      | .ok t => .next t

end Sys2Proof.Machine
end

