-- ==== Sys2Proof/Machine/Views.lean ====
section
/-! DEFINITION. Tensor views (R218 to R224, R229), their elements in memory (R220, R226), chunks and their progress (R223,
R225, R227, R228). -/

namespace Sys2Proof.Machine

/-! ## Records (Table 11.1) -/

/-- A view record's fields. -/
structure View where
  base : Nat
  ty : Nat
  rank : Nat
  flags : Nat
  d : List Nat
  s : List Int
  lo : Nat
  hi : Nat
  deriving DecidableEq, Repr

/-- The view of a record; its reserved bits and bytes are not looked at (R7, R8). -/
def viewOf (v : BitVec 512) : View :=
  { base := recField v 0 8, ty := recField v 8 1, rank := recField v 9 1, flags := recField v 10 2 % 32,
    d := dims4.map fun j => recField v (12 + 4 * j) 4,
    s := dims4.map fun j => (BitVec.ofNat 32 (recField v (28 + 4 * j) 4)).toInt,
    lo := recField v 44 8, hi := recField v 52 8 }

/-- A record with the fields of a view; the reserved bytes are zero. -/
def recordOf (v : View) : BitVec 512 :=
  let le := fun (n x : Nat) => (x % 2 ^ (8 * n), 8 * n)
  let fields := [le 8 v.base, le 1 v.ty, le 1 v.rank, le 2 v.flags] ++ v.d.map (le 4) ++
    v.s.map (fun i => le 4 (BitVec.ofInt 32 i).toNat) ++ [le 8 v.lo, le 8 v.hi]
  BitVec.ofNat 512 (fields.foldr (fun f acc => f.1 + 2 ^ f.2 * acc) 0)

def View.dim (v : View) (j : Nat) : Nat := v.d.getD j 1
def View.stride (v : View) (j : Nat) : Int := v.s.getD j 0
def View.isEmpty (v : View) : Bool := v.flags / 16 % 2 == 1
def View.rdonly (v : View) : Bool := v.flags / 8 % 2 == 1
def View.kaxis (v : View) : Nat := v.flags / 2 % 4
def View.mx32 (v : View) : Bool := v.flags % 2 == 1

/-- Type codes of Table 10.1 that rules name. -/
def tyF32 : Nat := 0
def tyU8 : Nat := 8
def tyI64 : Nat := 9
def tyMx : Nat := 10
def tyE8 : Nat := 11

/-- Bits of an element (Table 10.1). -/
def elemBits (ty : Nat) : Nat :=
  match ty with
  | 0 => 32
  | 1 => 64
  | 2 => 16
  | 3 => 16
  | 7 => 32
  | 9 => 64
  | 10 => 4
  | 12 => 6
  | 13 => 6
  | 14 => 4
  | 15 => 4
  | _ => 8

/-- Bytes of an element, 1 for 4 and 6 bits (R219). -/
def elemBytes (ty : Nat) : Nat := max 1 (elemBits ty / 8)

/-- Lanes of a chunk (Table 11.3). -/
def chunkLanes (ty : Nat) : Nat :=
  match elemBits ty with
  | 4 => 512
  | 6 => 340
  | w => 2048 / w

def count (d : List Nat) : Nat := d.foldl (· * ·) 1
def chunkCount (d : List Nat) (ty : Nat) : Nat := (count d + chunkLanes ty - 1) / chunkLanes ty

/-- The first check of R219 that a view fails, as a fault code. -/
def viewFault (v : View) : Option Nat :=
  if 16 ≤ v.ty then some cTYPE_MISMATCH
  else if v.rank = 0 ∨ 4 < v.rank then some cSHAPE
  else if dims4.any fun j => if j < v.rank then v.dim j == 0 else v.dim j != 1 || v.stride j != 0 then some cSHAPE
  else if 2 ^ 40 < count v.d then some cSHAPE
  else if v.rank ≤ v.kaxis then some cSHAPE
  else if v.ty = tyMx ∧ v.dim v.kaxis % (if v.mx32 then 32 else 8) ≠ 0 then some cSHAPE
  else if v.base % elemBytes v.ty ≠ 0 ∨ v.lo % elemBytes v.ty ≠ 0 ∨ v.hi % elemBytes v.ty ≠ 0 then some cALIGN
  else none

def shapeTrap {α : Type} : X α := trapWith { code := cSHAPE }
/-- TYPE_MISMATCH of an operand: the record holds the PC and names the operand, in a form that no rule gives (R239, log 107). -/
def typeTrap {α : Type} (c : CtxId) : X α := do
  let s ← get
  trapWith { code := cTYPE_MISMATCH, cursor := Config.typeOperand (getCtx s c).pc s.freeCtr }

def checkView (v : View) : X Unit :=
  match viewFault v with
  | some code => trapWith { code := code }
  | none => pure ()

/-! ## Elements (R220, R221) -/

/-- The coordinates of a logical index, d0 fastest. -/
def coords (d : List Nat) (e : Nat) : List Nat :=
  match d with
  | [] => []
  | n :: r => e % max 1 n :: coords r (e / max 1 n)

/-- The logical index of coordinates. -/
def indexOf (d : List Nat) (i : List Nat) : Nat :=
  match d, i with
  | n :: r, x :: y => x + n * indexOf r y
  | _, _ => 0

/-- The element offset of a view at destination coordinates: a dimension of size 1 broadcasts (R224). -/
def elemOff (v : View) (i : List Nat) : Int :=
  (dims4.map fun j => (if v.dim j = 1 then (0 : Int) else (i.getD j 0 : Int)) * v.stride j).sum

/-- The byte address of element offset e (R220). -/
def elemAddr (v : View) (e : Int) : Int :=
  match elemBits v.ty with
  | 4 => v.base + e / 2
  | 6 => v.base + 3 * (e / 4)
  | w => v.base + e * (w / 8 : Nat)

/-- The position of an element's lowest bit, counted from byte 0. -/
def elemBitPos (v : View) (e : Int) : Int := 8 * (v.base : Int) + (elemBits v.ty : Nat) * e

/-- The element's bytes lie wholly in [LO, HI) (R227). -/
def inBounds (v : View) (e : Int) : Bool :=
  let p := elemBitPos v e
  (v.lo : Int) ≤ p / 8 && (p + (elemBits v.ty : Nat) - 1) / 8 < (v.hi : Int)

/-- The keyed index: the distance from LO in elements (R220). -/
def keyedIndex (v : View) (e : Int) : Word :=
  BitVec.ofInt 64 ((elemBitPos v e - 8 * (v.lo : Int)) / (elemBits v.ty : Nat))

/-- Part of an element: n bits at bit `off` of `bytes` bytes at va, which are the element's bits from `low`. -/
structure Piece where
  va : Word
  bytes : Nat
  off : Nat
  n : Nat
  low : Nat
  deriving DecidableEq, Repr

/-- The pieces of an element: one access, or one for each byte of a 4- or 6-bit element. -/
def pieces (v : View) (e : Int) : List Piece :=
  let w := elemBits v.ty
  if 8 ≤ w then [⟨BitVec.ofInt 64 (elemAddr v e), w / 8, 0, w, 0⟩]
  else
    let p := elemBitPos v e
    let off := (p % 8).toNat
    let n := min w (8 - off)
    let first : Piece := ⟨BitVec.ofInt 64 (p / 8), 1, off, n, 0⟩
    if n < w then [first, ⟨BitVec.ofInt 64 (p / 8 + 1), 1, 0, w - n, n⟩] else [first]

/-- A reply awaited by an instruction that reads a peer member's share (R401): a destination of no bytes. -/
def isShareReply (a : Nat) (p : Pending) : Bool := p.window && p.addr == a && decide (p.dest = .x 0 0 false)

/-- A word of a peer member's share: the reply, or a request and a stall. -/
def peerWord (c : CtxId) (va : Word) (l : Loc) : X Word := do
  let a := wordKey l.addr
  let x ← ctx c
  match x.loads.find? (isShareReply a) with
  | some p =>
    match p.value with
    | some v =>
      updCtx c fun y => { y with loads := y.loads.filter fun q => q.id != p.id }
      pure v
    | none => stallWith .other
  | none => do
    loadPlace c va { l with addr := a } (.x 0 0 false) false
    stallWith .other

/-- The bytes of an access that the instruction waits for. -/
def readLoc (c : CtxId) (va : Word) (l : Loc) (n : Nat) : X Nat := do
  let s ← get
  let a := wordKey l.addr
  match l.kind with
  | .frame => pure (readLE s.mem l.addr n)
  | .scratch => pure (bytesOfWord (storeWord s c a) (l.addr % 8) n)
  | .global => loadBytesX c l.addr n (pteNoalloc l.pte)
  | .window =>
    if keySpace a = 1 then pure (bytesOfWord (storeWord s c a) (l.addr % 8) n)
    else pure (bytesOfWord (← peerWord c va l) (l.addr % 8) n)

def readPiece (c : CtxId) (lane : Nat) (p : Piece) : X Nat := do
  let l ← locate c p.va p.bytes p.bytes kRead lane
  let v ← readLoc c p.va l p.bytes
  pure (v / 2 ^ p.off % 2 ^ p.n * 2 ^ p.low)

/-- The bits of an element (R226). -/
def readElemX (c : CtxId) (v : View) (lane : Nat) (e : Int) : X Nat :=
  foldX (fun acc p => do pure (acc + (← readPiece c lane p))) 0 (pieces v e)

/-- One element to be stored: its lane, its pieces, its bits. -/
structure LaneStore where
  lane : Nat
  pieces : List Piece
  bits : Nat

/-- The masked store of a piece at its place (R48). -/
def pieceStore (l : Loc) (p : Piece) (v : Nat) : WordStore :=
  let sh := 8 * (l.addr % 8) + p.off
  { addr := wordKey l.addr, mask := BitVec.ofNat 64 ((2 ^ p.n - 1) * 2 ^ sh),
    data := BitVec.ofNat 64 (v / 2 ^ p.low % 2 ^ p.n * 2 ^ sh), noalloc := pteNoalloc l.pte, leaf := l.leaf }

def atHomeAtOnce (l : Loc) : Bool := decide (l.kind = .frame) || decide (l.kind = .scratch)

/-- Where every piece of the stores goes: translations, protection and watchpoints of all lanes first (R227, R266). -/
def placeStores (c : CtxId) (items : List LaneStore) : X (List (Loc × WordStore)) := do
  let flat := items.flatMap fun i => i.pieces.map fun p => (i.lane, p, i.bits)
  mapX (fun q => do
    let l ← locate c q.2.1.va q.2.1.bytes q.2.1.bytes kWrite q.1
    pure (l, pieceStore l q.2.1 q.2.2)) flat

/-- A further store of a chunk, behind those so far, youngest first: the parts of one aligned word become one store (R48, R226). -/
def addStore (w : Loc × WordStore) : List (Loc × WordStore) → List (Loc × WordStore)
  | [] => [w]
  | h :: r =>
    if h.2.addr = w.2.addr then
      (h.1, { h.2 with mask := h.2.mask ||| w.2.mask, data := mergeBits h.2.data w.2.mask w.2.data }) :: r
    else h :: addStore w r

/-- The stores of a chunk, one for each aligned word that it touches. -/
def wordStores (ws : List (Loc × WordStore)) : List (Loc × WordStore) := ws.foldl (fun acc w => addStore w acc) []

/-- Where the instruction stands: its own progress, or the start (R228). -/
def progressOf (x : Ctx) : VProgress :=
  match x.progress with
  | some p => if p.pc = x.pc then p else { pc := x.pc, chunk := 0, acc := [], got := [] }
  | none => { pc := x.pc, chunk := 0, acc := [], got := [] }

def setProgress (c : CtxId) (p : VProgress) (s : State) : State := modCtx s c fun x => { x with progress := some p }

/-- Cluster-store words written from the chunk's n-th on: all at once, or one in each step when accesses are made apart (log 3). -/
def storeHomes (c : CtxId) (n : Nat) (home : List WordStore) : X Unit := do
  let s ← get
  let write := fun (ws : List WordStore) => { s with mem := ws.foldl (fun m w => writeMasked m w.addr w.mask w.data) s.mem }
  if s.lateLoads && n + 1 < home.length then
    set (setProgress c { progressOf (getCtx s c) with stored := n + 1 } (write ((home.drop n).take 1)))
    stallWith .other
  else set (write (home.drop n))

/-- The stores of one chunk at their places (R226): the words for other homes as one effect entry or into registration, then the
cluster-store words. What a stall has left behind is not repeated (R228). -/
def storeAll (c : CtxId) (first : Bool) (ws : List (Loc × WordStore)) : X Unit := do
  let home := ws.filter fun w => atHomeAtOnce w.1
  let away := (ws.filter fun w => !atHomeAtOnce w.1).map (·.2)
  if first then
    forEach home fun w => if w.1.kind = .frame then journalStore c w.1.addr else pure ()
    if !away.isEmpty then
      if (← ctx c).sec.irrevocable then modify fun s => away.foldl (fun s w => enqueueReg s c w) s
      else deferEffect c (.stores false away)
  storeHomes c (progressOf (← ctx c)).stored (home.map (·.2))

/-- The stores of one chunk (R226), each of one word; a chunk that has stored part of its words goes on with those of the cluster
store. -/
def storeChunk (c : CtxId) (merge : List (Loc × WordStore) → List (Loc × WordStore)) (items : List LaneStore) : X Unit := do
  let first := (progressOf (← ctx c)).stored == 0
  let ws ← placeStores c (if first then items else items.filter fun i => i.pieces.all fun p => isLocal p.va)
  storeAll c first (merge ws)

def storeLanes (c : CtxId) (items : List LaneStore) : X Unit := storeChunk c wordStores items

/-! ## Progress of an instruction (R225, R228) -/

/-- A value for each lane, in order. A stall keeps the values that have arrived, and the lanes after it are still tried: of several
faults only the first is raised (R228, R265). When accesses are made apart, a step takes the lanes of one word (`word`; log 3). -/
def laneLoop (c : CtxId) (p : VProgress) (op : Nat) (word : Nat → Nat) (f : Nat → X Nat) :
    List Nat → List (Nat × Nat) → List Nat → Option Wait → Option Nat → X (List (Nat × Nat) × List Nat)
  | [], got, acc, none, _ => pure (got, acc.reverse)
  | [], got, _, some w, _ => fun s => .error (.stall w (setProgress c { p with got := got } s))
  | i :: r, got, acc, stalled, last => fun s =>
    match got.find? fun g => g.1 == op * 1024 + i with
    | some g => laneLoop c p op word f r got (g.2 :: acc) stalled last s
    | none =>
      if s.lateLoads && last.any (· != word i) then laneLoop c p op word f r got acc (some (stalled.getD .other)) last s
      else
        match f i s with
        | .ok (v, s') => laneLoop c p op word f r ((op * 1024 + i, v) :: got) (v :: acc) stalled (some (word i)) s'
        | .error (.stall w t) =>
          match stalled, w with
          | some _, .xlate _ _ => laneLoop c p op word f r got acc stalled last s
          | some _, _ => laneLoop c p op word f r got acc stalled last t
          | none, _ => laneLoop c p op word f r got acc (some w) last t
        | .error e => if stalled.isSome then laneLoop c p op word f r got acc stalled last s else .error e

/-- The lanes of one operand, threaded through the progress. -/
def lanesOf (c : CtxId) (p : VProgress) (op : Nat) (word : Nat → Nat) (lanes : List Nat) (f : Nat → X Nat) :
    X (VProgress × List Nat) := do
  let r ← laneLoop c p op word f lanes p.got [] none none
  pure ({ p with got := r.1 }, r.2)

/-- The aligned word of a view's element (R48). -/
def elemWord (v : View) (e : Int) : Nat := (elemAddr v e).toNat / 8

/-- Chunks from the progress on; each gives what the later ones need. -/
def chunkLoop (c : CtxId) (body : VProgress → X (List Word)) : Nat → VProgress → X (List Word)
  | 0, p => pure p.acc
  | n + 1, p => do
    let acc ← body p
    let q : VProgress := { p with chunk := p.chunk + 1, acc := acc, got := [], stored := 0 }
    if n ≠ 0 then
      modify (setProgress c q)
      if (← get).lateLoads then stallWith .other
    chunkLoop c body n q

def chunks (c : CtxId) (n : Nat) (body : VProgress → X (List Word)) : X (List Word) := do
  let p := progressOf (← ctx c)
  chunkLoop c body (n - p.chunk) p

/-! ## Operands (R222, R224, R238) -/

inductive VOp where
  | view (v : View) (b : Binding)
  | reg (r : Reg)

/-- An operand field: a bound view or the register's lanes. -/
def vop (c : CtxId) (r : Reg) : X VOp := do
  needW c r
  match (← ctx c).regs.w[r].bound with
  | some b => pure (.view (viewOf b.view) b)
  | none => pure (.reg r)

def VOp.isView : VOp → Bool
  | .view _ _ => true
  | .reg _ => false

def VOp.view? : VOp → Option View
  | .view v _ => some v
  | .reg _ => none

/-- All bound, or all unbound (R224). -/
def sameKind (os : List VOp) : X Unit := do
  if !(os.all VOp.isView || os.all fun o => !o.isView) then shapeTrap

/-- A source's shape matches the destination's, a dimension of size 1 broadcasting (R224). -/
def shapeFits (d : List Nat) (v : View) : Bool := dims4.all fun j => v.dim j == d.getD j 1 || v.dim j == 1

/-- The type field beside a view's TYPE (R238). -/
def fieldFits (field ty : Nat) : Bool := field == 0 || field == ty

def opTypes (field : Nat) (os : List VOp) : List Nat := os.map fun o => match o with
  | .view v _ => v.ty
  | .reg _ => field

/-- The element type of operands that must agree: one type, and the field beside bound ones. -/
def commonType (c : CtxId) (field : Nat) (os : List VOp) : X Nat := do
  let ts := opTypes field os
  let ty := ts.headD 0
  if ts.any (· != ty) then typeTrap c
  if os.any VOp.isView && !fieldFits field ty then typeTrap c
  pure ty

def isFloatTy (ty : Nat) : Bool := ty ≤ 5
def isIntTy (ty : Nat) : Bool := 6 ≤ ty && ty ≤ 9
def isNumTy (ty : Nat) : Bool := ty ≤ 9

def anyEmpty (os : List VOp) : Bool := os.any fun o => match o with
  | .view v _ => v.isEmpty
  | .reg _ => false

/-- The iteration shape: the destination view's, or none for a register. -/
def opDims : VOp → List Nat
  | .view v _ => v.d
  | .reg _ => []

/-- Chunks of an operand at an element type, and the lanes of chunk k that are no padding (R223). -/
def opChunks (o : VOp) (ty : Nat) : Nat :=
  match o with
  | .view v _ => chunkCount v.d ty
  | .reg _ => 1
def dimLanes (d : List Nat) (ty k : Nat) : List Nat := upFrom 0 (min (chunkLanes ty) (count d - k * chunkLanes ty))
def opLanes (o : VOp) (ty k : Nat) : List Nat :=
  match o with
  | .view v _ => dimLanes v.d ty k
  | .reg _ => upFrom 0 (chunkLanes ty)

/-- The lane's logical index and its coordinates in a shape. -/
def laneCoords (d : List Nat) (ty k i : Nat) : List Nat := coords d (k * chunkLanes ty + i)

/-- The first fault of a lane: a source or the destination out of bounds, then a store through RDONLY (R227). -/
def laneFault (d : List Nat) (ty k : Nat) (reads : List View) (dst : Option View) (i : Nat) : Option (Nat × Int) :=
  let at_ := laneCoords d ty k i
  let vs := reads ++ dst.toList
  match vs.find? fun v => !inBounds v (elemOff v at_) with
  | some v => some (cBOUNDS, elemAddr v (elemOff v at_))
  | none =>
    match dst with
    | some v => if v.rdonly then some (cPROT, elemAddr v (elemOff v at_)) else none
    | none => none

/-- The checks of R227 on a chunk: the lowest failing lane, its address, the chunk number. -/
def checkChunk (d : List Nat) (ty k : Nat) (reads : List View) (dst : Option View) : X Unit :=
  match (dimLanes d ty k).findSome? fun i => (laneFault d ty k reads dst i).map fun f => (i, f) with
  | some (i, code, a) =>
    trapWith { code := code, vaddr := BitVec.ofInt 64 a, lane := i, cursor := BitVec.ofNat 64 k }
  | none => pure ()

/-- The values of one source for a chunk. -/
def srcLanes (c : CtxId) (p : VProgress) (op : Nat) (o : VOp) (ty : Nat) (d : List Nat) (chunkTy : Nat) (lanes : List Nat) :
    X (VProgress × List Nat) :=
  match o with
  | .reg r => do
    let w ← readW c r
    pure (p, lanes.map fun i => elemAt w (elemBits ty) i)
  | .view v _ => 
    lanesOf c p op (fun i => elemWord v (elemOff v (laneCoords d chunkTy p.chunk i))) lanes fun i =>
      readElemX c v i (elemOff v (laneCoords d chunkTy p.chunk i))

/-- Write a chunk's values: a register (higher lanes zero) or the view's elements. -/
def dstLanes (c : CtxId) (o : VOp) (ty k : Nat) (vals : List Nat) : X Unit :=
  match o with
  | .reg r => writeW c r (packElems 2048 (elemBits ty) vals)
  | .view v _ =>
    storeLanes c (((upFrom 0 vals.length).zip vals).map fun q =>
      { lane := q.1, pieces := pieces v (elemOff v (laneCoords v.d ty k q.1)), bits := q.2 })

/-- Values that have arrived are kept over a stall of the chunk's stores (R228). -/
def keepGot (c : CtxId) (p : VProgress) : X Unit := do
  if !p.got.isEmpty then
    let n := (progressOf (← ctx c)).stored
    modify (setProgress c { p with stored := n })

end Sys2Proof.Machine
end

