-- ==== Sys2Proof/Machine/Vector.lean ====
section
/-! DEFINITION. Vector arithmetic, comparison, masks and the function family (R240, R241, R249 to R252, R257). -/

namespace Sys2Proof.Machine

/-- The floating-point format of a type code (Table 10.1). -/
def fmtOfTy (ty : Nat) : FpFmt :=
  match ty with
  | 1 => fp64
  | 2 => bf16
  | 3 => fp16
  | 4 => e4m3
  | 5 => e5m2
  | 12 => e2m3
  | 13 => e3m2
  | 15 => e2m1
  | 10 => e2m1
  | _ => fp32

def signedTy (ty : Nat) : Bool := ty != tyU8

/-- An integer element's value. -/
def intOf (ty v : Nat) : Int := if signedTy ty then (BitVec.ofNat (elemBits ty) v).toInt else v

/-- A literal converted to the element type (R240), with its flags. -/
def literalFor (ty mode : Nat) (v : Word32) : Nat × FFlags :=
  if isFloatTy ty then fvRound (fmtOfTy ty) mode false (fpDecode fp32 v.toNat)
  else ((v.signExtend 64).toNat % 2 ^ elemBits ty, 0)

/-- Lane lists turned into one list of operand values for each lane. -/
def laneRows : Nat → List (List Nat) → List (List Nat)
  | 0, _ => []
  | n + 1, cols => cols.map (·.headD 0) :: laneRows n (cols.map (·.drop 1))

/-- Read the sources of a chunk, operand by operand. -/
def readCols (c : CtxId) (ty : Nat) (d : List Nat) (chunkTy : Nat) (lanes : List Nat) :
    Nat → List VOp → VProgress → X (VProgress × List (List Nat))
  | _, [], p => pure (p, [])
  | op, o :: r, p => do
    let (p1, vs) ← srcLanes c p op o ty d chunkTy lanes
    let (p2, rest) ← readCols c ty d chunkTy lanes (op + 1) r p1
    pure (p2, vs :: rest)

def allFlags (rs : List (Nat × FFlags)) : FFlags := rs.foldl (fun acc r => acc ||| r.2) 0

/-- The chunks of an element-wise instruction (R241): `f` takes the sources' values of one lane. -/
def mapOp (c : CtxId) (dst : VOp) (srcs : List VOp) (inTy outTy : Nat) (f : List Nat → Nat × FFlags) : X Unit := do
  let _ ← chunks c (opChunks dst outTy) fun p => do
    let d := opDims dst
    let lanes := match dst with
      | .view v _ => dimLanes v.d outTy p.chunk
      | .reg _ => upFrom 0 (min (chunkLanes inTy) (chunkLanes outTy))
    if dst.isView then checkChunk d outTy p.chunk (srcs.filterMap VOp.view?) dst.view?
    let (p1, cols) ← readCols c inTy d outTy lanes 0 srcs p
    keepGot c p1
    let rs := (laneRows lanes.length cols).map f
    dstLanes c dst outTy p.chunk (rs.map (·.1))
    addFlags c (allFlags rs)
    pure p.acc

/-- Shapes of all sources against the destination's (R224). -/
def checkShapes (dst : VOp) (srcs : List VOp) : X Unit := do
  if dst.isView && !(srcs.filterMap VOp.view?).all (shapeFits (opDims dst)) then shapeTrap

/-- An instruction that names an EMPTY view does nothing (R229). -/
def unlessEmpty (os : List VOp) (body : X Unit) : X Unit := if anyEmpty os then pure () else body

/-- An instruction without conversion over its operands: mixture, shapes, one type (R224, R238). -/
def withOps (c : CtxId) (t : Nat) (d : Reg) (srcs : List Reg) (body : VOp → List VOp → Nat → X Unit) : X Unit := do
  let dst ← vop c d
  let ss ← mapX (vop c) srcs
  unlessEmpty (dst :: ss) do
    sameKind (dst :: ss)
    checkShapes dst ss
    body dst ss (← commonType c t (dst :: ss))

/-- An integer result in its width. -/
def wrapInt (ty : Nat) (i : Int) : Nat := (BitVec.ofInt (elemBits ty) i).toNat

/-- The register of operand b, if it is one, and its literal. -/
def bReg : Option OpL → List Reg
  | some (.reg r) => [r]
  | _ => []
def bLit : Option OpL → Option Word32
  | some (.lit v) => some v
  | _ => none

/-- An element-wise instruction (R241): float function by format and mode, integer function by type. -/
def elementwise (c : CtxId) (t : Fin 8) (d a : Reg) (b : Option OpL) (old : Bool)
    (ff : Option (FpFmt → Nat → Nat → Nat → Nat → Nat × FFlags)) (fi : Nat → Nat → Nat → Nat → Int) : X Unit := do
  withOps c t.val d (a :: bReg b) fun dst ss ty => do
    if !isNumTy ty || (isFloatTy ty && ff.isNone) then typeTrap c
    let mode := (← ctx c).frm.toNat
    let lit := (bLit b).map (literalFor ty mode)
    let srcs := if old then ss ++ [dst] else ss
    mapOp c dst srcs ty ty fun vs =>
      let x := vs.headD 0
      let y := match lit with
        | some l => l.1
        | none => vs.getD 1 0
      let z := vs.getLastD 0
      if isFloatTy ty then (match ff with | some f => f (fmtOfTy ty) mode x y z | none => (0, 0))
      else (wrapInt ty (fi ty x y z), 0)
    match lit with
    | some l => addFlags c l.2
    | none => pure ()

/-- Operations on exact values of a format. -/
def val2 (g : FpFmt → Nat → FVal → FVal → Nat × FFlags) (f : FpFmt) (mode x y : Nat) : Nat × FFlags :=
  g f mode (fpDecode f x) (fpDecode f y)

/-- A sign operation of FABS and FNEG (R144). -/
def signOp (f : FpFmt) (x : Nat) (g : Nat → Nat → Nat) : Nat × FFlags :=
  (if isNaN (fpDecode f x) then canonNaN f else g (signBit f true) x, 0)

/-- VADD (Table 12.3). -/
def execVadd (t : Fin 8) (d a : Reg) (b : OpL) (s : State) : Host.Outcome State Fault Refusal :=
  issueOp s (lenL b) (elementwise s.cur t d a (some b) false (some fun f m x y _ => val2 fvAdd f m x y) fun ty x y _ => intOf ty x + intOf ty y)

/-- VSUB (Table 12.3). -/
def execVsub (t : Fin 8) (d a : Reg) (b : OpL) (s : State) : Host.Outcome State Fault Refusal :=
  issueOp s (lenL b) (elementwise s.cur t d a (some b) false (some fun f m x y _ => fvAdd f m (fpDecode f x) (negate (fpDecode f y))) fun ty x y _ => intOf ty x - intOf ty y)

/-- VMUL (Table 12.3). -/
def execVmul (t : Fin 8) (d a : Reg) (b : OpL) (s : State) : Host.Outcome State Fault Refusal :=
  issueOp s (lenL b) (elementwise s.cur t d a (some b) false (some fun f m x y _ => val2 fvMul f m x y) fun ty x y _ => intOf ty x * intOf ty y)

/-- VFMA (Table 12.3). -/
def execVfma (t : Fin 8) (d a : Reg) (b : OpL) (s : State) : Host.Outcome State Fault Refusal :=
  issueOp s (lenL b) (elementwise s.cur t d a (some b) true (some fun f m x y z => fvFma f m (fpDecode f x) (fpDecode f y) (fpDecode f z)) fun ty x y z => intOf ty x * intOf ty y + intOf ty z)

/-- VFMS (Table 12.3). -/
def execVfms (t : Fin 8) (d a : Reg) (b : OpL) (s : State) : Host.Outcome State Fault Refusal :=
  issueOp s (lenL b) (elementwise s.cur t d a (some b) true (some fun f m x y z => fvFma f m (fpDecode f x) (fpDecode f y) (negate (fpDecode f z))) fun ty x y z => intOf ty x * intOf ty y - intOf ty z)

/-- VMIN (Table 12.3). -/
def execVmin (t : Fin 8) (d a : Reg) (b : OpL) (s : State) : Host.Outcome State Fault Refusal :=
  issueOp s (lenL b) (elementwise s.cur t d a (some b) false (some fun f _ x y _ => fpMinMax f false x y) fun ty x y _ => min (intOf ty x) (intOf ty y))

/-- VMAX (Table 12.3). -/
def execVmax (t : Fin 8) (d a : Reg) (b : OpL) (s : State) : Host.Outcome State Fault Refusal :=
  issueOp s (lenL b) (elementwise s.cur t d a (some b) false (some fun f _ x y _ => fpMinMax f true x y) fun ty x y _ => max (intOf ty x) (intOf ty y))

/-- VABS (Table 12.3). -/
def execVabs (t : Fin 8) (d a : Reg) (s : State) : Host.Outcome State Fault Refusal :=
  issueOp s 4 (elementwise s.cur t d a none false (some fun f _ x _ _ => signOp f x fun sg u => u % sg) fun ty x _ _ => (intOf ty x).natAbs)

/-- VNEG (Table 12.3). -/
def execVneg (t : Fin 8) (d a : Reg) (s : State) : Host.Outcome State Fault Refusal :=
  issueOp s 4 (elementwise s.cur t d a none false (some fun f _ x _ _ => signOp f x fun sg u => u ^^^ sg) fun ty x _ _ => -(intOf ty x))

/-- VAND (Table 12.3). -/
def execVand (t : Fin 8) (d a : Reg) (b : OpL) (s : State) : Host.Outcome State Fault Refusal :=
  issueOp s (lenL b) (elementwise s.cur t d a (some b) false (some fun _ _ x y _ => (x &&& y, 0)) fun _ x y _ => (x &&& y : Nat))

/-- VOR (Table 12.3). -/
def execVor (t : Fin 8) (d a : Reg) (b : OpL) (s : State) : Host.Outcome State Fault Refusal :=
  issueOp s (lenL b) (elementwise s.cur t d a (some b) false (some fun _ _ x y _ => (x ||| y, 0)) fun _ x y _ => (x ||| y : Nat))

/-- VXOR (Table 12.3). -/
def execVxor (t : Fin 8) (d a : Reg) (b : OpL) (s : State) : Host.Outcome State Fault Refusal :=
  issueOp s (lenL b) (elementwise s.cur t d a (some b) false (some fun _ _ x y _ => (x ^^^ y, 0)) fun _ x y _ => (x ^^^ y : Nat))

/-- VSHL (Table 12.3). -/
def execVshl (t : Fin 8) (d a : Reg) (b : OpL) (s : State) : Host.Outcome State Fault Refusal :=
  issueOp s (lenL b) (elementwise s.cur t d a (some b) false (none) fun ty x y _ => (x * 2 ^ (y % elemBits ty) : Nat))

/-- VSHR (Table 12.3). -/
def execVshr (t : Fin 8) (d a : Reg) (b : OpL) (s : State) : Host.Outcome State Fault Refusal :=
  issueOp s (lenL b) (elementwise s.cur t d a (some b) false (none) fun ty x y _ => (x / 2 ^ (y % elemBits ty) : Nat))

/-- VSRA (Table 12.3). -/
def execVsra (t : Fin 8) (d a : Reg) (b : OpL) (s : State) : Host.Outcome State Fault Refusal :=
  issueOp s (lenL b) (elementwise s.cur t d a (some b) false (none) fun ty x y _ => (BitVec.ofNat (elemBits ty) x).toInt / 2 ^ (y % elemBits ty))

/-! ## Compare, select, masks (R250 to R252) -/

/-- A relation of VCMP on one lane: eq, ne, lt, le. -/
def cmpLane (ty cond x y : Nat) : Bool × FFlags :=
  if isFloatTy ty then
    let u := fpDecode (fmtOfTy ty) x
    let v := fpDecode (fmtOfTy ty) y
    let nan := isNaN u || isNaN v
    let nv := flagIf (isSnan u || isSnan v || (2 ≤ cond && nan)) fNV
    match cond with
    | 0 => (fvEq u v, nv)
    | 1 => (!fvEq u v, nv)
    | 2 => (!nan && fvLess false u v, nv)
    | _ => (!nan && !fvLess false v u, nv)
  else
    let u := intOf ty x
    let v := intOf ty y
    match cond with
    | 0 => (u == v, 0)
    | 1 => (u != v, 0)
    | 2 => (decide (u < v), 0)
    | _ => (decide (u ≤ v), 0)

/-- Lane results as the bits of a mask. -/
def maskOf (bs : List Bool) : Nat := bs.foldr (fun b acc => acc * 2 + if b then 1 else 0) 0

/-- The broadcast shape of two views: the larger of each pair of sizes, equal or with a 1 (R250). -/
def jointShape (u v : View) : Option (List Nat) :=
  if dims4.all fun j => u.dim j == v.dim j || u.dim j == 1 || v.dim j == 1 then
    some (dims4.map fun j => max (u.dim j) (v.dim j))
  else none

/-- The iteration shape of VCMP (R250): none for registers. -/
def cmpShape (a b : VOp) : X (List Nat) :=
  match a.view?, b.view? with
  | some u, some v => match jointShape u v with
    | some d => pure d
    | none => shapeTrap
  | none, none => pure []
  | _, _ => shapeTrap

/-- Mask words of a result so far. -/
def maskWords (m : Nat) : List Word := (upFrom 0 4).map fun i => BitVec.ofNat 64 (m / 2 ^ (64 * i))

/-- VCMP (R250). -/
def vcmpOp (c : CtxId) (t cond : Nat) (kd : Fin 8) (a b : Reg) : X Unit := do
  let u ← vop c a
  let v ← vop c b
  unlessEmpty [u, v] do
    let d ← cmpShape u v
    let ty ← commonType c t [u, v]
    if !isNumTy ty then typeTrap c
    let n := if u.isView then chunkCount d ty else 1
    let acc ← chunks c n fun p => do
      let lanes := if u.isView then dimLanes d ty p.chunk else upFrom 0 (chunkLanes ty)
      if u.isView then checkChunk d ty p.chunk ([u, v].filterMap VOp.view?) none
      let (_, cols) ← readCols c ty d ty lanes 0 [u, v] p
      let rs := (laneRows lanes.length cols).map fun q => cmpLane ty cond (q.headD 0) (q.getD 1 0)
      addFlags c (rs.foldl (fun acc r => acc ||| r.2) 0)
      pure (maskWords (maskOf (rs.map (·.1)) ||| (packWords 4 p.acc).toNat))
    putK c kd (BitVec.ofNat 256 (packWords 4 acc).toNat)

/-- VCMP. -/
def execVcmp (t : Fin 8) (cond : Fin 4) (kd : Fin 8) (a b : Reg) (s : State) : Host.Outcome State Fault Refusal :=
  issueOp s 4 (vcmpOp s.cur t.val cond.val kd a b)

/-- VSEL (R251): bit i of the mask governs lane i of every chunk. -/
def vselOp (c : CtxId) (t : Nat) (d a : Reg) (kb : Fin 8) : X Unit := do
  withOps c t d [a] fun dst ss ty => do
    if !isNumTy ty then typeTrap c
    let k := kVal (← ctx c) kb
    let _ ← chunks c (opChunks dst ty) fun p => do
      let lanes := opLanes dst ty p.chunk
      let d := opDims dst
      if dst.isView then checkChunk d ty p.chunk (ss.filterMap VOp.view?) dst.view?
      let (p1, cols) ← readCols c ty d ty lanes 0 (ss ++ [dst]) p
      keepGot c p1
      let rows := (lanes.zip (laneRows lanes.length cols)).map fun q =>
        if bit k q.1 then q.2.headD 0 else q.2.getD 1 0
      dstLanes c dst ty p.chunk rows
      pure p.acc

/-- VSEL. -/
def execVsel (t : Fin 8) (d a : Reg) (kb : Fin 8) (s : State) : Host.Outcome State Fault Refusal :=
  issueOp s 4 (vselOp s.cur t.val d a kb)

/-- A mask operation (Table 12.4). -/
def kOp (c : CtxId) (d a b : Fin 8) (f : BitVec 256 → BitVec 256 → BitVec 256) : X Unit := do
  let x ← ctx c
  putK c d (f (kVal x a) (kVal x b))

/-- VKOP.and. -/
def execVkopAnd (d a b : Fin 8) (s : State) : Host.Outcome State Fault Refusal :=
  issueOp s 4 (kOp s.cur d a b fun x y => x &&& y)

/-- VKOP.or. -/
def execVkopOr (d a b : Fin 8) (s : State) : Host.Outcome State Fault Refusal :=
  issueOp s 4 (kOp s.cur d a b fun x y => x ||| y)

/-- VKOP.xor. -/
def execVkopXor (d a b : Fin 8) (s : State) : Host.Outcome State Fault Refusal :=
  issueOp s 4 (kOp s.cur d a b fun x y => x ^^^ y)

/-- VKOP.andn. -/
def execVkopAndn (d a b : Fin 8) (s : State) : Host.Outcome State Fault Refusal :=
  issueOp s 4 (kOp s.cur d a b fun x y => x &&& ~~~y)

/-- VKOP.not. -/
def execVkopNot (d a : Fin 8) (s : State) : Host.Outcome State Fault Refusal :=
  issueOp s 4 (kOp s.cur d a a fun x _ => ~~~x)

/-- VKOP.popc. -/
def execVkopPopc (d : Reg) (a : Fin 8) (s : State) : Host.Outcome State Fault Refusal :=
  issueOp s 4 do
    let k := kVal (← ctx s.cur) a
    putX s.cur d (BitVec.ofNat 64 ((upFrom 0 256).filter fun i => bit k i).length)

/-- VKOP.splat. -/
def execVkopSplat (d : Fin 8) (a : Reg) (s : State) : Host.Outcome State Fault Refusal :=
  issueOp s 4 do putK s.cur d (if (← getX s.cur a) = 0 then 0 else BitVec.allOnes 256)

/-- VKOP.fromx. -/
def execVkopFromx (d : Fin 8) (a : Reg) (s : State) : Host.Outcome State Fault Refusal :=
  issueOp s 4 do putK s.cur d (BitVec.ofNat 256 (← getX s.cur a).toNat)

/-! ## The function family (R217, R257) -/

/-- A function of FP32 elements, rounding by RNE whatever FRM holds. -/
def vfunOp (c : CtxId) (t : Fin 8) (d a : Reg) (b : Option OpL) (f : Nat → Nat → Nat × FFlags) : X Unit := do
  withOps c t.val d (a :: bReg b) fun dst ss ty => do
    if ty ≠ tyF32 then typeTrap c
    let lit := (bLit b).map (literalFor ty (← ctx c).frm.toNat)
    mapOp c dst ss ty ty fun vs => f (vs.headD 0) (match lit with | some l => l.1 | none => vs.getD 1 0)
    match lit with
    | some l => addFlags c l.2
    | none => pure ()

/-- VRCP.A (Table 12.7). -/
def execVrcpA (t : Fin 8) (d a : Reg) (s : State) : Host.Outcome State Fault Refusal := issueOp s 4 (vfunOp s.cur t d a none fun x _ => fvRcp fp32 12 (fpDecode fp32 x))

/-- VRSQ.A (Table 12.7). -/
def execVrsqA (t : Fin 8) (d a : Reg) (s : State) : Host.Outcome State Fault Refusal := issueOp s 4 (vfunOp s.cur t d a none fun x _ => fvRsqrt fp32 12 (fpDecode fp32 x))

/-- VRSQ (Table 12.7). -/
def execVrsq (t : Fin 8) (d a : Reg) (s : State) : Host.Outcome State Fault Refusal := issueOp s 4 (vfunOp s.cur t d a none fun x _ => fvRsqrt fp32 24 (fpDecode fp32 x))

/-- VSQRT (Table 12.7). -/
def execVsqrt (t : Fin 8) (d a : Reg) (s : State) : Host.Outcome State Fault Refusal := issueOp s 4 (vfunOp s.cur t d a none fun x _ => fvSqrt fp32 RNE (fpDecode fp32 x))

/-- VEXP2 (Table 12.7). -/
def execVexp2 (t : Fin 8) (d a : Reg) (s : State) : Host.Outcome State Fault Refusal := issueOp s 4 (vfunOp s.cur t d a none fun x _ => fvExp2 (fpDecode fp32 x))

/-- VLOG2 (Table 12.7). -/
def execVlog2 (t : Fin 8) (d a : Reg) (s : State) : Host.Outcome State Fault Refusal := issueOp s 4 (vfunOp s.cur t d a none fun x _ => fvLog2 (fpDecode fp32 x))

/-- VTANH (Table 12.7). -/
def execVtanh (t : Fin 8) (d a : Reg) (s : State) : Host.Outcome State Fault Refusal := issueOp s 4 (vfunOp s.cur t d a none fun x _ => fvTanh (fpDecode fp32 x))

/-- VDIV (Table 12.7). -/
def execVdiv (t : Fin 8) (d a : Reg) (b : OpL) (s : State) : Host.Outcome State Fault Refusal :=
  issueOp s (lenL b) (vfunOp s.cur t d a (some b) fun x y => fvDiv fp32 RNE (fpDecode fp32 x) (fpDecode fp32 y))

end Sys2Proof.Machine
end

