-- ==== Sys2Proof/Machine/VectorMove.lean ====
section
/-! DEFINITION. Views and binding, vector loads, stores, moves, gathers and scatters (R229, R230, R242 to R248, R264 to
R266), keyed random bits (R262, R263). -/

namespace Sys2Proof.Machine

/-! ## Views and binding (R242 to R245) -/

def getT (x : Ctx) (n : Fin 16) : BitVec 512 := x.regs.t[n]
def putT (c : CtxId) (n : Fin 16) (v : BitVec 512) : X Unit :=
  updCtx c fun x => { x with regs := { x.regs with t := x.regs.t.set n.val v n.isLt } }

/-- The eight words of a record are accessed as plain doublewords (R242). -/
def checkRecord (va : Word) : X Unit := do if va.toNat % 8 ≠ 0 then trapWith { code := cALIGN, vaddr := va }

/-- VIEW (R242). -/
def execView (td : Fin 16) (a : Reg) (s : State) : Host.Outcome State Fault Refusal :=
  issueOp s 4 do
    let c := s.cur
    let va ← getX c a
    checkRecord va
    let (_, ws) ← lanesOf c (progressOf (← ctx c)) 0 id (upFrom 0 8) fun i => do
      let w := va + BitVec.ofNat 64 (8 * i)
      let l ← locate c w 8 8 kRead 0
      readLoc c w l 8
    putT c td (recordOf (viewOf (packElems 512 64 ws)))

/-- VIEWS (R242): the t register's record to memory, its reserved bits and bytes zero (R8). -/
def execViews (td : Fin 16) (a : Reg) (s : State) : Host.Outcome State Fault Refusal :=
  issueOp s 4 do
    let c := s.cur
    let va ← getX c a
    checkRecord va
    let v := recordOf (viewOf (getT (← ctx c) td))
    let _ ← chunks c 8 fun p => do
      storeOp c .plain 8 (va + BitVec.ofNat 64 (8 * p.chunk)) (elemAt v 64 p.chunk)
      pure []

/-- The dense rank-1 view of VMKV (R243). -/
def denseView (ty base len : Nat) : View :=
  { base := base, ty := ty, rank := 1, flags := if len = 0 then 16 else 0, d := [max len 1, 1, 1, 1], s := [1, 0, 0, 0],
    lo := base, hi := base + len * elemBytes ty }

/-- VMKV (R243). -/
def execVmkv (t : Fin 8) (td : Fin 16) (a : Reg) (b : OpL) (s : State) : Host.Outcome State Fault Refusal :=
  issueOp s (lenL b) do
    let c := s.cur
    let base ← getX c a
    let len ← opIntL c b
    if 2 ^ 32 ≤ len.toNat then shapeTrap
    putT c td (recordOf (denseView t.val base.toNat len.toNat))

/-- PART of R229 from dimension j on; e is the element offset so far. -/
def partFrom (v : View) (p : List Nat) (e : Int) : List Nat → Nat → View × Int
  | [], _ => (v, e)
  | j :: rest, r =>
    let n := p.getD j 1
    let jj := r % n
    let q := v.dim j / n
    let m := v.dim j % n
    let start := jj * q + min jj m
    let size := q + if jj < m then 1 else 0
    if size = 0 then ({ v with flags := v.flags ||| 16 }, e)
    else partFrom { v with d := v.d.set j size } p (e + start * v.stride j) rest (r / n)

/-- A part of a view: its record, or ALIGN where a sub-byte part does not start a byte (R229). -/
def viewPart (v : View) (p : List Nat) (r : Nat) : Except Nat View :=
  if p.foldl (· * ·) 1 ≤ r then .ok { v with flags := v.flags ||| 16 }
  else
    let q := partFrom v p 0 dims4 r
    let u := { q.1 with base := (BitVec.ofInt 64 (elemAddr v q.2)).toNat }
    if !u.isEmpty && elemBitPos v q.2 % 8 ≠ 0 then .error cALIGN else .ok u

/-- The rank of VPART by its source (R230, R244). -/
def partRank (c : CtxId) (src : Fin 3) (b : OpL) : X Nat :=
  match src with
  | 0 => match b with
    | .reg r => if r.val = 31 then illegal else do pure (← getX c (Fin.ofNat 32 (r.val + 1))).toNat
    | .lit _ => illegal
  | 1 => pure (c.cell % 4)
  | _ => pure c.cell

/-- The record that holds the scale view of a view in t(n) (R221). -/
def scaleSlot (x : Ctx) (ta : Fin 16) : BitVec 512 := x.regs.t.toList.getD (ta.val + 1) 0

/-- An instruction that reads an MXFP4 view needs t(n + 1) of type E8M0 (R221); a record that names no format raises TYPE_MISMATCH
first (R198, R219). -/
def checkScale (x : Ctx) (ta : Fin 16) (v : View) : X Unit := do
  if v.ty = tyMx then
    if ta.val = 15 then shapeTrap
    if 16 ≤ (viewOf (scaleSlot x ta)).ty then trapWith { code := cTYPE_MISMATCH }
    if (viewOf (scaleSlot x ta)).ty ≠ tyE8 then shapeTrap

/-- VPART (R244). -/
def execVpart (src : Fin 3) (td ta : Fin 16) (b : OpL) (s : State) : Host.Outcome State Fault Refusal :=
  issueOp s (lenL b) do
    let c := s.cur
    let r ← partRank c src b
    let spec ← opIntL c b
    let x ← ctx c
    let v := viewOf (getT x ta)
    checkView v
    checkScale x ta v
    let p := dims4.map fun j => if elemAt spec 16 j = 0 then 1 else elemAt spec 16 j
    if dims4.any fun j => v.rank ≤ j && p.getD j 1 != 1 then shapeTrap
    match viewPart v p r with
    | .ok u => putT c td (recordOf u)
    | .error code => trapWith { code := code }

/-- VBIND (R245). -/
def execVbind (d : Reg) (ta : Fin 16) (s : State) : Host.Outcome State Fault Refusal :=
  issueOp s 4 do
    let c := s.cur
    needW c d
    let x ← ctx c
    let r := getT x ta
    checkView (viewOf r)
    checkScale x ta (viewOf r)
    let scale := if (viewOf r).ty = tyMx then scaleSlot x ta else 0
    if (viewOf r).ty = tyMx then checkView (viewOf scale)
    modify fun t => dropRow t c d.val
    updCtx c fun y => setW y d { bound := some { view := r, scale := scale, tnum := ta.val + 1 }, data := 0, spilled := false }

/-- VUNBIND (R245). -/
def execVunbind (d : Reg) (s : State) : Host.Outcome State Fault Refusal :=
  issueOp s 4 do
    needW s.cur d
    modify fun t => dropRow t s.cur d.val
    updCtx s.cur fun y => setW y d WReg.zero

/-! ## Loads, stores and moves (R246 to R248) -/

/-- The view and chunk number of VLD and VST; none for an EMPTY view (R246). -/
def chunkOperand (c : CtxId) (w : Reg) (ta : Fin 16) (b : OpL) : X (Option (View × Nat)) := do
  needW c w
  let n ← opIntL c b
  let x ← ctx c
  let v := viewOf (getT x ta)
  if v.isEmpty then return none
  if x.regs.w[w].bound.isSome then shapeTrap
  checkView v
  checkScale x ta v
  if chunkCount v.d v.ty ≤ n.toNat then
    trapWith { code := cBOUNDS, vaddr := BitVec.ofNat 64 v.base, cursor := n }
  else pure (some (v, n.toNat))

/-- The element offset of a lane of chunk k. -/
def laneOff (v : View) (k i : Nat) : Int := elemOff v (laneCoords v.d v.ty k i)

/-- VLD (R246). -/
def execVld (d : Reg) (ta : Fin 16) (b : OpL) (s : State) : Host.Outcome State Fault Refusal :=
  issueOp s (lenL b) do
    let c := s.cur
    match ← chunkOperand c d ta b with
    | none => pure ()
    | some (v, k) => do
      checkChunk v.d v.ty k [v] none
      let (p, vs) ← lanesOf c (progressOf (← ctx c)) 0 (fun i => elemWord v (laneOff v k i)) (dimLanes v.d v.ty k) fun i => readElemX c v i (laneOff v k i)
      keepGot c p
      writeW c d (packElems 2048 (elemBits v.ty) vs)

/-- VST (R246). -/
def execVst (r : Reg) (ta : Fin 16) (b : OpL) (s : State) : Host.Outcome State Fault Refusal :=
  issueOp s (lenL b) do
    let c := s.cur
    match ← chunkOperand c r ta b with
    | none => pure ()
    | some (v, k) => do
      checkChunk v.d v.ty k [] (some v)
      let w ← readW c r
      storeLanes c ((dimLanes v.d v.ty k).map fun i =>
        { lane := i, pieces := pieces v (laneOff v k i), bits := elemAt w (elemBits v.ty) i })

/-- A view's scale view, if it is of MXFP4. -/
def scaleOf : VOp → Option View
  | .view v b => if v.ty = tyMx then some (viewOf b.scale) else none
  | .reg _ => none

/-- The number of the block of g elements along KAXIS that holds an element (R221). -/
def blockNo (v : View) (g : Nat) (i : List Nat) : Nat :=
  let k := v.kaxis
  indexOf (v.d.set k (v.dim k / g)) ((dims4.map fun j => if v.dim j = 1 then 0 else i.getD j 0).set k (i.getD k 0 / g))

/-- The first lane of a list that a test faults, as a trap with the chunk number (R227). -/
def checkLanes (lanes : List Nat) (k : Nat) (f : Nat → Option (Nat × Int)) : X Unit :=
  match lanes.findSome? fun i => (f i).map fun q => (i, q) with
  | some (i, code, a) => trapWith { code := code, vaddr := BitVec.ofInt 64 a, lane := i, cursor := BitVec.ofNat 64 k }
  | none => pure ()

/-- What a scale byte's access raises. -/
def scaleFault (sv : View) (b : Nat) (store : Bool) : Option (Nat × Int) :=
  if !inBounds sv b then some (cBOUNDS, elemAddr sv b)
  else if store && sv.rdonly then some (cPROT, elemAddr sv b)
  else none

/-- The blocks of 8 elements that begin in a chunk, as their first lane and its coordinates. -/
def chunkBlocks (dv : View) (k : Nat) (lanes : List Nat) : List (Nat × List Nat) :=
  lanes.filterMap fun i =>
    let at_ := laneCoords dv.d tyMx k i
    if at_.getD dv.kaxis 0 % 8 = 0 then some (i, at_) else none

/-- A store of a scale byte. -/
def scaleStore (sv : View) (lane b v : Nat) : LaneStore := { lane := lane, pieces := pieces sv b, bits := v }

/-- The first block of 8 of a block of 32, whose scale is the one of the 32 (R213; log 108). -/
def leadBlock (v : View) (at_ : List Nat) : Nat := blockNo v 8 (at_.set v.kaxis (at_.getD v.kaxis 0 / 32 * 32))

/-- A chunk of MXFP4 elements copied unchanged with the scales of the blocks that begin in it: `lead` takes the scale of each block's
32, `agree` asks that the block's own be equal to it (R213, R247, R253). -/
def copyMxChunk (c : CtxId) (p : VProgress) (sv dv ss ds : View) (lead agree : Bool) : X (List Word) := do
  let k := p.chunk
  let lanes := dimLanes dv.d tyMx k
  let blocks := chunkBlocks dv k lanes
  let scaleNo := fun (at_ : List Nat) => if lead then leadBlock sv at_ else blockNo sv 8 at_
  let readScale := fun (no : List Nat → Nat) (i : Nat) =>
    match blocks.find? fun q => q.1 == i with
    | some q => readElemX c ss i (no q.2)
    | none => pure 0
  checkLanes lanes k fun i =>
    (laneFault dv.d tyMx k [sv] (some dv) i).orElse fun _ =>
      match blocks.find? fun q => q.1 == i with
      | some q => ((scaleFault ss (scaleNo q.2) false).orElse fun _ =>
          if agree then scaleFault ss (leadBlock sv q.2) false else none).orElse fun _ => scaleFault ds (blockNo dv 8 q.2) true
      | none => none
  let at_ := fun (i : Nat) => elemOff sv (laneCoords dv.d tyMx k i)
  let (p1, vs) ← lanesOf c p 0 (fun i => elemWord sv (at_ i)) lanes fun i => readElemX c sv i (at_ i)
  let (p2, bs) ← lanesOf c p1 1 id (blocks.map (·.1)) (readScale scaleNo)
  let (p3, fs) ← if agree then lanesOf c p2 2 id (blocks.map (·.1)) (readScale (leadBlock sv)) else pure (p2, bs)
  keepGot c p3
  match (blocks.zip (bs.zip fs)).find? fun q => q.2.1 ≠ q.2.2 with
  | some q => trapWith { code := cTYPE_MISMATCH, lane := q.1.1, cursor := BitVec.ofNat 64 k }
  | none => pure ()
  storeLanes c
    (((lanes.zip vs).map fun q => { lane := q.1, pieces := pieces dv (elemOff dv (laneCoords dv.d tyMx k q.1)), bits := q.2 }) ++
      (blocks.zip bs).map fun q => scaleStore ds q.1.1 (blockNo dv 8 q.1.2) q.2)
  pure p.acc

/-- VMOV of bound MXFP4 views (R247): equal shapes, scales copied. -/
def vmovMx (c : CtxId) (dst src : VOp) : X Unit :=
  match dst.view?, src.view?, scaleOf dst, scaleOf src with
  | some dv, some sv, some ds, some ss => do
    if dv.d ≠ sv.d then shapeTrap
    let _ ← chunks c (chunkCount dv.d tyMx) fun p => copyMxChunk c p sv dv ss ds false false
  | _, _, _, _ => shapeTrap

/-- VMOV (R247). -/
def execVmov (t : Fin 8) (d a : Reg) (s : State) : Host.Outcome State Fault Refusal :=
  issueOp s 4 do
    let c := s.cur
    withOps c t.val d [a] fun dst ss ty =>
      match ss with
      | [src] =>
        match src, dst with
        | .reg r, .reg q => do writeW c q (← readW c r)
        | _, _ => if ty = tyMx then vmovMx c dst src else mapOp c dst [src] ty ty fun vs => (vs.headD 0, 0)
      | _ => pure ()

/-- An instruction that writes one view or register, by its element type (R238). -/
def withDst (c : CtxId) (t : Nat) (d : Reg) (body : VOp → Nat → X Unit) : X Unit := do
  let dst ← vop c d
  unlessEmpty [dst] do body dst (← commonType c t [dst])

/-- VBCAST (R248: with L = 0 any type is allowed). -/
def execVbcast (t : Fin 8) (d : Reg) (v : OpL) (s : State) : Host.Outcome State Fault Refusal :=
  issueOp s (lenL v) do
    let c := s.cur
    withDst c t.val d fun dst ty =>
      match v with
      | .lit l => do
        if !isNumTy ty then typeTrap c
        let r := literalFor ty (← ctx c).frm.toNat l
        mapOp c dst [] ty ty fun _ => (r.1, 0)
        addFlags c r.2
      | .reg r => do
        let x ← getX c r
        mapOp c dst [] ty ty fun _ => (x.toNat % 2 ^ elemBits ty, 0)

/-! ## Gathers and scatters (R264 to R266) -/

/-- The address operand and the data operand of a gather or scatter: both bound with one shape, or both registers. -/
def withGather (c : CtxId) (t : Nat) (addrs data : Reg) (body : VOp → VOp → Nat → X Unit) : X Unit := do
  let u ← vop c addrs
  let v ← vop c data
  unlessEmpty [u, v] do
    sameKind [u, v]
    match u.view?, v.view? with
    | some x, some y =>
      if x.d ≠ y.d then shapeTrap
      if x.ty ≠ tyI64 then typeTrap c
    | _, _ => pure ()
    let ty ← commonType c t [v]
    if !isNumTy ty then typeTrap c
    body u v ty

/-- The lanes of chunk k of a gather: 32 for registers. -/
def gatherLanes (v : VOp) (ty k : Nat) : List Nat :=
  match v with
  | .view w _ => dimLanes w.d ty k
  | .reg _ => upFrom 0 32

/-- The addresses of a chunk, each a multiple of the element size or the chunk raises ALIGN (R264). -/
def gatherAddrs (c : CtxId) (p : VProgress) (u v : VOp) (ty : Nat) (lanes : List Nat) : X (VProgress × List Nat) := do
  let (p1, as_) ← srcLanes c p 0 u tyI64 (opDims v) ty lanes
  match (lanes.zip as_).find? fun q => q.2 % elemBytes ty ≠ 0 with
  | some q => trapWith { code := cALIGN, vaddr := BitVec.ofNat 64 q.2, lane := q.1, cursor := BitVec.ofNat 64 p.chunk }
  | none => pure (p1, as_)

/-- VGATHER (R264, R265): lane by lane, a stall keeping the lanes delivered. -/
def vgatherOp (c : CtxId) (t : Nat) (d a : Reg) : X Unit := do
  withGather c t a d fun u v ty => do
    let n := elemBytes ty
    let _ ← chunks c (opChunks v ty) fun p => do
      let lanes := gatherLanes v ty p.chunk
      if v.isView then checkChunk (opDims v) ty p.chunk ([u].filterMap VOp.view?) v.view?
      let (p1, as_) ← gatherAddrs c p u v ty lanes
      let (p2, vs) ← lanesOf c p1 1 id lanes fun i => do
        let va := BitVec.ofNat 64 (as_.getD i 0)
        let l ← locate c va n n kRead i
        readLoc c va l n
      keepGot c p2
      dstLanes c v ty p.chunk vs
      pure p.acc

/-- VGATHER. -/
def execVgather (t : Fin 8) (d a : Reg) (s : State) : Host.Outcome State Fault Refusal := issueOp s 4 (vgatherOp s.cur t.val d a)

/-- VSCATTER (R266): every lane of a chunk is checked before any store of it. -/
def vscatterOp (c : CtxId) (t : Nat) (wa ws : Reg) : X Unit := do
  withGather c t wa ws fun u v ty => do
    let n := elemBytes ty
    let _ ← chunks c (opChunks v ty) fun p => do
      let lanes := gatherLanes v ty p.chunk
      if v.isView then checkChunk (opDims v) ty p.chunk ([u, v].filterMap VOp.view?) none
      let (p1, as_) ← gatherAddrs c p u v ty lanes
      let (p2, vs) ← srcLanes c p1 1 v ty (opDims v) ty lanes
      keepGot c p2
      storeChunk c id ((lanes.zip (as_.zip vs)).map fun q =>
        { lane := q.1, pieces := [⟨BitVec.ofNat 64 q.2.1, n, 0, 8 * n, 0⟩], bits := q.2.2 })
      pure p.acc

/-- VSCATTER. -/
def execVscatter (t : Fin 8) (wa ws : Reg) (s : State) : Host.Outcome State Fault Refusal :=
  issueOp s 4 (vscatterOp s.cur t.val wa ws)

/-! ## Keyed random bits (R262, R263) -/

/-- A random element from a keyed word. -/
def randElem (ty o : Nat) : Nat :=
  if ty = 7 then o
  else if ty = tyU8 then o / 2 ^ 24
  else if o / 2 ^ 8 = 0 then 0
  else (roundTo fp32 RNE false false (o / 2 ^ 8) (-24)).1

/-- VRAND (R262). -/
def execVrand (t : Fin 8) (d : Reg) (b : OpL) (s : State) : Host.Outcome State Fault Refusal :=
  issueOp s (lenL b) do
    let c := s.cur
    let seed ← opIntL c b
    withDst c t.val d fun dst ty => do
      if !(ty = 7 || ty = tyF32 || ty = tyU8) then typeTrap c
      let _ ← chunks c (opChunks dst ty) fun p => do
        if dst.isView then checkChunk (opDims dst) ty p.chunk [] dst.view?
        let key := fun (i : Nat) => match dst with
          | .view v _ => keyedIndex v (laneOff v p.chunk i)
          | .reg _ => BitVec.ofNat 64 i
        dstLanes c dst ty p.chunk ((opLanes dst ty p.chunk).map fun i => randElem ty (keyedWord seed (key i)))
        pure p.acc

/-- RNDK (R263). -/
def execRndk (d a : Reg) (b : OpL) (s : State) : Host.Outcome State Fault Refusal :=
  issueOp s (lenL b) do
    let seed ← getX s.cur a
    let e ← opIntL s.cur b
    putX s.cur d (BitVec.ofNat 64 (keyedWord seed e))

end Sys2Proof.Machine
end

