-- ==== Sys2Proof/Machine/VectorConvert.lean ====
section
/-! DEFINITION. Vector conversions (R212, R213, R253 to R256), reductions and scans (R215, R216, R258, R259), slice norms
(R260) and 2:4 selection (R261). -/

namespace Sys2Proof.Machine

/-! ## Conversions -/

/-- The smallest and largest value of an integer type. -/
def intMin (ty : Nat) : Int := if signedTy ty then -(2 ^ (elemBits ty - 1)) else 0
def intMax (ty : Nat) : Int := if signedTy ty then 2 ^ (elemBits ty - 1) - 1 else 2 ^ elemBits ty - 1

/-- The exact value of an element: INT4 reads as an integer. -/
def elemVal (ty v : Nat) : FVal := if isIntTy ty ∨ ty = 14 then intVal (intOf ty v) else fpDecode (fmtOfTy ty) v

/-- One element converted (R147, R204, R206, R253). -/
def convElem (src dst mode : Nat) (sat : Bool) (v : Nat) : Nat × FFlags :=
  if isIntTy dst then
    let r := toInteger mode (intMin dst) (intMax dst) (elemVal src v)
    (wrapInt dst r.1, r.2)
  else
    match elemVal src v with
    | .fin n m e => roundTo (fmtOfTy dst) mode sat n m e
    | x => fvRound (fmtOfTy dst) mode sat x

/-- The pairs of Table 12.5, MXFP4 apart. -/
def cvtAllowed (src dst : Nat) : Bool :=
  if isNumTy src then isNumTy dst
  else if src = 12 then dst == 4 || dst == 2 || dst == 0
  else if src = 13 ∨ src = 14 ∨ src = 15 then dst == 4 || dst == 5 || dst == 2 || dst == 0
  else false

/-- VCVT between the two MXFP4 conventions (R213). -/
def vcvtMx (c : CtxId) (dst src : VOp) : X Unit :=
  match dst.view?, src.view?, scaleOf dst, scaleOf src with
  | some dv, some sv, some ds, some ss => do
    if dv.mx32 = sv.mx32 then typeTrap c
    let _ ← chunks c (chunkCount dv.d tyMx) fun p => copyMxChunk c p sv dv ss ds sv.mx32 (!sv.mx32)
  | _, _, _, _ => typeTrap c

/-- VCVT (R253). -/
def vcvtOp (c : CtxId) (t code : Nat) (sat : Bool) (d a : Reg) : X Unit := do
  let dst ← vop c d
  let src ← vop c a
  unlessEmpty [dst, src] do
    sameKind [dst, src]
    checkShapes dst [src]
    let st := (opTypes t [src]).headD 0
    let dt := (opTypes code [dst]).headD 0
    if src.isView && !(fieldFits t st && fieldFits code dt) then typeTrap c
    if sat && dt != 4 && dt != 5 then typeTrap c
    if st = tyMx ∧ dt = tyMx then vcvtMx c dst src
    else
      if !cvtAllowed st dt then typeTrap c
      let mode := (← ctx c).frm.toNat
      mapOp c dst [src] st dt fun vs => convElem st dt mode sat (vs.headD 0)

/-- VCVT. -/
def execVcvt (t : Fin 8) (dst : Fin 16) (sat : Bool) (d a : Reg) (s : State) : Host.Outcome State Fault Refusal :=
  issueOp s 4 (vcvtOp s.cur t.val dst.val sat d a)

/-- VCVT.sr (R254): the keyed index of the source element, or the lane number, draws the random word. -/
def vcvtSrOp (c : CtxId) (t : Nat) (d a : Reg) (b : OpL) : X Unit := do
  let seed ← opIntL c b
  let dst ← vop c d
  let src ← vop c a
  unlessEmpty [dst, src] do
    sameKind [dst, src]
    checkShapes dst [src]
    let st := (opTypes 0 [src]).headD 0
    let dt := (opTypes t [dst]).headD 0
    if t < 2 ∨ 5 < t ∨ dt ≠ t ∨ 3 < st ∨ elemBits st ≤ elemBits dt then typeTrap c
    let _ ← chunks c (opChunks dst dt) fun p => do
      let d := opDims dst
      let lanes := match dst with
        | .view v _ => dimLanes v.d dt p.chunk
        | .reg _ => upFrom 0 (chunkLanes st)
      if dst.isView then checkChunk d dt p.chunk ([src].filterMap VOp.view?) dst.view?
      let (p1, vs) ← srcLanes c p 0 src st d dt lanes
      keepGot c p1
      let key := fun (i : Nat) => match src with
        | .view v _ => keyedIndex v (elemOff v (laneCoords d dt p.chunk i))
        | .reg _ => BitVec.ofNat 64 i
      let rs := (lanes.zip vs).map fun q => stochastic (fmtOfTy dt) false seed (key q.1) (fpDecode (fmtOfTy st) q.2)
      dstLanes c dst dt p.chunk (rs.map (·.1))
      addFlags c (allFlags rs)
      pure p.acc

/-- VCVT.sr. -/
def execVcvtSr (t : Fin 8) (d a : Reg) (b : OpL) (s : State) : Host.Outcome State Fault Refusal :=
  issueOp s (lenL b) (vcvtSrOp s.cur t.val d a b)

/-! ## MXFP4 (R202, R212, R255, R256) -/

/-- The value of an MXFP4 element with its scale. -/
def mxVal (q scale : Nat) : FVal :=
  if scale = 255 then .nan false
  else
    match fpDecode e2m1 q with
    | .fin n m e => .fin n m (e + scale - 127)
    | v => v

/-- FLOOR(LOG2) of a finite non-zero value. -/
def floorLog2 (m : Nat) (e : Int) : Int := e + Nat.log2 m

def isFin : FVal → Bool
  | .fin _ _ _ => true
  | _ => false

/-- The magnitudes of a block: the largest FLOOR(LOG2), if any is non-zero. -/
def blockLog (vs : List FVal) : Option Int :=
  vs.foldl (fun acc v => match v with
    | .fin _ m e =>
      if m = 0 then acc
      else (match acc with
        | some x => some (max x (floorLog2 m e))
        | none => some (floorLog2 m e))
    | _ => acc) none

/-- QMX_BLOCK of R212: element codes, scale, flags. -/
def qmxBlock (vs : List FVal) : List Nat × Nat × FFlags :=
  let nv := flagIf (vs.any isSnan) fNV
  if vs.any fun v => !isFin v then (vs.map fun _ => 0, 255, nv ||| fNF)
  else
    let e : Int := match blockLog vs with
      | none => -127
      | some l => max (-127) (min 127 (l - 2))
    let qs := vs.map fun v => match v with
      | .fin n m x =>
        let r := roundTo e2m1 RNE true n m (x - e)
        (r.1, r.2 &&& fNX)
      | _ => (0, 0)
    (qs.map (·.1), (e + 127).toNat, allFlags qs)

/-- VQMX (R255): 64 blocks of 8, or 16 of 32, for each chunk; all four scale bytes of a block of 32 are written. -/
def vqmxChunk (c : CtxId) (p : VProgress) (sv dv ds : View) : X (List Word) := do
  let g := if dv.mx32 then 32 else 8
  let k := dv.kaxis
  let gd := dv.d.set k (dv.dim k / g)
  let per := 512 / g
  let groups := upFrom 0 (min per (count gd - p.chunk * per))
  let lanes := groups.flatMap fun j => upFrom (j * g) g
  let at_ := fun (i : Nat) =>
    let b := coords gd (p.chunk * per + i / g)
    b.set k (b.getD k 0 * g + i % g)
  let fault := fun (i : Nat) => match laneFaultAt sv dv (at_ i) with
    | some f => some f
    | none => if i % 8 = 0 then scaleFault ds (blockNo dv 8 (at_ i)) true else none
  checkLanes lanes p.chunk fault
  let (p1, vs) ← lanesOf c p 0 (fun i => elemWord sv (elemOff sv (at_ i))) lanes fun i => readElemX c sv i (elemOff sv (at_ i))
  keepGot c p1
  let rs := groups.map fun j => qmxBlock (((vs.drop (j * g)).take g).map fun v => fpDecode (fmtOfTy sv.ty) v)
  let codes := rs.flatMap (·.1)
  let elems := (lanes.zip codes).map fun q =>
    ({ lane := q.1, pieces := pieces dv (elemOff dv (at_ q.1)), bits := q.2 } : LaneStore)
  let scales := (groups.zip rs).flatMap fun q => (upFrom 0 (g / 8)).map fun j =>
    scaleStore ds (q.1 * g + 8 * j) (blockNo dv 8 (at_ (q.1 * g + 8 * j))) q.2.2.1
  storeLanes c (elems ++ scales)
  addFlags c (rs.foldl (fun acc r => acc ||| r.2.2) 0)
  pure p.acc
where
  /-- Bounds of the source and destination element, then RDONLY. -/
  laneFaultAt (sv dv : View) (i : List Nat) : Option (Nat × Int) :=
    if !inBounds sv (elemOff sv i) then some (cBOUNDS, elemAddr sv (elemOff sv i))
    else if !inBounds dv (elemOff dv i) then some (cBOUNDS, elemAddr dv (elemOff dv i))
    else if dv.rdonly then some (cPROT, elemAddr dv (elemOff dv i))
    else none

/-- VQMX. -/
def execVqmx (d a : Reg) (s : State) : Host.Outcome State Fault Refusal :=
  issueOp s 4 do
    let c := s.cur
    let dst ← vop c d
    let src ← vop c a
    unlessEmpty [dst, src] do
    match dst.view?, src.view? with
    | some dv, some sv => do
      if dv.d ≠ sv.d then shapeTrap
      if !(sv.ty == 0 || sv.ty == 2 || sv.ty == 3) then typeTrap c
      match scaleOf dst with
      | none => typeTrap c
      | some ds =>
          let g := if dv.mx32 then 32 else 8
          let n := (count dv.d / g + 512 / g - 1) / (512 / g)
          let _ ← chunks c n fun p => vqmxChunk c p sv dv ds
    | _, _ => shapeTrap

/-- An element of an MXFP4 view with its scale, as code + 16 × scale. -/
def readMx (c : CtxId) (v sv : View) (lane : Nat) (i : List Nat) : X Nat := do
  let q ← readElemX c v lane (elemOff v i)
  let b ← readElemX c sv lane (blockNo v 8 i)
  pure (q + 16 * b)

/-- The elements of an MXFP4 chunk, bounds checked (R227): `dst` where the chunk is stored. -/
def mxLanes (c : CtxId) (p : VProgress) (v sv : View) (d : List Nat) (ty : Nat) (dst : Option View) :
    X (VProgress × List Nat) := do
  let lanes := dimLanes d ty p.chunk
  checkLanes lanes p.chunk fun i =>
    (laneFault d ty p.chunk [v] dst i).orElse fun _ => scaleFault sv (blockNo v 8 (laneCoords d ty p.chunk i)) false
  lanesOf c p 0 (fun i => elemWord v (elemOff v (laneCoords d ty p.chunk i))) lanes fun i => readMx c v sv i (laneCoords d ty p.chunk i)

/-- VDQ of an MXFP4 view (R256). -/
def vdqMx (c : CtxId) (dst : VOp) (v sv : View) (dt : Nat) : X Unit := do
  let mode := (← ctx c).frm.toNat
  let _ ← chunks c (opChunks dst dt) fun p => do
    let (p1, vs) ← mxLanes c p v sv (opDims dst) dt dst.view?
    keepGot c p1
    let rs := vs.map fun x => fvRound (fmtOfTy dt) mode false (mxVal (x % 16) (x / 16))
    dstLanes c dst dt p.chunk (rs.map (·.1))
    addFlags c (allFlags rs)
    pure p.acc

/-- VDQ. -/
def execVdq (d a : Reg) (s : State) : Host.Outcome State Fault Refusal :=
  issueOp s 4 do
    let c := s.cur
    let dst ← vop c d
    let src ← vop c a
    unlessEmpty [dst, src] do
    match dst.view?, src.view? with
    | some dv, some v => do
      if dv.d ≠ v.d then shapeTrap
      let dt := dv.ty
      if !(dt == 0 || dt == 2 || dt == 4 || dt == 5) then typeTrap c
      match scaleOf src with
      | some sv => vdqMx c dst v sv dt
      | none =>
        if isNumTy v.ty || !cvtAllowed v.ty dt then typeTrap c
        let mode := (← ctx c).frm.toNat
        mapOp c dst [src] v.ty dt fun vs => convElem v.ty dt mode false (vs.headD 0)
    | _, _ => shapeTrap

/-! ## Reductions (R215, R216, R258) -/

/-- T of R215. -/
def sumTy (ty : Nat) : Nat := if ty = 1 then 1 else 0

/-- An element widened to T: exact; only a signalling NaN sets a flag. -/
def widen (ty v : Nat) : Nat × FFlags :=
  if ty = sumTy ty then (v, 0)
  else
    let r := fvRound (fmtOfTy (sumTy ty)) RNE false (fpDecode (fmtOfTy ty) v)
    (r.1, r.2 &&& fNV)

/-- One level of a chunk's tree, and its flags. -/
def treeLevel (f : FpFmt) : List Nat → List Nat × FFlags
  | a :: b :: r =>
    let s := fvAdd f RNE (fpDecode f a) (fpDecode f b)
    let t := treeLevel f r
    (s.1 :: t.1, s.2 ||| t.2)
  | l => (l, 0)

/-- The pairwise tree over a chunk (R215); 2^n leaves. -/
def treeSum (f : FpFmt) : Nat → List Nat → Nat × FFlags
  | 0, l => (l.headD 0, 0)
  | n + 1, l =>
    let t := treeLevel f l
    let r := treeSum f n t.1
    (r.1, t.2 ||| r.2)

/-- A chunk's sum: padded with −0 to Lc lanes. -/
def chunkSum (ty : Nat) (vs : List Nat) : Nat × FFlags :=
  let f := fmtOfTy (sumTy ty)
  let n := chunkLanes ty
  treeSum f (Nat.log2 n) (vs ++ List.replicate (n - vs.length) (signBit f true))

/-- FMIN or FMAX over the elements, with the flags of every node (R258). -/
def foldMinMax (f : FpFmt) (max : Bool) : List Nat → Nat × FFlags
  | [] => (0, 0)
  | v :: r => r.foldl (fun acc x => let m := fpMinMax f max acc.1 x; (m.1, acc.2 ||| m.2)) (v, 0)

/-- A float value as it is written: the canonical NaN for a NaN, with NV if signalling, and NF (R200, R210). -/
def settleFp (f : FpFmt) (v : Nat) : Nat × FFlags :=
  match fpDecode f v with
  | .nan sg => nanResult f sg
  | .inf _ => (v, fNF)
  | _ => (v, 0)

/-- One chunk of a float reduction: its value in T. -/
def redChunk (ty op : Nat) (vs : List Nat) : Nat × FFlags :=
  let f := fmtOfTy (sumTy ty)
  let ws := vs.map (widen ty)
  let fl := allFlags ws
  let xs := ws.map (·.1)
  let r := match op with
    | 0 => chunkSum ty xs
    | 1 => foldMinMax f false xs
    | 2 => foldMinMax f true xs
    | _ => foldMinMax f true (xs.map fun x => x % signBit f true)
  (r.1, fl ||| r.2)

/-- Chunk results combined in chunk order. -/
def redJoin (ty op a b : Nat) : Nat × FFlags :=
  let f := fmtOfTy (sumTy ty)
  match op with
  | 0 => fvAdd f RNE (fpDecode f a) (fpDecode f b)
  | 1 => fpMinMax f false a b
  | _ => fpMinMax f true a b

/-- An integer reduction step on values as 64-bit words. -/
def redInt (ty op : Nat) (a b : Int) : Int :=
  match op with
  | 0 => intOf ty (wrapInt ty (a + b))
  | 1 => min a b
  | _ => max a b

def redIntVal (ty op v : Nat) : Int := if op = 3 then (intOf ty v).natAbs else intOf ty v

/-- One chunk of a reduction folded into the result so far, as a 64-bit word. -/
def redStep (ty op : Nat) (acc : List Word) (vs : List Nat) : List Word × FFlags :=
  if isFloatTy ty then
    let r := redChunk ty op vs
    match acc with
    | [] => ([BitVec.ofNat 64 r.1], r.2)
    | a :: _ =>
      let j := redJoin ty op a.toNat r.1
      ([BitVec.ofNat 64 j.1], r.2 ||| j.2)
  else
    let xs := vs.map (redIntVal ty op)
    -- a magnitude is unsigned: INT64's largest is 2^63
    let all := acc.map (fun w => if op = 3 then (w.toNat : Int) else w.toInt) ++ xs
    match all with
    | [] => ([], 0)
    | x :: r => ([BitVec.ofInt 64 (r.foldl (redInt ty op) x)], 0)

/-- VRED (R258). -/
def vredOp (c : CtxId) (t op : Nat) (d a : Reg) : X Unit := do
  let src ← vop c a
  unlessEmpty [src] do
    let ty ← commonType c t [src]
    if !isNumTy ty then typeTrap c
    if isFloatTy ty then needF c d else needX c d
    let acc ← chunks c (opChunks src ty) fun p => do
      if src.isView then checkChunk (opDims src) ty p.chunk (src.view?.toList) none
      let (_, vs) ← srcLanes c p 0 src ty (opDims src) ty (opLanes src ty p.chunk)
      let r := redStep ty op p.acc vs
      addFlags c r.2
      pure r.1
    let v := acc.headD 0
    if isFloatTy ty then
      let r := settleFp (fmtOfTy (sumTy ty)) v.toNat
      putF c d (BitVec.ofNat 64 r.1)
      addFlags c r.2
    else putX c d v

/-- VRED. -/
def execVred (t : Fin 8) (op : Fin 4) (d a : Reg) (s : State) : Host.Outcome State Fault Refusal :=
  issueOp s 4 (vredOp s.cur t.val op.val d a)

/-! ## Scans (R216, R259) -/

/-- One element of a scan: the running value in T, the value written, flags. -/
def scanStep (ty op mode : Nat) (run : Option Nat) (v : Nat) : Nat × Nat × FFlags :=
  if isFloatTy ty then
    let ft := fmtOfTy (sumTy ty)
    let fe := fmtOfTy ty
    if op = 0 then
      let w := widen ty v
      let s := match run with
        | none => (w.1, (0 : FFlags))
        | some r => fvAdd ft RNE (fpDecode ft r) (fpDecode ft w.1)
      let o := fvRound fe mode false (fpDecode ft s.1)
      (s.1, o.1, w.2 ||| (s.2 &&& ~~~fNF) ||| o.2)
    else
      let s := match run with
        | none => settleFp fe v
        | some r => fpMinMax fe (op == 2) r v
      (s.1, s.1, s.2)
  else
    let x := intOf ty v
    let s := match run with
      | none => x
      | some r => redInt ty op (intOf ty r) x
    (wrapInt ty s, wrapInt ty s, 0)

/-- The scan of a chunk's elements. -/
def scanChunk (ty op mode : Nat) : Option Nat → List Nat → List Nat × Option Nat × FFlags
  | run, [] => ([], run, 0)
  | run, v :: r =>
    let a := scanStep ty op mode run v
    let b := scanChunk ty op mode (some a.1) r
    (a.2.1 :: b.1, b.2.1, a.2.2 ||| b.2.2)

/-- VSCAN (R259). -/
def vscanOp (c : CtxId) (t op : Nat) (d a : Reg) : X Unit := do
  withOps c t d [a] fun dst ss ty => do
    match dst.view?, (ss.filterMap VOp.view?) with
    | some dv, [sv] => if dv.d ≠ sv.d then shapeTrap
    | _, _ => pure ()
    if !isNumTy ty then typeTrap c
    let mode := (← ctx c).frm.toNat
    let _ ← chunks c (opChunks dst ty) fun p => do
      let lanes := opLanes dst ty p.chunk
      if dst.isView then checkChunk (opDims dst) ty p.chunk (ss.filterMap VOp.view?) dst.view?
      let (p1, cols) ← readCols c ty (opDims dst) ty lanes 0 ss p
      keepGot c p1
      let r := scanChunk ty op mode (p.acc.head?.map BitVec.toNat) (cols.headD [])
      dstLanes c dst ty p.chunk r.1
      addFlags c r.2.2
      pure (match r.2.1 with | some v => [BitVec.ofNat 64 v] | none => [])

/-- VSCAN. -/
def execVscan (t : Fin 8) (op : Fin 3) (d a : Reg) (s : State) : Host.Outcome State Fault Refusal :=
  issueOp s 4 (vscanOp s.cur t.val op.val d a)

/-! ## Slice norms (R260) -/

/-- An element widened to FP32: MXFP4 scaled, rounded by RNE. -/
def normElem (ty v : Nat) : Nat × FFlags :=
  if ty = tyMx then fvRound fp32 RNE false (mxVal (v % 16) (v / 16))
  else if isIntTy ty then (convElem ty 0 RNE false v)
  else widen ty v

/-- The squares of a slice, added one by one. -/
def sumSquares : List Nat → Nat × FFlags → Nat × FFlags
  | [], acc => acc
  | x :: r, acc =>
    let s := fvFma fp32 RNE (fpDecode fp32 x) (fpDecode fp32 x) (fpDecode fp32 acc.1)
    sumSquares r (s.1, acc.2 ||| s.2)

/-- The norm of slice s of a K × M tile held in iteration order; `kFirst` when the contraction axis is d0. -/
def sliceNorm (kFirst : Bool) (kk m w : Nat) (xs : List Nat) (sl : Nat) : Nat × FFlags :=
  let idx := (upFrom 0 m).flatMap fun j => (upFrom (sl * w) w).map fun k => if kFirst then k + kk * j else j + m * k
  let sq := sumSquares (idx.map fun i => xs.getD i 0) (0, 0)
  let r := fvSqrt fp32 RNE (fpDecode fp32 sq.1)
  (r.1, sq.2 ||| r.2)

/-- All norms, with their flags. -/
def allNorms (v : View) (w : Nat) (codes : List Nat) : List (Nat × FFlags) × FFlags :=
  let ws := codes.map (normElem v.ty)
  let k := v.dim v.kaxis
  let m := v.dim (1 - v.kaxis)
  let xs := ws.map (·.1)
  ((upFrom 0 (k / w)).map (sliceNorm (v.kaxis == 0) k m w xs), allFlags ws &&& ~~~fNF)

/-- One chunk of the tile's elements. -/
def normRead (c : CtxId) (p : VProgress) (src : VOp) (v : View) : X (VProgress × List Nat) := do
  match scaleOf src with
  | some sv => mxLanes c p v sv v.d v.ty none
  | none =>
    checkChunk v.d v.ty p.chunk [v] none
    srcLanes c p 0 src v.ty v.d v.ty (dimLanes v.d v.ty p.chunk)

/-- VNORM (R260): the tile is read chunk by chunk, then the norms are written chunk by chunk. -/
def vnormOp (c : CtxId) (t wcode : Nat) (d a : Reg) : X Unit := do
  let dst ← vop c d
  let src ← vop c a
  let w := 2 ^ wcode
  unlessEmpty [dst, src] do
  match src.view? with
  | none => shapeTrap
  | some v => do
    if v.rank ≠ 2 ∨ v.dim v.kaxis % w ≠ 0 then shapeTrap
    if !fieldFits t v.ty || !(v.ty ∈ [0, 2, 3, 4, 5, 6, 10]) then typeTrap c
    let ns := v.dim v.kaxis / w
    match dst.view? with
    | none => if 64 < ns then shapeTrap
    | some dv => do
      if dv.rank ≠ 1 ∨ dv.dim 0 ≠ ns then shapeTrap
      if dv.ty ≠ tyF32 then typeTrap c
    let nr := chunkCount v.d v.ty
    let _ ← chunks c (nr + opChunks dst tyF32) fun p => do
      if p.chunk < nr then
        let (_, vs) ← normRead c p src v
        pure (p.acc ++ vs.map (BitVec.ofNat 64))
      else
        let k := p.chunk - nr
        let r := allNorms v w (p.acc.map BitVec.toNat)
        let lanes := match dst with
          | .view dv _ => dimLanes dv.d tyF32 k
          | .reg _ => upFrom 0 ns
        if dst.isView then checkChunk (opDims dst) tyF32 k [] dst.view?
        dstLanes c dst tyF32 k (lanes.map fun i => (r.1.getD (k * 64 + i) (0, 0)).1)
        addFlags c (r.2 ||| allFlags r.1)
        pure p.acc

/-- VNORM. -/
def execVnorm (t : Fin 8) (w : Fin 6) (d a : Reg) (s : State) : Host.Outcome State Fault Refusal :=
  issueOp s 4 (vnormOp s.cur t.val w.val d a)

/-! ## 2:4 selection (R261) -/

/-- Magnitude order: NaN above every number, INT8 −128 as 128. Whether x is larger than y. -/
def magLarger (ty x y : Nat) : Bool :=
  match elemVal ty x, elemVal ty y with
  | .nan _, .nan _ => false
  | .nan _, _ => true
  | _, .nan _ => false
  | .inf _, .inf _ => false
  | .inf _, _ => true
  | _, .inf _ => false
  | .fin _ m e, .fin _ n g => fvLess false (.fin false n g) (.fin false m e)

/-- How many of a group's elements come before element i: larger, or equal with a lower index. -/
def magRank (ty : Nat) (vs : List Nat) (i : Nat) : Nat :=
  ((upFrom 0 4).filter fun j =>
    j != i && (magLarger ty (vs.getD j 0) (vs.getD i 0) || (j < i && !magLarger ty (vs.getD i 0) (vs.getD j 0)))).length

/-- The two kept indices of a group, in increasing order. -/
def keptPair (ty : Nat) (vs : List Nat) : Nat × Nat :=
  let ks := (upFrom 0 4).filter fun i => magRank ty vs i < 2
  (ks.getD 0 0, ks.getD 1 1)

/-- A chunk of VTOPK: the groups that fill one chunk of the compressed view. -/
def topkChunk (c : CtxId) (p : VProgress) (sv dv mv : View) : X (List Word) := do
  let ka := sv.kaxis
  let gd := sv.d.set ka (sv.dim ka / 4)
  let per := chunkLanes sv.ty / 2
  let groups := upFrom 0 (min per (count gd - p.chunk * per))
  let base := fun (j : Nat) => coords gd (p.chunk * per + j)
  let src := fun (i : Nat) => let b := base (i / 4); b.set ka (b.getD ka 0 * 4 + i % 4)
  let out := fun (i : Nat) => let b := base (i / 2); b.set ka (b.getD ka 0 * 2 + i % 2)
  let bad := fun (v : View) (i : List Nat) (store : Bool) =>
    if !inBounds v (elemOff v i) then some (cBOUNDS, elemAddr v (elemOff v i))
    else if store && v.rdonly then some (cPROT, elemAddr v (elemOff v i))
    else none
  checkLanes (upFrom 0 (4 * groups.length)) p.chunk fun i => (bad sv (src i) false).orElse fun _ =>
    (if i < 2 * groups.length then bad dv (out i) true else none).orElse fun _ =>
      if i < groups.length then bad mv (base i) true else none
  let (p1, vs) ← lanesOf c p 0 (fun i => elemWord sv (elemOff sv (src i))) (upFrom 0 (4 * groups.length)) fun i => readElemX c sv (i % 512) (elemOff sv (src i))
  keepGot c p1
  let kept := groups.map fun j => let g := (vs.drop (4 * j)).take 4; (g, keptPair sv.ty g)
  let elems := (groups.zip kept).flatMap fun q => [q.2.2.1, q.2.2.2].zip [0, 1] |>.map fun e =>
    ({ lane := 2 * q.1 + e.2, pieces := pieces dv (elemOff dv (out (2 * q.1 + e.2))), bits := q.2.1.getD e.1 0 } : LaneStore)
  let metas := (groups.zip kept).map fun q =>
    ({ lane := q.1, pieces := pieces mv (elemOff mv (base q.1)), bits := q.2.2.1 + 4 * q.2.2.2 } : LaneStore)
  storeLanes c (elems ++ metas)
  pure p.acc

/-- VTOPK (R261). -/
def execVtopk (t : Fin 8) (d a b : Reg) (s : State) : Host.Outcome State Fault Refusal :=
  issueOp s 4 do
    let c := s.cur
    let dst ← vop c d
    let src ← vop c a
    let meta_ ← vop c b
    unlessEmpty [dst, src, meta_] do
    match dst.view?, src.view?, meta_.view? with
    | some dv, some sv, some mv => do
      let ka := sv.kaxis
      if sv.dim ka % 4 ≠ 0 ∨ dv.d ≠ sv.d.set ka (sv.dim ka / 2) ∨ mv.d ≠ sv.d.set ka (sv.dim ka / 4) then shapeTrap
      if !(isFloatTy sv.ty || sv.ty == 6) || dv.ty != sv.ty || mv.ty != tyU8 || !fieldFits t.val sv.ty then typeTrap c
      let per := chunkLanes sv.ty / 2
      let _ ← chunks c ((count sv.d / 4 + per - 1) / per) fun p => topkChunk c p sv dv mv
    | _, _, _ => shapeTrap

end Sys2Proof.Machine
end

