-- ==== Sys2Proof/Machine/Engine.lean ====
section
/-! DEFINITION. The estimating matrix engine (R284 to R301): rings, tiles, the dense and the estimated product, engine
faults, and the choice of the next operation. -/

namespace Sys2Proof.Machine

/-! ## Accumulators (R285) -/

def accOf (s : State) (cl a : Nat) : Acc := tget (getCluster s cl).accs Acc.zero a
def modAcc (s : State) (cl a : Nat) (f : Acc → Acc) : State :=
  modCluster s cl fun k => { k with accs := tput k.accs a (f (accOf s cl a)) }

/-- The 2,048 elements, row-major. -/
def accElems (a : Acc) : List Word32 := a.elems ++ List.replicate (2048 - a.elems.length) 0

/-! ## Rings (R286 to R289) -/

/-- Bytes of a tile in a slot (Table 15.1). -/
def tileBytes (fmt : Nat) (roleB sparse : Bool) : Nat :=
  (if roleB then 1024 else if sparse then 1024 else 2048) * elemBits fmt / 8

def Ring.isB (r : Ring) : Bool := r.role == 1
def Ring.isSparse (r : Ring) : Bool := r.sparse == 1
def Ring.isDemand (r : Ring) : Bool := r.demand == 1
def Ring.hasNorms (r : Ring) : Bool := r.normw != 7
def Ring.isMx (r : Ring) : Bool := r.fmt == 10
def ringTile (r : Ring) : Nat := tileBytes r.fmt.toNat r.isB r.isSparse
/-- Slice width of the norm lane. -/
def ringWidth (r : Ring) : Nat := 2 ^ r.normw.toNat

def modRing (s : State) (c : CtxId) (n : Nat) (f : Ring → Ring) : State :=
  modCtx s c fun x =>
    let i : Fin 8 := Fin.ofNat 8 n
    { x with rings := x.rings.set i.val (f x.rings[i]) i.isLt }
def ringOf (x : Ctx) (n : Nat) : Ring := x.rings[Fin.ofNat 8 n]

/-- Sequence numbers from HEAD to n, modulo 2^16. -/
def seqDist (head : BitVec 16) (n : Nat) : Nat := (n + 65536 - head.toNat) % 65536
def tilesHeld (r : Ring) : Nat := (r.tail - r.head).toNat
def ringFull (r : Ring) : Bool := r.slots.toNat ≤ tilesHeld r

/-- The tail has passed tile n (R270). -/
def tileLanded (r : Ring) (n : Nat) : Bool := seqDist r.head n < tilesHeld r

/-- HEAD passes the reservations that are due, in order, once their tiles have landed (R289, R319). -/
def popDueFrom (tail head : BitVec 16) : List Reservation → BitVec 16 × List Reservation
  | [] => (head, [])
  | e :: r =>
    let fin_ := BitVec.ofNat 16 (e.first + e.count)
    if e.popDue && (fin_ - head).toNat ≤ (tail - head).toNat then popDueFrom tail fin_ r else (head, e :: r)

def ringProgress (r : Ring) : Ring :=
  let p := popDueFrom r.tail r.head r.reservations
  { r with head := p.1, reservations := p.2 }

/-- Reserve the next n tiles for an operation (R289). -/
def ringReserve (op n : Nat) (r : Ring) : Ring :=
  { r with resv := r.resv + BitVec.ofNat 16 n,
           reservations := r.reservations ++
             [{ first := r.resv.toNat, count := n, popDue := false, cancelled := false, opId := op }] }

/-- The operation has retired: its tiles are popped in their turn. -/
def ringPop (op : Nat) (r : Ring) : Ring :=
  ringProgress { r with reservations := r.reservations.map fun e => if e.opId = op then { e with popDue := true } else e }

/-- Cancelled reservations behind which none survives. -/
def dropTrailing : List Reservation → List Reservation
  | [] => []
  | e :: r =>
    match dropTrailing r with
    | [] => if e.cancelled then [] else [e]
    | q => e :: q

/-- Operations left without retiring: RESV falls back behind the last reservation that survives, and tiles before one that survives
are popped in their place (R299, R319). -/
def ringCancel (ops : List Nat) (r : Ring) : Ring :=
  let es := dropTrailing (r.reservations.map fun e =>
    if ops.contains e.opId then { e with popDue := true, cancelled := true } else e)
  ringProgress { r with reservations := es,
                        resv := match es.getLast? with
                          | some e => BitVec.ofNat 16 (e.first + e.count)
                          | none => r.head }

/-- An empty side-lane entry of a slot. -/
def SideLanes.blank : SideLanes :=
  { seqNorm := 0, seqScale := 0, seqMeta := 0, norm := [], scale := [], meta24 := [], fetched := BitVec.allOnes 32, live := false }

def ringSlot (r : Ring) (n : Nat) : Nat := n % max 1 r.slots.toNat
def slotLanes (r : Ring) (n : Nat) : Option SideLanes := tfind r.lanes (ringSlot r n)

/-- Where a slot's data lies: LOCAL offset in the cluster store. -/
def slotOff (x : Ctx) (r : Ring) (n : Nat) : Nat := x.grants.scratchOff + r.base.toNat + ringSlot r n * ringTile r
def slotAddr (s : State) (c : CtxId) (r : Ring) (n : Nat) : Nat :=
  storeKey (ownModule s) (clusterOf c.cell) (slotOff (getCtx s c) r n)

/-- The tail advances past a slot whose data and lane entry have been written (R269, R270, R287). -/
def ringPush (l : Option SideLanes) (r : Ring) : Ring :=
  let n := r.seq
  let lanes := match l with
    | some e => tput r.lanes (ringSlot r n.toNat) { e with seqNorm := n, seqScale := n, seqMeta := n }
    | none => r.lanes
  ringProgress { r with lanes := lanes, seq := r.seq + 1, tail := r.tail + 1 }

/-- Every side lane that the ring has carries the tile's number (R287). -/
def lanesMatch (r : Ring) (n : Nat) : Bool :=
  let has := r.hasNorms || r.isMx || r.isSparse
  match slotLanes r n with
  | some e =>
    let q := BitVec.ofNat 16 n
    (!r.hasNorms || e.seqNorm == q) && (!r.isMx || e.seqScale == q) && (!r.isSparse || e.seqMeta == q)
  | none => !has

/-! ## Tiles (R284, R287) -/

/-- A value of a tile: an exact number (INT8 as its integer). -/
def tileVal (fmt v scale : Nat) : FVal :=
  match fmt with
  | 6 => intVal (BitVec.ofNat 8 v).toInt
  | 10 => mxVal v scale
  | _ => fpDecode (fmtOfTy fmt) v

def byteOf (l : List Byte) (i : Nat) : Nat := (l.getD i 0).toNat

/-- Positions of the two kept values of a group (R261, R287). -/
def metaPositions (m : Nat) : Nat × Nat :=
  let lo := m % 4
  let hi := m / 4 % 4
  if lo < hi ∧ m < 16 then (lo, hi)
  else
    let p := Config.metaPair (BitVec.ofNat 8 m)
    (p.1.val, p.2.val)

/-- Value k of row i of an A tile; none where it is pruned. -/
def aVal (r : Ring) (data : Nat) (l : SideLanes) (i k : Nat) : Option FVal :=
  let fmt := r.fmt.toNat
  let w := elemBits fmt
  let sc := byteOf l.scale (4 * i + k / 8)
  if r.isSparse then
    let p := metaPositions (byteOf l.meta24 (8 * i + k / 4))
    let c := 2 * (k / 4)
    if p.1 = k % 4 then some (tileVal fmt (data / 2 ^ (w * (16 * i + c)) % 2 ^ w) sc)
    else if p.2 = k % 4 then some (tileVal fmt (data / 2 ^ (w * (16 * i + c + 1)) % 2 ^ w) sc)
    else none
  else some (tileVal fmt (data / 2 ^ (w * (32 * i + k)) % 2 ^ w) sc)

/-- Value k of column j of a B tile; a position that demand mode never fetched reads +0 (R298). -/
def bVal (r : Ring) (data : Nat) (l : SideLanes) (j k : Nat) : FVal :=
  let fmt := r.fmt.toNat
  let w := elemBits fmt
  if r.isDemand && !bit l.fetched k then .fin false 0 0
  else tileVal fmt (data / 2 ^ (w * (32 * j + k)) % 2 ^ w) (byteOf l.scale (4 * j + k / 8))

/-- Rows of A and columns of B over a range of k within one tile pair. -/
structure TilePair where
  rows : List (List (Option FVal))
  cols : List (List FVal)

def ringData (s : State) (c : CtxId) (r : Ring) (n : Nat) : Nat := readLE s.mem (slotAddr s c r n) (ringTile r)

/-- The values k0 to k0 + len - 1 of tile t of an operation. -/
def tilePair (s : State) (c : CtxId) (ra rb : Ring) (na nb k0 len : Nat) : TilePair :=
  let da := ringData s c ra na
  let db := ringData s c rb nb
  let la := (slotLanes ra na).getD SideLanes.blank
  let lb := (slotLanes rb nb).getD SideLanes.blank
  { rows := (upFrom 0 64).map fun i => (upFrom k0 len).map fun k => aVal ra da la i k,
    cols := (upFrom 0 32).map fun j => (upFrom k0 len).map fun k => bVal rb db lb j k }

/-! ## Groups (R214) -/

/-- An exact sum of two values. -/
def sumExact (a b : FVal) : FVal :=
  match a, b with
  | .nan _, _ => .nan false
  | _, .nan _ => .nan false
  | .inf x, .inf y => if x = y then .inf x else .nan false
  | .inf x, .fin _ _ _ => .inf x
  | .fin _ _ _, .inf y => .inf y
  | .fin na ma ea, .fin nb mb eb =>
    let r := exactAdd (signed na ma) ea (signed nb mb) eb
    if r.1 = 0 then .fin (na && nb) 0 r.2 else .fin (decide (r.1 < 0)) r.1.natAbs r.2

/-- One product; a pruned value contributes +0. -/
def tileMul (a : Option FVal) (b : FVal) : FVal :=
  match a with
  | some v => (exactMul v b).1
  | none => .fin false 0 0

/-- The exact sum of a group's products. -/
def groupSum (a : List (Option FVal)) (b : List FVal) : FVal :=
  match (a.zip b).map fun p => tileMul p.1 p.2 with
  | [] => .fin false 0 0
  | v :: r => r.foldl sumExact v

/-- The integer a finite exact group sum of INT8 products stands for. -/
def groupInt (v : FVal) : Int :=
  match v with
  | .fin n m e => signed n m * 2 ^ e.toNat
  | _ => 0

/-- One group into an element: one rounding, or INT32 with the overflow seen (R208). -/
def addGroup (int : Bool) (acc : Nat × Bool) (g : FVal) : Nat × Bool :=
  if int then
    let v := (BitVec.ofNat 32 acc.1).toInt + groupInt g
    ((BitVec.ofInt 32 v).toNat, acc.2 || v < -2147483648 || 2147483647 < v)
  else ((fvAdd fp32 RNE (fpDecode fp32 acc.1) g).1, acc.2)

/-- ACCUMULATE of R214 over n groups of 8. -/
def accumulate (int : Bool) : Nat → List (Option FVal) → List FVal → Nat × Bool → Nat × Bool
  | 0, _, _, acc => acc
  | n + 1, a, b, acc =>
    accumulate int n (a.drop 8) (b.drop 8) (addGroup int acc (groupSum (a.take 8) (b.take 8)))

/-- A function of row, column and element over the whole tile, row-major. -/
def overTile (f : List (Option FVal) → List FVal → Word32 → Nat × Bool) (cols : List (List FVal)) :
    List (List (Option FVal)) → List Word32 → List Word32 × Bool
  | [], _ => ([], false)
  | a :: rows, es =>
    let here := (cols.zip es).map fun p => f a p.1 p.2
    let rest := overTile f cols rows (es.drop 32)
    (here.map (fun p => BitVec.ofNat 32 p.1) ++ rest.1, here.any (·.2) || rest.2)

/-- One k-step of the dense product (R293). -/
def denseStep (int : Bool) (p : TilePair) (groups : Nat) (es : List Word32) : List Word32 × Bool :=
  overTile (fun a b e => accumulate int groups a b (e.toNat, false)) p.cols p.rows es

/-- Ĉ ← RNE(Ĉ + f × P) for one slice (R295). -/
def sliceStep (f : Word32) (groups : Nat) (p : TilePair) (es : List Word32) : List Word32 :=
  (overTile (fun a b e =>
    let q := (accumulate false groups a b (0, false)).1
    ((fvFma fp32 RNE (fpDecode fp32 f.toNat) (fpDecode fp32 q) (fpDecode fp32 e.toNat)).1, false)) p.cols p.rows es).1

/-! ## The operation's fields (R302) -/

def opX (o : EmeOp) : Bool := bit o.word 29
def opSparse (o : EmeOp) : Bool := bit o.word 28
def opPair (o : EmeOp) : Nat := bits o.word 26 23
def opInt8 (o : EmeOp) : Bool := opPair o == 8
def opTiles (o : EmeOp) : Nat := (o.k + 31) / 32
def sampD (w : Word) : Nat := if bits w 7 0 = 0 then 256 else bits w 7 0
def sampWidth (w : Word) : Nat := 2 ^ bits w 10 8
def sampE (w : Word) : Nat := bits w 15 11

/-- A and B formats of a pair (Table 16.1). -/
def pairFormats (p : Nat) : Nat × Nat :=
  match p with
  | 0 => (2, 2)
  | 1 => (3, 3)
  | 2 => (4, 4)
  | 3 => (4, 5)
  | 4 => (5, 4)
  | 5 => (5, 5)
  | 6 => (10, 10)
  | 7 => (10, 4)
  | 8 => (6, 6)
  | _ => (0, 0)

def isArray (o : EmeOp) : Bool := decide (o.kind = .mma) || decide (o.kind = .mmas)
def onAcc (o : EmeOp) : Bool := !decide (o.kind = .rpop)

/-- The first tile reserved on a ring. -/
def firstTile (r : Ring) (op : Nat) : Nat :=
  match r.reservations.find? fun e => e.opId == op with
  | some e => e.first
  | none => r.resv.toNat

def opRings (s : State) (o : EmeOp) : Ring × Ring :=
  let x := getCtx s o.owner
  (ringOf x o.ringA, ringOf x o.ringB)

/-! ## The queue -/

/-- An earlier-issued operation on the same accumulator is still there. -/
def behind (k : Cluster) (o : EmeOp) : Bool := k.eme.any fun e => e.id < o.id && onAcc e && e.acc == o.acc

def launchEvicting (s : State) (l : BitVec 8) : Bool :=
  match launchAt s l.toNat with
  | some x => x.evicting
  | none => false

/-- The accumulator's FAULT drops this operation (R299, Table 15.2). -/
def dropsOp (a : Acc) (o : EmeOp) : Bool := bit a.status 7 && a.faultAt ≤ o.id

def modOp (s : State) (cl id : Nat) (f : EmeOp → EmeOp) : State :=
  modCluster s cl fun k => { k with eme := k.eme.map fun o => if o.id = id then f o else o }

def modOpRings (s : State) (o : EmeOp) (f : Ring → Ring) : State :=
  if onAcc o then
    let s1 := modRing s o.owner o.ringA f
    if o.ringA = o.ringB then s1 else modRing s1 o.owner o.ringB f
  else modRing s o.owner o.ringA f

/-- KIND, RING and byte count of a transfer's flags and walk (Tables 17.1 and 17.2). -/
def xferFlags (t : Transfer) : Word := t.snap.toList.getD 14 0
def xferKind (t : Transfer) : Nat := bits (xferFlags t) 2 0
def xferRing (t : Transfer) : Nat := bits (xferFlags t) 10 8
def xferElem (t : Transfer) : Nat := 2 ^ bits (xferFlags t) 6 5
def xferDims (t : Transfer) : List Nat := ((t.snap.toList.drop 2).take 4).map BitVec.toNat
def xferTotal (t : Transfer) : Nat := (xferDims t).foldl (· * ·) 1
/-- Tiles of a ring transfer. -/
def xferTiles (r : Ring) (t : Transfer) : Nat := xferTotal t * xferElem t / max 1 (ringTile r)

/-- A reservation holds the last sequence number of a demand fill: its operation is the transfer's consumer (R328). -/
def consumes (r : Ring) (t : Transfer) (op : Nat) : Bool :=
  t.pushed != 0 && r.reservations.any fun e =>
    e.opId == op && (t.firstSeq + xferTiles r t - 1 + 65536 - e.first) % 65536 < e.count

/-- The demand fills that an operation consumed are finished (R328). -/
def endDemand (s : State) (cl : Nat) (o : EmeOp) : State :=
  let x := getCtx s o.owner
  modCluster s cl fun k =>
    { k with transfers := k.transfers.map fun t =>
        if decide (t.ctx = o.owner) && xferKind t == 2 && consumes (ringOf x (xferRing t)) t o.id then { t with written := true } else t }

/-- The operation leaves the queue and the array. -/
def leaveQueue (s : State) (cl : Nat) (o : EmeOp) : State :=
  modCluster (endDemand s cl o) cl fun k =>
    { k with eme := k.eme.filter fun e => e.id != o.id,
             running := if k.running = some o.id then none else k.running }

/-- Operations leave without retiring: their reservations are cancelled together. -/
def dropOps (s : State) (cl : Nat) (os : List EmeOp) : State :=
  let ids := os.map (·.id)
  (os.filter fun o => isArray o || decide (o.kind = .rpop)).foldl (fun s o => modOpRings s o (ringCancel ids))
    (os.foldl (fun s o => leaveQueue s cl o) s)

def dropOp (s : State) (cl : Nat) (o : EmeOp) : State := dropOps s cl [o]

/-- The operations on an accumulator from a number on that stand before the next ACCZ waiting for it. -/
def beforeAccz (k : Cluster) (acc from_ : Nat) : List EmeOp :=
  let on := k.eme.filter fun o => onAcc o && o.acc == acc && from_ ≤ o.id
  match on.find? fun o => decide (o.kind = .accz) with
  | some z => on.filter fun o => o.id < z.id
  | none => on

/-- It retires (R307): its tiles are popped. -/
def retireOp (s : State) (cl : Nat) (o : EmeOp) : State :=
  let s1 := leaveQueue s cl o
  if isArray o || decide (o.kind = .rpop) then modOpRings s1 o (ringPop o.id) else s1

/-! ## Engine faults (R299) -/

/-- The record of Table 15.6. -/
def emeRecord (s : State) (cl : Nat) (o : EmeOp) (code : Nat) (vaddr cursor : Word) : FaultRecord :=
  { code := BitVec.ofNat 8 code, unit := 1, unitIdx := BitVec.ofNat 16 cl, asid := o.asid, sections := 0,
    ident := o.actid.setWidth 64, msgid := o.msgid, pc := o.pc, vaddr := vaddr, cursor := cursor,
    lane := BitVec.ofNat 16 o.accRel, flags := 0, dtc := s.dtc }

def setFault (a : Acc) (from_ : Nat) : Acc :=
  { a with status := a.status ||| 0x80, faultAt := if bit a.status 7 then min a.faultAt from_ else from_ }

/-- FAULT is set, and the operations on the accumulator from a number on are dropped (R299). -/
def faultAcc (s : State) (cl acc from_ : Nat) : State :=
  dropOps (modAcc s cl acc fun a => setFault a from_) cl (beforeAccz (getCluster s cl) acc from_)

/-- The k position that an operation has reached, a multiple of 32 (Table 15.6): drawn slices of an estimate count their widths. -/
def kReached (o : EmeOp) : Word :=
  BitVec.ofNat 64 ((if o.drawn && !o.exactRun then o.kpos * sampWidth o.samp else o.kpos) / 32 * 32)

def engineFault (s : State) (cl : Nat) (o : EmeOp) (code : Nat) (vaddr : Word) : State :=
  pushRecord (faultAcc s cl o.acc o.id) (emeRecord s cl o code vaddr (kReached o))

/-! ## Start checks (R306, Table 16.3) -/

def startFault (o : EmeOp) (ra rb : Ring) (a : Acc) : Option Nat :=
  let f := pairFormats (opPair o)
  let wc := bits o.samp 10 8
  if ra.slots.toNat < opTiles o ∨ rb.slots.toNat < opTiles o then some cRING_UNDERRUN
  else if ra.isB || !rb.isB then some cSHAPE
  else if ra.fmt.toNat ≠ f.1 ∨ rb.fmt.toNat ≠ f.2 then some cTYPE_MISMATCH
  else if ra.isSparse != opSparse o then some cSHAPE
  else if o.kind = .mma && rb.isDemand then some cSHAPE
  else if o.kind = .mmas ∧ (ra.normw.toNat ≠ wc ∨ rb.normw.toNat ≠ wc) then some cSHAPE
  else if a.typed && bit a.status 6 != opInt8 o then some cTYPE_MISMATCH
  else none

/-! ## The estimate (R295) -/

def fin32 (w : Nat) : Bool := w / 2 ^ 23 % 256 != 255
def rne32 (v : FVal) : Word32 := BitVec.ofNat 32 (fvRound fp32 RNE false v).1
def dec32 (w : Word32) : FVal := fpDecode fp32 w.toNat
def add32 (a b : Word32) : Word32 := BitVec.ofNat 32 (fvAdd fp32 RNE (dec32 a) (dec32 b)).1
def sub32 (a b : Word32) : Word32 := BitVec.ofNat 32 (fvAdd fp32 RNE (dec32 a) (negate (dec32 b))).1
def mul32 (a b : Word32) : Word32 := BitVec.ofNat 32 (fvMul fp32 RNE (dec32 a) (dec32 b)).1
def div32 (a b : FVal) : Word32 := BitVec.ofNat 32 (fvDiv fp32 RNE a b).1
def natVal (n : Nat) : FVal := .fin false n 0

/-- FLOOR(w × 2^24 / W), exactly, of finite values with W not zero. -/
def quantised (w tot : FVal) : Int :=
  match w, tot with
  | .fin na ma ea, .fin nb mb eb =>
    let d := ea + 24 - eb
    if 0 ≤ d then (signed na ma * 2 ^ d.toNat) / signed nb mb else signed na ma / (signed nb mb * 2 ^ (-d).toNat)
  | _, _ => 0

def positive (v : FVal) : Bool :=
  match v with
  | .fin n m _ => !n && m != 0
  | _ => false

def isZero (v : FVal) : Bool :=
  match v with
  | .fin _ m _ => m == 0
  | _ => false

/-- The lowest index of the largest entry. -/
def argMax (q : List Int) : Nat := (findAt (fun v => q.all fun u => u ≤ v) q).getD 0

/-- The q of R295, the deficit given to the largest. -/
def probabilities (ws : List FVal) (tot : FVal) : List Int :=
  let q := ws.map fun w => if positive w then max 1 (quantised w tot) else 0
  let m := argMax q
  setAt q m (q.getD m 0 + (2 ^ 24 - q.foldl (· + ·) 0))

/-- The smallest s with q[0] + … + q[s] > u. -/
def drawSlice (u : Int) : List Int → Int → Nat
  | [], _ => 0
  | q :: r, sum => if u < sum + q then 0 else 1 + drawSlice u r (sum + q)

/-- Multiplicities by slice of the first d generator words. -/
def drawCounts (q : List Int) (o : List Nat) (d : Nat) : List Nat :=
  let ss := (o.take d).map fun w => drawSlice (w / 256 : Nat) q 0
  (upFrom 0 q.length).map fun s => (ss.filter (· == s)).length

inductive Plan where
  | exact
  | zero
  | sampled (draws : List (Nat × Nat × Word32)) (t : Word32)

/-- Weights, forced cases, draws and T of R295, from the two norm lists. -/
def plan (na nb : List Word32) (d : Nat) (seed l : Word) : Plan :=
  let ws := (na.zip nb).map fun p => mul32 p.1 p.2
  let tot := ws.foldl add32 0
  if ws.length ≤ d || ws.any (fun w => !fin32 w.toNat) || !fin32 tot.toNat then .exact
  else if isZero (dec32 tot) then .zero
  else
    let q := probabilities (ws.map dec32) (dec32 tot)
    let n := drawCounts q (keyedBlock seed l) d
    let draws := ((upFrom 0 q.length).zip (n.zip q)).filterMap fun e =>
      if e.2.1 = 0 then none
      else some (e.1, e.2.1, div32 (natVal (e.2.1 * 2 ^ 24)) (natVal (d * e.2.2.toNat)))
    let t := (ws.zip q).foldl (fun acc e =>
      if 0 < e.2 then
        let w2 := (exactMul (dec32 e.1) (dec32 e.1)).1
        add32 acc (div32 (exactMul w2 (natVal (2 ^ 24))).1 (natVal e.2.toNat))
      else acc) 0
    .sampled draws t

/-- V and N_C of R295. -/
def variance (d : Nat) (t : Word32) (chat : List Word32) : Word32 × Word32 :=
  let nc := chat.foldl (fun acc c => add32 acc (mul32 c c)) 0
  if d = 1 then (t, nc)
  else
    let v := div32 (dec32 (sub32 t nc)) (natVal (d - 1))
    (match dec32 v with
     | .nan _ => v
     | _ => if bit v 31 then 0 else v, nc)

/-- The estimate fails the threshold. -/
def failsThreshold (e : Nat) (v nc : Word32) : Bool :=
  let bound := rne32 (exactMul (dec32 nc) (.fin false 1 (-(e : Int)))).1
  (e != 31 && fvLess true (dec32 bound) (dec32 v)) || !fin32 v.toNat || !fin32 nc.toNat

/-! ## Retirement (R293, R295, R307) -/

/-- The status byte with an outcome and the sticky bits. -/
def outStatus (a : Acc) (last : Nat) (ov hv nf : Bool) : BitVec 8 :=
  BitVec.ofNat 8 (a.status.toNat / 8 * 8 + last) ||| (if ov then 0x20 else 0) ||| (if hv then 0x08 else 0) |||
    (if nf then 0x10 else 0)

/-- An operation ends with new elements and V (none: the variance word is unchanged). -/
def finishOp (s : State) (cl : Nat) (o : EmeOp) (es : List Word32) (v : Option Word32) (last : Nat) (hv : Bool) : State :=
  let s1 := modAcc s cl o.acc fun a =>
    let var := match v with | some w => add32 a.var w | none => a.var
    let bad := !opInt8 o && (es.any (fun e => !fin32 e.toNat) || (v.isSome && !fin32 var.toNat))
    { a with elems := es, var := var, status := outStatus a last o.ov hv bad }
  retireOp s1 cl o

/-- The first write of an untyped accumulator types it (R285). -/
def typeAcc (int : Bool) (a : Acc) : Acc :=
  if a.typed then a else { a with typed := true, status := if int then a.status ||| 0x40 else a.status }

/-! ## k-steps (R291) -/

/-- Bits of k that a slice takes within its tile. -/
def sliceMask (w sl : Nat) : BitVec 32 := BitVec.ofNat 32 ((2 ^ w - 1) * 2 ^ (sl * w % 32))

/-- A slice's B data is there: always outside demand mode (R298). -/
def sliceLanded (rb : Ring) (nb w sl : Nat) : Bool :=
  !rb.isDemand ||
  match slotLanes rb ((nb + sl * w / 32) % 65536) with
  | some l => !l.live || (l.fetched &&& sliceMask w sl) == sliceMask w sl
  | none => false

/-- Slices of the next k-step: distinct drawn slices whose widths total 32. -/
def nextSlices (o : EmeOp) : List (Nat × Nat × Word32) := (o.draws.drop o.kpos).take (32 / sampWidth o.samp)

/-- The B slices that an operation asks for in demand mode, in increasing order (R298). -/
def wantedSlices (o : EmeOp) : List Nat :=
  if o.kind ≠ .mmas then []
  else if o.exactRun then upFrom 0 (o.k / sampWidth o.samp)
  else if o.drawn then o.draws.map (·.1)
  else []

/-- The tiles and lanes of the operation's next k-step have landed. -/
def dataLanded (s : State) (o : EmeOp) : Bool :=
  let r := opRings s o
  let na := firstTile r.1 o.id
  let nb := firstTile r.2 o.id
  if o.kind = .mma || o.exactRun then
    tileLanded r.1 ((na + o.kpos / 32) % 65536) && tileLanded r.2 ((nb + o.kpos / 32) % 65536) &&
    (wantedSlices o).all (sliceLanded r.2 nb (sampWidth o.samp))
  else if o.drawn then (nextSlices o).all fun d => sliceLanded r.2 nb (sampWidth o.samp) d.1
  else tileLanded r.1 ((na + opTiles o - 1) % 65536) && tileLanded r.2 ((nb + opTiles o - 1) % 65536)

/-- The operation may take the array. -/
def opReady (s : State) (cl : Nat) (o : EmeOp) : Bool :=
  isArray o && o.checked && !o.stop && !behind (getCluster s cl) o && !launchEvicting s o.lslot && dataLanded s o

/-- Norms of the slices on one ring, or the first tile whose lanes do not match. -/
def slotNorms (r : Ring) (first w n : Nat) : Except Nat (List Word32) :=
  match (upFrom 0 ((n * w + 31) / 32)).find? fun t => !lanesMatch r ((first + t) % 65536) with
  | some t => .error ((first + t) % 65536)
  | none => .ok ((upFrom 0 n).map fun sl =>
      ((slotLanes r ((first + sl * w / 32) % 65536)).getD SideLanes.blank).norm.getD (sl * w % 32 / w) 0)

def laneVa (s : State) (o : EmeOp) (r : Ring) (n : Nat) : Word := localVa (slotOff (getCtx s o.owner) r n)

/-- The slot of a ring that holds a LOCAL offset, if the operation reserves its tile there (R299). -/
def slotHit (s : State) (o : EmeOp) (r : Ring) (off : Nat) : Option Nat :=
  ((upFrom 0 (opTiles o)).map fun t => (firstTile r o.id + t) % 65536).find? fun n =>
    slotOff (getCtx s o.owner) r n ≤ off && off < slotOff (getCtx s o.owner) r n + ringTile r

/-- An uncorrectable error in a ring slot, or its lane entry, that the operation on the array reads (R285, R299). -/
def operandError (s : State) (cl off : Nat) : Option State :=
  match (getCluster s cl).eme.find? fun o => (getCluster s cl).running == some o.id with
  | none => none
  | some o =>
    let r := opRings s o
    match slotHit s o r.1 off, slotHit s o r.2 off with
    | some n, _ => some (engineFault s cl o cMEM_UNCORRECTABLE (laneVa s o r.1 n))
    | none, some n => some (engineFault s cl o cMEM_UNCORRECTABLE (laneVa s o r.2 n))
    | none, none => none

/-- The draw of an estimate (R295): EXACT and sampled runs go on, ZERO retires at once. -/
def drawOp (s : State) (cl : Nat) (o : EmeOp) : State :=
  let r := opRings s o
  let w := sampWidth o.samp
  let n := o.k / w
  match slotNorms r.1 (firstTile r.1 o.id) w n with
  | .error t => engineFault s cl o cSCALE_SEQ (laneVa s o r.1 t)
  | .ok na =>
    match slotNorms r.2 (firstTile r.2 o.id) w n with
    | .error t => engineFault s cl o cSCALE_SEQ (laneVa s o r.2 t)
    | .ok nb =>
      match plan na nb (sampD o.samp) o.seed o.tcoord with
      | .exact => modOp s cl o.id fun e => { e with exactRun := true, kpos := 0 }
      | .zero => finishOp s cl o (accElems (accOf s cl o.acc)) (some 0) 3 false
      | .sampled ds t =>
        modOp s cl o.id fun e => { e with drawn := true, draws := ds, tsum := t, work := List.replicate 2048 0, kpos := 0 }

/-- A k-step of the dense product, or of EXACT_INTO. -/
def denseRun (s : State) (cl : Nat) (o : EmeOp) : State :=
  let r := opRings s o
  let t := o.kpos / 32
  let na := (firstTile r.1 o.id + t) % 65536
  let nb := (firstTile r.2 o.id + t) % 65536
  if !lanesMatch r.1 na then engineFault s cl o cSCALE_SEQ (laneVa s o r.1 na)
  else if !lanesMatch r.2 nb then engineFault s cl o cSCALE_SEQ (laneVa s o r.2 nb)
  else
    let len := min 32 (o.k - o.kpos)
    let p := tilePair s o.owner r.1 r.2 na nb 0 len
    let e := denseStep (opInt8 o) p (len / 8) (accElems (accOf s cl o.acc))
    let s1 := modAcc s cl o.acc fun a => { typeAcc (opInt8 o) a with elems := e.1 }
    let o1 := { o with kpos := o.kpos + len, ov := o.ov || e.2 }
    if o1.k ≤ o1.kpos then
      finishOp s1 cl o1 e.1 (if o.kind = .mma then none else some 0) (if o.kind = .mma then 1 else if o.drawn then 4 else 2) false
    else modOp s1 cl o.id fun _ => o1

/-- One slice of an estimate. -/
def sliceRun (s : State) (o : EmeOp) (work : List Word32) (d : Nat × Nat × Word32) : List Word32 :=
  let r := opRings s o
  let w := sampWidth o.samp
  let t := d.1 * w / 32
  let p := tilePair s o.owner r.1 r.2 ((firstTile r.1 o.id + t) % 65536) ((firstTile r.2 o.id + t) % 65536) (d.1 * w % 32) w
  sliceStep d.2.2 ((w + 7) / 8) p work

/-- The end of a sampled run: variance, threshold, and the final addition or the exact run (R295, R297). -/
def finishSampled (s : State) (cl : Nat) (o : EmeOp) : State :=
  let v := variance (sampD o.samp) o.tsum o.work
  let high := failsThreshold (sampE o.samp) v.1 v.2
  if high && opX o then modOp s cl o.id fun _ => { o with exactRun := true, kpos := 0 }
  else
    let es := ((accElems (accOf s cl o.acc)).zip o.work).map fun p => add32 p.1 p.2
    finishOp (modAcc s cl o.acc (typeAcc false)) cl o es (some v.1) (if high then 5 else 6) high

/-- A k-step of drawn slices. -/
def sampledRun (s : State) (cl : Nat) (o : EmeOp) : State :=
  let ds := nextSlices o
  let o1 := { o with work := ds.foldl (sliceRun s o) o.work, kpos := o.kpos + ds.length }
  if o1.draws.length ≤ o1.kpos then finishSampled s cl o1 else modOp s cl o.id fun _ => o1

/-- One k-step of an operation whose data is there. -/
def runStep (s : State) (cl : Nat) (o : EmeOp) : State :=
  if o.kind = .mma || o.exactRun then denseRun s cl o else if o.drawn then sampledRun s cl o else drawOp s cl o

def opById (s : State) (cl id : Nat) : Option EmeOp := (getCluster s cl).eme.find? fun o => o.id == id

/-- The k-step on the array completes: an estimate not yet drawn draws first, and runs its first slices if they are there.
A drained operation stops at the boundary (R319). -/
def completeStep (s : State) (cl id : Nat) : State :=
  match opById s cl id with
  | none => modCluster s cl fun k => { k with running := none }
  | some o =>
    let undrawn := o.kind = .mmas && !o.exactRun && !o.drawn
    let s1 := runStep s cl o
    let s2 := match opById s1 cl id with
      | some o1 => if undrawn && dataLanded s1 o1 then runStep s1 cl o1 else s1
      | none => s1
    match opById s2 cl id with
    | some o2 => if o2.stop then dropOp s2 cl o2 else s2
    | none => s2

/-- Effective priority (R291). -/
def effPrio (o : EmeOp) : Nat := min 3 (o.prio + o.wait / 4096)

/-- a goes before b: higher priority, among equals the one running now, else the earlier issued. -/
def goesBefore (now : Option Nat) (a b : EmeOp) : Bool :=
  if effPrio a ≠ effPrio b then effPrio b < effPrio a
  else if now = some a.id then true
  else if now = some b.id then false
  else a.id < b.id

/-- NEXT_OPERATION of R291. -/
def nextOperation (s : State) (cl : Nat) : Option EmeOp :=
  let k := getCluster s cl
  match k.eme.filter (opReady s cl) with
  | [] => none
  | o :: r => some (r.foldl (fun best e => if goesBefore k.running e best then e else best) o)

/-- The array takes the next operation. -/
def takeArray (s : State) (cl : Nat) : State :=
  match nextOperation s cl with
  | some o => modOp (modCluster s cl fun k => { k with running := some o.id }) cl o.id fun e => { e with ran := true }
  | none => modCluster s cl fun k => { k with running := none }

end Sys2Proof.Machine
end

