-- ==== Sys2Proof/Machine/Matrix.lean ====
section
/-! DEFINITION. Matrix instructions (R302 to R321), the EME's moves, and follow-on commands (R308). -/

namespace Sys2Proof.Machine

/-! ## Grants (R40, R305, R310) -/

def notOwned {α : Type} : X α := trapWith { code := cACC_NOT_OWNED }

/-- The physical accumulator of a relative number, in an actor that has it. -/
def grantedAcc (c : CtxId) (a : Nat) : X Nat := do
  if isStrand c then notOwned
  match (← ctx c).grants.accs[a]? with
  | some p => pure p
  | none => notOwned

def grantedRing (c : CtxId) (n : Nat) : X Ring := do
  let x ← ctx c
  if isStrand c || x.grants.rings ≤ n then notOwned
  pure (ringOf x n)

/-! ## Placing an operation (R289, R290) -/

/-- An operation of a context with nothing filled in. -/
def blankOp (s : State) (c : CtxId) (kind : EmeKind) : EmeOp :=
  let x := getCtx s c
  { id := 0, kind := kind, word := 0, acc := 0, accRel := 0, ringA := 0, ringB := 0, owner := c, lslot := x.ident.lslot,
    asid := x.ident.asid, actid := BitVec.ofNat 32 (actidOf x.ident.root), msgid := triggerId x, pc := x.pc, k := 0,
    samp := 0, seed := 0, tcoord := 0, prio := 0, wait := 0, ran := false, checked := false, stop := false, ov := false,
    followon := false, drawn := false, exactRun := false, kpos := 0, draws := [], work := [], tsum := 0, rowFirst := 0,
    data := [], count := 0 }

/-- The queue has an entry beyond those that held follow-ons take (R290). -/
def emeRoom (s : State) (cl : Nat) : Bool :=
  let k := getCluster s cl
  k.eme.length + (k.transfers.filter (·.folHeld)).length < 32

/-- Tiles that an operation reserves on each of its rings. -/
def reserveCount (o : EmeOp) : Nat := if isArray o then opTiles o else o.count

/-- The operation enters the queue and reserves its tiles, ring A first. -/
def placeOp (s : State) (cl : Nat) (o : EmeOp) : State :=
  let id := (getCluster s cl).nextOp
  let o1 := { o with id := id }
  let s1 := modCluster s cl fun k => { k with eme := k.eme ++ [o1], nextOp := id + 1 }
  if isArray o then
    modRing (modRing s1 o.owner o.ringA (ringReserve id (reserveCount o))) o.owner o.ringB (ringReserve id (reserveCount o))
  else if o.kind = .rpop then modRing s1 o.owner o.ringA (ringReserve id (reserveCount o))
  else s1

/-- Issue into the command queue, or stall while it is full. -/
def enqueueOp (c : CtxId) (o : EmeOp) : X Unit := do
  let cl := clusterOf c.cell
  if !emeRoom (← get) cl then stallWith .full
  modify fun s => placeOp s cl o

/-! ## MMA and MMAS (R305) -/

/-- The register checks of R305: the fault's code and cursor. -/
def matrixFault (s : Bool) (k samp : Word) : Option (Nat × Word) :=
  if k.toNat = 0 ∨ k.toNat % 8 ≠ 0 ∨ 2048 < k.toNat then some (cSHAPE, BitVec.ofNat 64 (bits k 31 0))
  else if s then
    if 2 ^ 16 ≤ samp.toNat ∨ 5 < bits samp 10 8 then some (cSHAPE, BitVec.ofNat 64 (bits samp 31 0))
    else if k.toNat % sampWidth samp ≠ 0 ∨ 256 < k.toNat / sampWidth samp then
      some (cSHAPE, BitVec.ofNat 64 (bits samp 31 0))
    else none
  else none

/-- The operation that a command word and its register values describe. -/
def matrixOp (s : State) (c : CtxId) (w : Word32) (phys : Nat) (k samp seed l : Word) : EmeOp :=
  { blankOp s c (if bit w 27 then .mmas else .mma) with
    word := w, acc := phys, accRel := bits w 11 8, ringA := bits w 14 12, ringB := bits w 17 15, k := k.toNat,
    samp := if bit w 27 then samp else 0, seed := if bit w 27 then seed else 0, tcoord := if bit w 27 then l else 0,
    prio := bits w 31 30 }

/-- The words of an instruction's two parcels. -/
def commandWord (i : Instr) : Word32 := BitVec.ofNat 32 (parcelBits (encode i))

/-- MATRIX_ISSUE of R305. -/
def matrixIssue (c : CtxId) (i : Instr) (est : Bool) (k : Reg) (rb ra : Fin 8) (acc : Fin 16) : X Unit := do
  let p ← grantedAcc c acc.val
  let _ ← grantedRing c ra.val
  let _ ← grantedRing c rb.val
  let next := fun (j : Nat) => if est then getX c (Fin.ofNat 32 (k.val + j)) else pure 0
  let kv ← getX c k
  let sw ← next 1
  let seed ← next 2
  let l ← next 3
  match matrixFault est kv sw with
  | some f => trapWith { code := f.1, cursor := f.2 }
  | none => enqueueOp c (matrixOp (← get) c (commandWord i) p kv sw seed l)

/-- MMA (R293, R305). -/
def execMma (pri : Fin 4) (sp : Bool) (pair : Fin 10) (k : Reg) (ringB ringA : Fin 8) (acc : Fin 16) (s : State) :
    Host.Outcome State Fault Refusal :=
  issueOp s 4 (matrixIssue s.cur (.mma pri sp pair k ringB ringA acc) false k ringB ringA acc)

/-- MMAS (R295, R305). -/
def execMmas (pri : Fin 4) (x sp : Bool) (pair : Fin 10) (k : Reg) (ringB ringA : Fin 8) (acc : Fin 16) (s : State) :
    Host.Outcome State Fault Refusal :=
  issueOp s 4 (matrixIssue s.cur (.mmas pri x sp pair k ringB ringA acc) true k ringB ringA acc)

/-- A follow-on command is placed as its context's issue, or dropped as an engine fault; none when the queue is full
(R308, R339). -/
def placeFollowOn (s : State) (cl : Nat) (t : Transfer) (held : Bool) : Option State :=
  let w : Word32 := BitVec.ofNat 32 (t.snap.toList.getD 17 0).toNat
  let v := fun i => t.snap.toList.getD i 0
  let x := getCtx s t.ctx
  let a := bits w 11 8
  let owns := !isStrand t.ctx && bits w 14 12 < x.grants.rings && bits w 17 15 < x.grants.rings
  let actor := BitVec.ofNat 32 (actidOf t.ident.root)
  let fill := fun (o : EmeOp) => { o with pc := t.pc, asid := t.ident.asid, lslot := t.ident.lslot, actid := actor,
                                          msgid := t.msgid, followon := true }
  let reject := fun (phys : Option Nat) (code : Nat) (cur : Word) =>
    let k := getCluster s cl
    let o := { fill (matrixOp s t.ctx w (phys.getD 0) 0 0 0 0) with id := k.nextOp }
    let s1 := modCluster s cl fun k => { k with nextOp := k.nextOp + 1 }
    let s2 := match phys with
      | some p => faultAcc s1 cl p o.id
      | none => s1
    some (pushRecord s2 (emeRecord s cl o code 0 cur))
  match (if isStrand t.ctx then none else x.grants.accs[a]?), owns with
  | some p, true =>
    match matrixFault (bit w 27) (v 18) (v 19) with
    | some f => reject (some p) f.1 f.2
    | none =>
      let k := getCluster s cl
      if 32 ≤ k.eme.length || (!held && k.transfers.any (·.folHeld)) then none
      else some (placeOp s cl (fill (matrixOp s t.ctx w p (v 18) (v 19) (v 20) (v 21))))
  | some p, false => reject (some p) cACC_NOT_OWNED 0
  | none, _ => reject none cACC_NOT_OWNED 0

/-! ## Matrix control (R310 to R319) -/

/-- ACCZ (R311). -/
def execAccz (acc : Fin 16) (s : State) : Host.Outcome State Fault Refusal :=
  issueOp s 4 do
    let c := s.cur
    let p ← grantedAcc c acc.val
    enqueueOp c { blankOp (← get) c .accz with acc := p, accRel := acc.val }

/-- Wait until every operation on the accumulator that was issued before this instruction has left (R66, R312). -/
def waitEarlier (c : CtxId) (a : Nat) : X Unit := do
  let k := getCluster (← get) (clusterOf c.cell)
  let p := progressOf (← ctx c)
  let seq := match p.acc with | v :: _ => v.toNat | [] => k.nextOp
  if k.eme.any fun o => onAcc o && o.acc == a && o.id < seq then
    modify (setProgress c { p with acc := [BitVec.ofNat 64 seq] })
    stallWith .other

/-- ACCSTAT (R312, Table 16.7). -/
def execAccstat (d : Reg) (acc : Fin 16) (s : State) : Host.Outcome State Fault Refusal :=
  issueOp s 4 do
    let c := s.cur
    let p ← grantedAcc c acc.val
    needX c d
    waitEarlier c p
    let a := accOf (← get) (clusterOf c.cell) p
    putX c d (BitVec.ofNat 64 (a.var.toNat + a.status.toNat * 2 ^ 32))

/-- A ring with the fields of a configuration word (Table 16.8), holding no tile (R286). -/
def ringFields (w : Word) : Ring :=
  { Ring.reset with base := BitVec.ofNat 21 (bits w 12 0 * 256), slots := BitVec.ofNat 7 (bits w 19 13),
                    role := BitVec.ofNat 1 (bits w 20 20), fmt := BitVec.ofNat 4 (bits w 24 21),
                    sparse := BitVec.ofNat 1 (bits w 25 25), normw := BitVec.ofNat 3 (bits w 28 26),
                    demand := BitVec.ofNat 1 (bits w 29 29) }

/-- Bytes of side lanes per slot (R314). -/
def laneBytes (r : Ring) : Nat :=
  (if r.hasNorms then 4 * (32 / ringWidth r) else 0) + (if r.isMx then (if r.isB then 128 else 256) else 0) +
  (if r.isSparse then 512 else 0)

/-- The SHAPE checks of R314. -/
def ringcfgBad (w : Word) : Bool :=
  let r := ringFields w
  bits w 31 30 ≠ 0 || r.slots.toNat = 0 || 64 < r.slots.toNat || !(r.fmt.toNat ∈ [0, 2, 3, 4, 5, 6, 10]) || r.normw == 6 ||
  (r.isSparse && r.isB) || (r.isDemand && !r.isB) || (r.isDemand && r.normw == 7) || 16384 < laneBytes r * r.slots.toNat

/-- A transfer into the context's ring is pending. -/
def ringPending (s : State) (c : CtxId) (n : Nat) : Bool :=
  (getCluster s (clusterOf c.cell)).transfers.any fun t => decide (t.ctx = c) && xferKind t != 0 && xferRing t == n

/-- RINGCFG (R313 to R315). -/
def execRingcfg (ring : Fin 8) (b : OpB) (s : State) : Host.Outcome State Fault Refusal :=
  issueOp s (lenB b) do
    let c := s.cur
    let r ← grantedRing c ring.val
    let w ← opInt c b
    if ringcfgBad w then trapWith { code := cSHAPE, cursor := BitVec.ofNat 64 (bits w 31 0) }
    let n := ringFields w
    let g := (← ctx c).grants
    if g.scratchSize < n.base.toNat + n.slots.toNat * ringTile n then
      trapWith { code := cPROT, vaddr := localVa (g.scratchOff + n.base.toNat) }
    if !r.reservations.isEmpty || r.head != r.resv || ringPending (← get) c ring.val then stallWith .other
    modify fun t => modRing t c ring.val fun _ => n

/-- The configuration word of a ring (Table 16.8). -/
def ringWord (r : Ring) : Word :=
  BitVec.ofNat 64 (r.base.toNat / 256 + r.slots.toNat * 2 ^ 13 + r.role.toNat * 2 ^ 20 + r.fmt.toNat * 2 ^ 21 +
    r.sparse.toNat * 2 ^ 25 + r.normw.toNat * 2 ^ 26 + r.demand.toNat * 2 ^ 29)

/-- The counters (Table 16.9). -/
def ringCounters (r : Ring) : Word :=
  BitVec.ofNat 64 (r.head.toNat + r.tail.toNat * 2 ^ 16 + r.resv.toNat * 2 ^ 32 + r.seq.toNat * 2 ^ 48)

/-- RINGST (R316). -/
def execRingst (d : Reg) (ring : Fin 8) (code : Fin 2) (s : State) : Host.Outcome State Fault Refusal :=
  issueOp s 4 do
    let r ← grantedRing s.cur ring.val
    putX s.cur d (if code = 0 then ringCounters r else ringWord r)

/-- RPOP (R317). -/
def execRpop (ring : Fin 8) (b : OpB) (s : State) : Host.Outcome State Fault Refusal :=
  issueOp s (lenB b) do
    let c := s.cur
    let r ← grantedRing c ring.val
    let v ← opInt c b
    if 128 ≤ v.toNat ∨ r.slots.toNat < v.toNat then
      trapWith { code := cRING_UNDERRUN, cursor := BitVec.ofNat 64 (bits v 31 0) }
    if v ≠ 0 then enqueueOp c { blankOp (← get) c .rpop with ringA := ring.val, count := v.toNat }

/-- Operations that the context's actor issued. -/
def ownOp (s : State) (c : CtxId) (o : EmeOp) : Bool :=
  decide (o.owner = c) && decide (o.actid = BitVec.ofNat 32 (actidOf (getCtx s c).ident.root))

/-- MQPRI (R318). -/
def execMqpri (d : Reg) (acc : Fin 16) (b : OpB) (s : State) : Host.Outcome State Fault Refusal :=
  issueOp s (lenB b) do
    let c := s.cur
    let p ← grantedAcc c acc.val
    let v ← opInt c b
    needX c d
    let t ← get
    let cl := clusterOf c.cell
    let hit := fun (o : EmeOp) => ownOp t c o && onAcc o && o.acc == p
    let n := ((getCluster t cl).eme.filter hit).length
    set (modCluster t cl fun k => { k with eme := k.eme.map fun o => if hit o then { o with prio := bits v 1 0 } else o })
    putX c d (BitVec.ofNat 64 n)

/-- Operations that a code removes (Table 16.10). -/
def drainHit (s : State) (c : CtxId) (p : Nat) (code : Nat) (o : EmeOp) : Bool :=
  ownOp s c o && !o.stop && (code % 2 == 1 || !o.ran) && (2 ≤ code || (onAcc o && o.acc == p))

/-- The removals: an operation on the array stops at its next k-step boundary, the others leave together. -/
def drainOps (s : State) (cl : Nat) (os : List EmeOp) : State :=
  let onArray := fun (o : EmeOp) => (getCluster s cl).running == some o.id
  (os.filter onArray).foldl (fun s o => modOp s cl o.id fun e => { e with stop := true }) (dropOps s cl (os.filter fun o => !onArray o))

/-- MQDRAIN (R319). -/
def execMqdrain (d : Reg) (acc : Fin 16) (code : Fin 4) (s : State) : Host.Outcome State Fault Refusal :=
  issueOp s 4 do
    let c := s.cur
    let p ← if code.val < 2 then grantedAcc c acc.val else if isStrand c then notOwned else pure 0
    needX c d
    let t ← get
    let cl := clusterOf c.cell
    let hits := (getCluster t cl).eme.filter (drainHit t c p code.val)
    set (drainOps t cl hits)
    putX c d (BitVec.ofNat 64 hits.length)

/-! ## Moves of the EME -/

/-- VACCWR in its place (R268): the elements from `rowFirst` on. -/
def writeAccOp (s : State) (cl : Nat) (o : EmeOp) : State :=
  retireOp (modAcc s cl o.acc fun a =>
    let es := accElems a
    { a with elems := es.take o.rowFirst ++ o.data ++ es.drop (o.rowFirst + o.data.length) }) cl o

/-- EME_OPERATION_START (R306): the oldest operation of its accumulator is dropped, checked, or, a VACCWR, carried out. -/
def startMove (s : State) (cl idx : Nat) : Option State :=
  match (getCluster s cl).eme[idx]? with
  | none => none
  | some o =>
    if o.checked || o.kind = .accz || o.kind = .rpop || behind (getCluster s cl) o || launchEvicting s o.lslot then none
    else if dropsOp (accOf s cl o.acc) o then some (dropOps s cl (beforeAccz (getCluster s cl) o.acc o.id))
    else if o.kind = .vaccwr then some (writeAccOp s cl o)
    else
      let r := opRings s o
      match startFault o r.1 r.2 (accOf s cl o.acc) with
      | some code => some (engineFault s cl o code 0)
      | none => some (modOp s cl o.id fun e => { e with checked := true })

/-- EME_OPERATION_START. -/
def execEmeOperationStart (cluster idx : Nat) (s : State) : Host.Outcome State Fault Refusal := move (startMove s cluster idx) s

/-- EME_K_STEP (R291): the k-step on the array completes and the next operation is chosen. -/
def kStepMove (s : State) (cl : Nat) : Option State :=
  match (getCluster s cl).running with
  | some id => some (takeArray (completeStep s cl id) cl)
  | none => (nextOperation s cl).map fun _ => takeArray s cl

/-- EME_K_STEP. -/
def execEmeKStep (cluster : Nat) (s : State) : Host.Outcome State Fault Refusal := move (kStepMove s cluster) s

/-- ACCZ_RUN (R311). -/
def acczMove (s : State) (cl idx : Nat) : Option State :=
  match (getCluster s cl).eme[idx]? with
  | none => none
  | some o =>
    if o.kind ≠ .accz || behind (getCluster s cl) o || launchEvicting s o.lslot then none
    else some (retireOp (modAcc s cl o.acc fun _ => Acc.zero) cl o)

/-- ACCZ_RUN. -/
def execAcczRun (cluster idx : Nat) (s : State) : Host.Outcome State Fault Refusal := move (acczMove s cluster idx) s

/-- RPOP_RETIRE (R317): the reservation heads its ring and its tiles have landed. -/
def rpopMove (s : State) (cl idx : Nat) : Option State :=
  match (getCluster s cl).eme[idx]? with
  | none => none
  | some o =>
    let r := (opRings s o).1
    let first := match r.reservations with | e :: _ => e.opId == o.id | [] => false
    if o.kind = .rpop && first && o.count ≤ tilesHeld r && !launchEvicting s o.lslot then some (retireOp s cl o) else none

/-- RPOP_RETIRE. -/
def execRpopRetire (cluster idx : Nat) (s : State) : Host.Outcome State Fault Refusal := move (rpopMove s cluster idx) s

end Sys2Proof.Machine
end

