-- ==== Sys2Proof/Machine/Accumulators.lean ====
section
/-! DEFINITION. Vector access to accumulators and rings: VACCRD, VACCRD.PEEK, VACCWR and RPUSH (R267 to R270). -/

namespace Sys2Proof.Machine

/-! ## The operand of an accumulator access (R267) -/

/-- What a VACCRD or VACCWR moves: one chunk of 64 elements, or the whole tile through a view. -/
inductive AccRange where
  | chunk (n : Nat)
  | tile (v : View)

/-- The type field of an unbound access. -/
def accField (c : CtxId) (t : Nat) : X Unit := do if t ≠ 0 ∧ t ≠ 7 then typeTrap c

/-- The shape and type checks, and the chunk number of an unbound access. -/
def accRange (c : CtxId) (t : Nat) (o : VOp) (b : OpL) : X AccRange := do
  match o.view? with
  | some v =>
    if b ≠ .reg 0 ∨ v.rank ≠ 2 ∨ v.dim 0 ≠ 32 ∨ v.dim 1 ≠ 64 then shapeTrap
    if v.ty ≠ 0 ∧ v.ty ≠ 7 then typeTrap c
    if !fieldFits t v.ty then typeTrap c
    pure (.tile v)
  | none =>
    accField c t
    let k ← opIntL c b
    if 32 ≤ k.toNat then trapWith { code := cBOUNDS, cursor := k }
    pure (.chunk k.toNat)

/-- An access of a granted accumulator through a register or a view (R267, R268). -/
def withAcc (c : CtxId) (t : Nat) (w : Reg) (acc : Nat) (b : OpL) (body : Nat → AccRange → X Unit) : X Unit := do
  let o ← vop c w
  unlessEmpty [o] do
    let p ← grantedAcc c acc
    body p (← accRange c t o b)

/-- Elements 64k to 64k + 63 of a list. -/
def accChunk (es : List Word32) (k : Nat) : List Nat := ((es.drop (64 * k)).take 64).map BitVec.toNat

/-- The tile, as it stood when the read took it (R66: never torn), written chunk by chunk. -/
def accTile (c : CtxId) (v : View) (es : List Word32) : X Unit := do
  let p := progressOf (← ctx c)
  let taken := if p.acc.length = 2048 then p.acc else es.map fun e => e.setWidth 64
  modify (setProgress c { p with acc := taken })
  let _ ← chunkLoop c (fun q => do
    checkChunk v.d v.ty q.chunk [] (some v)
    storeLanes c ((dimLanes v.d v.ty q.chunk).map fun i =>
      { lane := i, pieces := pieces v (laneOff v q.chunk i), bits := (q.acc.getD (64 * q.chunk + i) 0).toNat })
    pure q.acc) (32 - p.chunk) { p with acc := taken }

/-- Read an accumulator into an unbound register or a bound view. -/
def accRead (c : CtxId) (a : Nat) (d : Reg) (r : AccRange) : X Unit := do
  let es := accElems (accOf (← get) (clusterOf c.cell) a)
  match r with
  | .chunk k => writeW c d (packElems 2048 32 (accChunk es k))
  | .tile v => accTile c v es

/-- VACCRD (R267): after every operation on the accumulator issued before it. -/
def execVaccrd (t : Fin 8) (d : Reg) (acc : Fin 16) (b : OpL) (s : State) : Host.Outcome State Fault Refusal :=
  issueOp s (lenL b) do
    let c := s.cur
    withAcc c t.val d acc.val b fun p r => do
      if (progressOf (← ctx c)).acc.length ≤ 1 then waitEarlier c p
      accRead c p d r

/-- VACCRD.PEEK (R267): the state at the latest k-step boundary. -/
def execVaccrdPeek (t : Fin 8) (d : Reg) (acc : Fin 16) (b : OpL) (s : State) : Host.Outcome State Fault Refusal :=
  issueOp s (lenL b) do
    let c := s.cur
    withAcc c t.val d acc.val b fun p r => accRead c p d r

/-- All elements of a whole-tile view, chunk by chunk, kept over stalls. -/
def readTileView (c : CtxId) (v : View) (extra : Nat) (last : List Word → VProgress → X Unit) : X Unit := do
  let n := chunkCount v.d v.ty
  let _ ← chunks c (n + extra) fun p => do
    if p.chunk < n then
      checkChunk v.d v.ty p.chunk [v] none
      let (_, vs) ← lanesOf c p 0 (fun i => elemWord v (laneOff v p.chunk i)) (dimLanes v.d v.ty p.chunk) fun i => readElemX c v i (laneOff v p.chunk i)
      pure (p.acc ++ vs.map (BitVec.ofNat 64))
    else
      last p.acc p
      pure p.acc

def toWords32 (ws : List Word) : List Word32 := ws.map fun w => w.setWidth 32

/-- VACCWR (R268): queued in the accumulator's issue order. -/
def execVaccwr (t : Fin 8) (r : Reg) (acc : Fin 16) (b : OpL) (s : State) : Host.Outcome State Fault Refusal :=
  issueOp s (lenL b) do
    let c := s.cur
    withAcc c t.val r acc.val b fun p range => do
      let place := fun (first : Nat) (data : List Word32) => (do
        enqueueOp c { blankOp (← get) c .vaccwr with acc := p, accRel := acc.val, rowFirst := first, data := data } : X Unit)
      match range with
      | .chunk k => do
        let w ← readW c r
        place (64 * k) ((upFrom 0 64).map fun i => BitVec.ofNat 32 (elemAt w 32 i))
      | .tile v => readTileView c v 1 fun ws _ => place 0 (toWords32 ws)

/-! ## RPUSH (R269) -/

/-- SHAPE_TYPE(wa) = TILE(ring). -/
def isTileOf (r : Ring) (v : View) : Bool :=
  v.rank == 2 && v.ty == r.fmt.toNat && v.kaxis == 0 && v.dim 0 == 32 && v.dim 1 == (if r.isB then 32 else 64)

/-- The scale bytes of a tile view: block b of row or column i at 4i + b. -/
def tileScales (c : CtxId) (p : VProgress) (v sv : View) : X (VProgress × List Nat) := do
  let blk := fun i => blockNo v 8 [8 * (i % 4), i / 4, 0, 0]
  let lanes := upFrom 0 (4 * v.dim 1)
  checkLanes lanes p.chunk fun i => scaleFault sv (blk i) false
  lanesOf c p 0 (fun i => elemWord sv (blk i)) lanes fun i => readElemX c sv i (blk i)

/-- n FP32 norms of an unbound register or a rank-1 FP32 view. -/
def normValues (c : CtxId) (p : VProgress) (o : VOp) (n : Nat) : X (VProgress × List Nat) := do
  match o with
  | .view v _ => do
    checkChunk v.d v.ty 0 [v] none
    lanesOf c p 1 (fun i => elemWord v (laneOff v 0 i)) (upFrom 0 n) fun i => readElemX c v i (laneOff v 0 i)
  | .reg r => do
    let w ← readW c r
    pure (p, (upFrom 0 n).map fun i => elemAt w 32 i)

/-- The norm operand of RPUSH.n. -/
def normOperand (c : CtxId) (n : Bool) (b : Reg) : X (Option VOp) := do if n then pure (some (← vop c b)) else pure none

/-- Its shape and type: a register, or a rank-1 FP32 view of the ring's norms. -/
def checkNorms (c : CtxId) (r : Ring) (o : Option VOp) : X Unit :=
  match o.bind VOp.view? with
  | some v => do
    if v.rank ≠ 1 ∨ v.dim 0 ≠ 32 / ringWidth r then shapeTrap
    if v.ty ≠ tyF32 then typeTrap c
  | none => pure ()

/-- Store a tile's bytes in the slot at the tail. -/
def writeSlot (s : State) (c : CtxId) (n : Nat) (bytes v : Nat) : State :=
  let r := ringOf (getCtx s c) n
  { s with mem := writeLE s.mem (slotAddr s c r r.seq.toNat) bytes v }

/-- Elements of a tile as one number, in slot layout. -/
def packTile (fmt : Nat) (vs : List Word) : Nat :=
  vs.foldr (fun x acc => x.toNat % 2 ^ elemBits fmt + 2 ^ elemBits fmt * acc) 0

/-- The push: norms and scales read, then data, lanes and tail in one move. -/
def pushTile (c : CtxId) (ring : Nat) (v : View) (sv : Option View) (norms : Option VOp) (tile : List Word)
    (p : VProgress) : X Unit := do
  let r := ringOf (← ctx c) ring
  let (p1, sc) ← match sv with
    | some u => tileScales c p v u
    | none => pure (p, [])
  let (p2, ns) ← match norms with
    | some o => normValues c p1 o (32 / ringWidth r)
    | none => pure (p1, [])
  keepGot c p2
  if ringFull (ringOf (← ctx c) ring) then stallWith .other
  let lane : SideLanes :=
    { SideLanes.blank with norm := ns.map (BitVec.ofNat 32), scale := sc.map (BitVec.ofNat 8) }
  let l := if r.hasNorms || r.isMx then some lane else none
  modify fun s => modRing (writeSlot s c ring (ringTile r) (packTile v.ty tile)) c ring (ringPush l)

/-- RPUSH (R269). -/
def execRpush (n : Bool) (ring : Fin 8) (a b : Reg) (s : State) : Host.Outcome State Fault Refusal :=
  issueOp s 4 do
    let c := s.cur
    let o ← vop c a
    let norms ← normOperand c n b
    unlessEmpty (o :: norms.toList) do
      let r ← grantedRing c ring.val
      match o.view? with
      | none => shapeTrap
      | some v => do
        if !isTileOf r v then shapeTrap
        if n != r.hasNorms || r.isSparse then shapeTrap
        checkNorms c r norms
        if ringFull r then stallWith .other
        readTileView c v 1 (pushTile c ring.val v (scaleOf o) norms)

end Sys2Proof.Machine
end

