-- ==== Sys2Proof/Machine/Atomic.lean ====
section
/-! DEFINITION. Atomics (R60, R160 to R162) and their move at the home. -/

namespace Sys2Proof.Machine

/-- COMBINE of Table 6.10 on numbers of 8n bits; none when nothing is written. -/
def combine (op n old b cmp : Nat) : Option Nat :=
  let w := 8 * n
  let so := (BitVec.ofNat w old).toInt
  let sb := (BitVec.ofNat w b).toInt
  match op with
  | 0 => some ((old + b) % 2 ^ w)
  | 1 => some (old &&& b)
  | 2 => some (old ||| b)
  | 3 => some (old ^^^ b)
  | 4 => some (if so ≤ sb then old else b)
  | 5 => some (if so ≤ sb then b else old)
  | 6 => some (min old b)
  | 7 => some (max old b)
  | 8 => some b
  | 9 => if old = cmp then some b else none
  | 10 => some (fvAdd fp32 RNE (fpDecode fp32 old) (fpDecode fp32 b)).1
  | 11 => some (fpMinMax fp32 false old b).1
  | _ => some (fpMinMax fp32 true old b).1

/-- The move of an atomic at its home (R60): the old value, and the state with the new one registered; one that writes nothing has
looked its line up all the same (R83). -/
def performAtomic (s : State) (owner : Option Nat) (o : Origin) (a : AtomicOp) : Nat × State :=
  let old := readLE s.mem a.byteAddr a.size
  match combine a.op a.size old (a.b.toNat % 2 ^ (8 * a.size)) (a.cmp.toNat % 2 ^ (8 * a.size)) with
  | some new => (old, registerAt s owner o { byteStore a.byteAddr a.size new with noalloc := a.noalloc })
  | none => (old, if keySpace a.byteAddr = 0 then touchSlice s a.byteAddr 0 a.noalloc false else s)

/-- A store of the context to the atomic's word is still in the registration queue (R60). -/
def olderStore (s : State) (c : CtxId) (a : Nat) : Bool :=
  (getCell s c.cell).regq.any fun e => decide (e.origin = .ctx c) && e.store.addr == wordKey a

/-- A miss entry of the home's slice is not to be had (R84): the move at a home at hand waits. -/
def atomicWaits (s : State) (a : Nat) : Bool := keySpace a == 0 && sliceBusy s a

/-- The atomic's home is reached without a queue: a cluster store of this module, or a word of the context's own die. -/
def homeAtHand (s : State) (c : CtxId) (a : Nat) : Bool :=
  keySpace a == 1 || (keySpace a == 0 && homedHere s (dieOf c.cell) a)

/-- The cell that becomes the owner of a global word of its die (R52). -/
def atomicOwner (c : CtxId) (a : Nat) : Option Nat := if keySpace a = 0 then some c.cell else none

/-- CAPABLE of R161: an atomic homed on a peer module needs its bit in that module's vector (R397). -/
def checkCapable (l : Loc) (op n : Nat) : X Unit := do
  let s ← get
  let m := keyModule l.addr
  if m ≠ ownModule s then
    let vec := tget s.hub.caps 0 m
    if !bit vec (op + if n = 8 then 16 else 0) then
      trapWith { code := cAMO_UNSUPPORTED, cursor := Config.amoCursor op n m }

/-- An atomic leaves for a home that is not at hand: by the gateway queue, as a store would (R60; log 28), or as a request to a
window's owner (R401). -/
def sendAtomic (s : State) (c : CtxId) (id member : Nat) (a : AtomicOp) : State :=
  if keySpace a.byteAddr = 2 then
    requestShare s c { ctx := c, id := id, addr := wordKey a.byteAddr, member := member,
                       lslot := (getCtx s c).ident.lslot.toNat, store := none, origin := .amo c, atomic := some a }
  else
    gwPush (dropLocal s c.cell (wordKey a.byteAddr)) (queueToHome s (dieOf c.cell) a.byteAddr) (.atomic c id a)

/-- The atomic's part at issue: performed at a home at hand, else sent; behind an older store of the context it waits for
ATOMIC_AT_HOME. -/
def issueAtomic (c : CtxId) (va : Word) (l : Loc) (dest : Dest) (acq : Bool) (a : AtomicOp) : X Unit := do
  let s ← get
  let pend : Pending :=
    { blankPending dest (wordKey l.addr) (l.addr % 8) acq with
      atomic := some a, window := decide (l.kind = .window), member := l.member, va := va }
  if olderStore s c l.addr then addPending c pend
  else if homeAtHand s c l.addr then
    if s.lateLoads || atomicWaits s l.addr then addPending c pend
    else
      let r := performAtomic s (atomicOwner c l.addr) (.amo c) a
      set r.2
      deliver c dest (wordKey l.addr) (l.addr % 8) acq r.1
  else
    let id := (getCtx s c).nextId
    set (sendAtomic s c id l.member a)
    addPending c { pend with atomic := none }

/-- AMOP of R161. -/
def amoOp (c : CtxId) (op n : Nat) (ord : AmoOrder) (d a : Reg) (b : OpL) : X Unit := do
  let cmp ← getX c d
  let va ← getX c a
  let v ← opIntL c b
  let found := (← ctx c).place
  let l ← locateOnce c va n n kAtomic
  if found.isNone then checkCapable l op n
  immediate c
  if ord = .rel ∨ ord = .ar then waitPropagated c
  issueAtomic c va l (.x d n (n == 4)) (ord == .acq || ord == .ar)
    { op := op, size := n, byteAddr := l.addr, b := v, cmp := cmp, noalloc := pteNoalloc l.pte }

def amoSize (dbl : Bool) : Nat := if dbl then 8 else 4

/-- AMOADD (Table 6.10). -/
def execAmoadd (dbl : Bool) (ord : AmoOrder) (d a : Reg) (b : OpL) (s : State) : Host.Outcome State Fault Refusal :=
  issueOp s (lenL b) (amoOp s.cur 0 (amoSize dbl) ord d a b)

/-- AMOAND (Table 6.10). -/
def execAmoand (dbl : Bool) (ord : AmoOrder) (d a : Reg) (b : OpL) (s : State) : Host.Outcome State Fault Refusal :=
  issueOp s (lenL b) (amoOp s.cur 1 (amoSize dbl) ord d a b)

/-- AMOOR (Table 6.10). -/
def execAmoor (dbl : Bool) (ord : AmoOrder) (d a : Reg) (b : OpL) (s : State) : Host.Outcome State Fault Refusal :=
  issueOp s (lenL b) (amoOp s.cur 2 (amoSize dbl) ord d a b)

/-- AMOXOR (Table 6.10). -/
def execAmoxor (dbl : Bool) (ord : AmoOrder) (d a : Reg) (b : OpL) (s : State) : Host.Outcome State Fault Refusal :=
  issueOp s (lenL b) (amoOp s.cur 3 (amoSize dbl) ord d a b)

/-- AMOMIN (Table 6.10). -/
def execAmomin (dbl : Bool) (ord : AmoOrder) (d a : Reg) (b : OpL) (s : State) : Host.Outcome State Fault Refusal :=
  issueOp s (lenL b) (amoOp s.cur 4 (amoSize dbl) ord d a b)

/-- AMOMAX (Table 6.10). -/
def execAmomax (dbl : Bool) (ord : AmoOrder) (d a : Reg) (b : OpL) (s : State) : Host.Outcome State Fault Refusal :=
  issueOp s (lenL b) (amoOp s.cur 5 (amoSize dbl) ord d a b)

/-- AMOMINN (Table 6.10). -/
def execAmominn (dbl : Bool) (ord : AmoOrder) (d a : Reg) (b : OpL) (s : State) : Host.Outcome State Fault Refusal :=
  issueOp s (lenL b) (amoOp s.cur 6 (amoSize dbl) ord d a b)

/-- AMOMAXN (Table 6.10). -/
def execAmomaxn (dbl : Bool) (ord : AmoOrder) (d a : Reg) (b : OpL) (s : State) : Host.Outcome State Fault Refusal :=
  issueOp s (lenL b) (amoOp s.cur 7 (amoSize dbl) ord d a b)

/-- AMOSWAP (Table 6.10). -/
def execAmoswap (dbl : Bool) (ord : AmoOrder) (d a : Reg) (b : OpL) (s : State) : Host.Outcome State Fault Refusal :=
  issueOp s (lenL b) (amoOp s.cur 8 (amoSize dbl) ord d a b)

/-- AMOCAS (Table 6.10). -/
def execAmocas (dbl : Bool) (ord : AmoOrder) (d a : Reg) (b : OpL) (s : State) : Host.Outcome State Fault Refusal :=
  issueOp s (lenL b) (amoOp s.cur 9 (amoSize dbl) ord d a b)

/-- AMOFADD.F32 (Table 6.10). -/
def execAmofaddF32 (ord : AmoOrder) (d a : Reg) (b : OpL) (s : State) : Host.Outcome State Fault Refusal :=
  issueOp s (lenL b) (amoOp s.cur 10 4 ord d a b)

/-- AMOFMIN.F32 (Table 6.10). -/
def execAmofminF32 (ord : AmoOrder) (d a : Reg) (b : OpL) (s : State) : Host.Outcome State Fault Refusal :=
  issueOp s (lenL b) (amoOp s.cur 11 4 ord d a b)

/-- AMOFMAX.F32 (Table 6.10). -/
def execAmofmaxF32 (ord : AmoOrder) (d a : Reg) (b : OpL) (s : State) : Host.Outcome State Fault Refusal :=
  issueOp s (lenL b) (amoOp s.cur 12 4 ord d a b)

/-! ## The waiting atomic's move -/

def setPending (x : Ctx) (id : Nat) (f : Pending → Pending) : Ctx :=
  { x with loads := x.loads.map fun p => if p.id = id then f p else p }

/-- The old value of an atomic, as its register will take it. -/
def pendingValue (p : Pending) (old : Nat) : Word := extendLoad p.dest old

/-- The context's oldest atomic that still waits behind an older store, or for its home's move. -/
def waitingAtomic (x : Ctx) : Option (Pending × AtomicOp) :=
  match x.loads.find? fun p => p.atomic.isSome with
  | some p => p.atomic.map fun a => (p, a)
  | none => none

/-- The oldest atomic of a slot whose section a trap has ended. -/
def leftAtomic (s : State) (c : CtxId) : Option (Pending × AtomicOp) :=
  match (getCell s c.cell).amos.find? fun p => p.1 == c.slot with
  | some p => p.2.atomic.map fun a => (p.2, a)
  | none => none

/-- It executes, or leaves for its home; its value is wanted nowhere. -/
def leftMove (s : State) (c : CtxId) (p : Pending) (a : AtomicOp) : Option State :=
  let s1 := modCell s c.cell fun k => { k with amos := k.amos.eraseP fun q => q.1 == c.slot }
  if olderStore s c a.byteAddr then none
  else if homeAtHand s c a.byteAddr then
    if atomicWaits s a.byteAddr then none else some (performAtomic s1 (atomicOwner c a.byteAddr) (.amo c) a).2
  else some (sendAtomic s1 c p.id p.member a)

/-- ATOMIC_AT_HOME (R60): the waiting atomic executes at its home, or leaves for it, once no older store of the context to
the word is queued. -/
def atomicMove (s : State) (c : CtxId) : Option State :=
  match leftAtomic s c, waitingAtomic (getCtx s c) with
  | some (p, a), _ => leftMove s c p a
  | none, none => none
  | none, some (p, a) =>
    if olderStore s c a.byteAddr then none
    else if homeAtHand s c a.byteAddr then
      if atomicWaits s a.byteAddr then none else
      let r := performAtomic s (atomicOwner c a.byteAddr) (.amo c) a
      some (modCtx r.2 c fun x =>
        setPending x p.id fun q => { q with atomic := none, value := some (pendingValue p r.1) })
    else some (modCtx (sendAtomic s c p.id p.member a) c fun x => setPending x p.id fun q => { q with atomic := none })

/-- ATOMIC_AT_HOME. -/
def execAtomicAtHome (c : CtxId) (s : State) : Host.Outcome State Fault Refusal := move (atomicMove s c) s

end Sys2Proof.Machine
end

