-- ==== Sys2Proof/Machine/Control.lean ====
section
/-! DEFINITION. Branches and jumps (R139 to R142). -/

namespace Sys2Proof.Machine

/-- A signed offset in parcels, from the field or from the literal (R139, R140). -/
def parcelOff {n : Nat} : Imm n → Word
  | .imm v => BitVec.ofInt 64 (v.toInt * 2)
  | .lit v => BitVec.ofInt 64 (v.toInt * 2)

/-- A branch of `len` bytes (R139): a branch not taken checks nothing. -/
def branchOp (c : CtxId) (len : Nat) (a b : Reg) (off : Word) (cond : Word → Word → Bool) : X Unit := do
  let x ← getX c a
  let y ← getX c b
  if cond x y then transfer c len ((← ctx c).pc + off)

/-- A jump to T that leaves the address of the next instruction in `d` (R140, R141). -/
def linkJump (c : CtxId) (len : Nat) (d : Reg) (target : Word) : X Unit := do
  needX c d
  let next := (← ctx c).pc + BitVec.ofNat 64 len
  transfer c len target
  putX c d next

/-- BEQ (Table 6.3). -/
def execBeq (a b : Reg) (off : Imm 11) (s : State) : Host.Outcome State Fault Refusal :=
  issueOp s (lenImm off) (branchOp s.cur (lenImm off) a b (parcelOff off) fun x y => x == y)

/-- BNE (Table 6.3). -/
def execBne (a b : Reg) (off : Imm 11) (s : State) : Host.Outcome State Fault Refusal :=
  issueOp s (lenImm off) (branchOp s.cur (lenImm off) a b (parcelOff off) fun x y => x != y)

/-- BLT (Table 6.3). -/
def execBlt (a b : Reg) (off : Imm 11) (s : State) : Host.Outcome State Fault Refusal :=
  issueOp s (lenImm off) (branchOp s.cur (lenImm off) a b (parcelOff off) fun x y => x.slt y)

/-- BGE (Table 6.3). -/
def execBge (a b : Reg) (off : Imm 11) (s : State) : Host.Outcome State Fault Refusal :=
  issueOp s (lenImm off) (branchOp s.cur (lenImm off) a b (parcelOff off) fun x y => !x.slt y)

/-- BLTN (Table 6.3). -/
def execBltn (a b : Reg) (off : Imm 11) (s : State) : Host.Outcome State Fault Refusal :=
  issueOp s (lenImm off) (branchOp s.cur (lenImm off) a b (parcelOff off) fun x y => x.ult y)

/-- BGEN (Table 6.3). -/
def execBgen (a b : Reg) (off : Imm 11) (s : State) : Host.Outcome State Fault Refusal :=
  issueOp s (lenImm off) (branchOp s.cur (lenImm off) a b (parcelOff off) fun x y => !x.ult y)

/-- J (R140). -/
def execJ (off : Imm 23) (s : State) : Host.Outcome State Fault Refusal :=
  issueOp s (lenImm off) do transfer s.cur (lenImm off) ((← ctx s.cur).pc + parcelOff off)

/-- JAL (R140) links through x1. -/
def execJal (off : Imm 23) (s : State) : Host.Outcome State Fault Refusal :=
  issueOp s (lenImm off) do linkJump s.cur (lenImm off) 1 ((← ctx s.cur).pc + parcelOff off)

/-- JALR (R141). -/
def execJalr (d a : Reg) (i : Imm 14) (s : State) : Host.Outcome State Fault Refusal :=
  issueOp s (lenImm i) do linkJump s.cur (lenImm i) d ((← getX s.cur a) + immVal 1 i)

end Sys2Proof.Machine
end

