-- ==== Sys2Proof/Machine/Float.lean ====
section
/-! DEFINITION. Scalar floating point (R143 to R150). -/

namespace Sys2Proof.Machine

/-- A result goes to its f register (R135), its flags to FSTAT (R209). -/
def fpOut (c : CtxId) (d : Reg) (r : Nat × FFlags) : X Unit := do
  putF c d (BitVec.ofNat 64 r.1)
  addFlags c r.2

/-- An operand as an exact value. -/
def fpA (c : CtxId) (p : Prec) (a : Reg) : X Nat := do pure (fpBits p (← getF c a))

/-- fd ← f (fa, b) in the mode of rm (R143). -/
def fpOp2 (c : CtxId) (p : Prec) (rm : RmField) (d a : Reg) (b : OpB) (f : FpFmt → Nat → FVal → FVal → Nat × FFlags) :
    X Unit := do
  let u ← fpA c p a
  let v ← opFp c p b
  let mode := roundMode (← ctx c) rm
  fpOut c d (f (fmtOf p) mode (fpDecode (fmtOf p) u) (fpDecode (fmtOf p) v))

/-- fd ← min or max (R145). -/
def fpMinMaxOp (c : CtxId) (p : Prec) (max : Bool) (d a : Reg) (b : OpB) : X Unit := do
  let u ← fpA c p a
  let v ← opFp c p b
  fpOut c d (fpMinMax (fmtOf p) max u v)

/-- fd ← f fa on the bits, without flags (FABS, FNEG): a NaN gives the canonical NaN (R144). -/
def fpSign (c : CtxId) (p : Prec) (d a : Reg) (f : Nat → Nat → Nat) : X Unit := do
  let u ← fpA c p a
  let v := if isNaN (fpDecode (fmtOf p) u) then canonNaN (fmtOf p) else f (signBit (fmtOf p) true) u
  putF c d (BitVec.ofNat 64 v)

/-- xd ← a relation (R145); `loud` sets invalid for any NaN. -/
def fpCompare (c : CtxId) (p : Prec) (d a : Reg) (b : OpB) (loud : Bool) (rel : FVal → FVal → Bool) : X Unit := do
  let u := fpDecode (fmtOf p) (← fpA c p a)
  let v := fpDecode (fmtOf p) (← opFp c p b)
  let nan := isNaN u || isNaN v
  putX c d (if !nan && rel u v then 1 else 0)
  addFlags c (flagIf (isSnan u || isSnan v || (loud && nan)) fNV)

/-- The exact widening or rounding of one format to another (R147). -/
def fpConvert (src dst : FpFmt) (mode : Nat) (v : Nat) : Nat × FFlags := fvRound dst mode false (fpDecode src v)

/-- A conversion to a signed or unsigned integer of n bits (R147). -/
def fpToInt (src : FpFmt) (mode n : Nat) (isSigned : Bool) (v : Nat) : Int × FFlags :=
  if isSigned then toInteger mode (-(2 ^ (n - 1))) (2 ^ (n - 1) - 1) (fpDecode src v)
  else toInteger mode 0 (2 ^ n - 1) (fpDecode src v)

/-- FCVT by code (Table 6.6). -/
def fcvtOp (c : CtxId) (rm : RmField) (code : Nat) (d a : Reg) : X Unit := do
  let mode := roundMode (← ctx c) rm
  let toF := fun (src dst : FpFmt) (w : Nat) => (do
    let v ← getF c a
    fpOut c d (fpConvert src dst mode (v.toNat % 2 ^ w)) : X Unit)
  let ofX := fun (dst : FpFmt) (sg : Bool) => (do
    let v ← getX c a
    fpOut c d (ofInteger dst mode (if sg then v.toInt else (v.toNat : Int))) : X Unit)
  let toX := fun (src : FpFmt) (w n : Nat) (sg : Bool) => (do
    let v ← getF c a
    let r := fpToInt src mode n sg (v.toNat % 2 ^ w)
    putX c d (BitVec.ofInt 64 r.1)
    addFlags c r.2 : X Unit)
  match code with
  | 0 => toF fp64 fp32 64
  | 1 => toF fp32 fp64 32
  | 2 => ofX fp32 true
  | 3 => ofX fp32 false
  | 4 => ofX fp64 true
  | 5 => ofX fp64 false
  | 6 => toX fp32 32 64 true
  | 7 => toX fp32 32 64 false
  | 8 => toX fp64 64 64 true
  | 9 => toX fp64 64 64 false
  | 10 => toX fp32 32 32 true
  | 11 => toX fp64 64 32 true
  | 12 => toF fp16 fp32 16
  | 13 => toF fp32 fp16 32
  | 14 => toF bf16 fp32 16
  | _ => toF fp32 bf16 32

/-- A fused multiply-add (R150): `np` negates the product, `nc` the addend. -/
def fmaOp (c : CtxId) (p : Prec) (d a : Reg) (b : OpL) (cc : OpC) (np nc : Bool) : X Unit := do
  let f := fmtOf p
  let u := fpDecode f (← fpA c p a)
  let v := fpDecode f (← opFpL c p b)
  let z := fpDecode f (← opFpC c p cc)
  let mode := (← ctx c).frm.toNat
  fpOut c d (fvFma f mode (if np then negate u else u) v (if nc then negate z else z))

/-- FADD (Table 6.4). -/
def execFadd (p : Prec) (rm : RmField) (d a : Reg) (b : OpB) (s : State) : Host.Outcome State Fault Refusal :=
  issueOp s (lenB b) (fpOp2 s.cur p rm d a b fun f m u v => fvAdd f m u v)

/-- FSUB (Table 6.4). -/
def execFsub (p : Prec) (rm : RmField) (d a : Reg) (b : OpB) (s : State) : Host.Outcome State Fault Refusal :=
  issueOp s (lenB b) (fpOp2 s.cur p rm d a b fun f m u v => fvAdd f m u (negate v))

/-- FMUL (Table 6.4). -/
def execFmul (p : Prec) (rm : RmField) (d a : Reg) (b : OpB) (s : State) : Host.Outcome State Fault Refusal :=
  issueOp s (lenB b) (fpOp2 s.cur p rm d a b fun f m u v => fvMul f m u v)

/-- FDIV (Table 6.4). -/
def execFdiv (p : Prec) (rm : RmField) (d a : Reg) (b : OpB) (s : State) : Host.Outcome State Fault Refusal :=
  issueOp s (lenB b) (fpOp2 s.cur p rm d a b fun f m u v => fvDiv f m u v)

/-- FSQRT (Table 6.4). -/
def execFsqrt (p : Prec) (rm : RmField) (d a : Reg) (s : State) : Host.Outcome State Fault Refusal :=
  issueOp s 4 do
    let u ← fpA s.cur p a
    fpOut s.cur d (fvSqrt (fmtOf p) (roundMode (← ctx s.cur) rm) (fpDecode (fmtOf p) u))

/-- FMIN (R145). -/
def execFmin (p : Prec) (d a : Reg) (b : OpB) (s : State) : Host.Outcome State Fault Refusal := issueOp s (lenB b) (fpMinMaxOp s.cur p false d a b)

/-- FMAX (R145). -/
def execFmax (p : Prec) (d a : Reg) (b : OpB) (s : State) : Host.Outcome State Fault Refusal := issueOp s (lenB b) (fpMinMaxOp s.cur p true d a b)

/-- FABS (R144): sign 0. -/
def execFabs (p : Prec) (d a : Reg) (s : State) : Host.Outcome State Fault Refusal := issueOp s 4 (fpSign s.cur p d a fun sg u => u % sg)

/-- FNEG (R144): sign inverted. -/
def execFneg (p : Prec) (d a : Reg) (s : State) : Host.Outcome State Fault Refusal := issueOp s 4 (fpSign s.cur p d a fun sg u => u ^^^ sg)

/-- FEQ (R145). -/
def execFeq (p : Prec) (d a : Reg) (b : OpB) (s : State) : Host.Outcome State Fault Refusal :=
  issueOp s (lenB b) (fpCompare s.cur p d a b false fvEq)

/-- FLT (R145). -/
def execFlt (p : Prec) (d a : Reg) (b : OpB) (s : State) : Host.Outcome State Fault Refusal :=
  issueOp s (lenB b) (fpCompare s.cur p d a b true (fvLess false))

/-- FLE (R145). -/
def execFle (p : Prec) (d a : Reg) (b : OpB) (s : State) : Host.Outcome State Fault Refusal :=
  issueOp s (lenB b) (fpCompare s.cur p d a b true fun u v => !fvLess false v u)

/-- FCLASS (R146). -/
def execFclass (p : Prec) (d a : Reg) (s : State) : Host.Outcome State Fault Refusal :=
  issueOp s 4 do putX s.cur d (BitVec.ofNat 64 (fpClass (fmtOf p) (← fpA s.cur p a)))

/-- FCVT (R147). -/
def execFcvt (rm : RmField) (code : Fin 16) (d a : Reg) (s : State) : Host.Outcome State Fault Refusal := issueOp s 4 (fcvtOp s.cur rm code.val d a)

/-- FMVX (Table 6.4). -/
def execFmvx (p : Prec) (d a : Reg) (s : State) : Host.Outcome State Fault Refusal :=
  issueOp s 4 do
    let u ← fpA s.cur p a
    putX s.cur d (match p with | .w => sext64 32 u | .d => BitVec.ofNat 64 u)

/-- FMVF (Table 6.4). -/
def execFmvf (p : Prec) (d a : Reg) (s : State) : Host.Outcome State Fault Refusal :=
  issueOp s 4 do putF s.cur d (BitVec.ofNat 64 (fpBits p (← getX s.cur a)))

/-- FRCP.A (R148). -/
def execFrcpA (p : Prec) (d a : Reg) (s : State) : Host.Outcome State Fault Refusal :=
  issueOp s 4 do fpOut s.cur d (fvRcp (fmtOf p) 12 (fpDecode (fmtOf p) (← fpA s.cur p a)))

/-- FRSQ.A (R148). -/
def execFrsqA (p : Prec) (d a : Reg) (s : State) : Host.Outcome State Fault Refusal :=
  issueOp s 4 do fpOut s.cur d (fvRsqrt (fmtOf p) 12 (fpDecode (fmtOf p) (← fpA s.cur p a)))

/-- The FP32 value of FLI (R149). -/
def fliVal : Imm 20 → Word
  | .imm v => BitVec.ofNat 64 (v.toNat * 2 ^ 12)
  | .lit v => BitVec.ofNat 64 v.toNat

/-- FLI (R149). -/
def execFli (fd : Fin 16) (v : Imm 20) (s : State) : Host.Outcome State Fault Refusal := issueOp s (lenImm v) (putF s.cur (Fin.ofNat 32 fd.val) (fliVal v))

/-- FMA (R150). -/
def execFma (p : Prec) (d a : Reg) (b : OpL) (c : OpC) (s : State) : Host.Outcome State Fault Refusal :=
  issueOp s (lenL b) (fmaOp s.cur p d a b c false false)

/-- FMS (R150). -/
def execFms (p : Prec) (d a : Reg) (b : OpL) (c : OpC) (s : State) : Host.Outcome State Fault Refusal :=
  issueOp s (lenL b) (fmaOp s.cur p d a b c false true)

/-- FNMA (R150). -/
def execFnma (p : Prec) (d a : Reg) (b : OpL) (c : OpC) (s : State) : Host.Outcome State Fault Refusal :=
  issueOp s (lenL b) (fmaOp s.cur p d a b c true false)

/-- FNMS (R150). -/
def execFnms (p : Prec) (d a : Reg) (b : OpL) (c : OpC) (s : State) : Host.Outcome State Fault Refusal :=
  issueOp s (lenL b) (fmaOp s.cur p d a b c true true)

end Sys2Proof.Machine
end

