-- ==== Sys2Proof/Machine/Integer.lean ====
section
/-! DEFINITION. Integer instructions: register, bit-field and immediate forms (R136 to R138). -/

namespace Sys2Proof.Machine

/-- xd ← f xa b (R136). -/
def aluOp (c : CtxId) (d a : Reg) (b : OpB) (f : Word → Word → Word) : X Unit := do
  let x ← getX c a
  let y ← opInt c b
  putX c d (f x y)

/-- xd ← f xa (R136). -/
def unaryOp (c : CtxId) (d a : Reg) (f : Word → Word) : X Unit := do putX c d (f (← getX c a))

/-- xd ← f xa imm (R138). -/
def aluImm (c : CtxId) (d a : Reg) (i : Imm 14) (f : Word → Word → Word) : X Unit := do putX c d (f (← getX c a) (immVal 1 i))

/-- The shift amount of an operand: bits 5:0. -/
def shamt (b : Word) : Nat := b.toNat % 64

def boolWord (b : Bool) : Word := if b then 1 else 0

/-- Quotients and remainders with the corners of Table 6.1. -/
def divS (x y : Word) : Word := if y = 0 then BitVec.allOnes 64 else BitVec.ofInt 64 (x.toInt.tdiv y.toInt)
def divU (x y : Word) : Word := if y = 0 then BitVec.allOnes 64 else BitVec.ofNat 64 (x.toNat / y.toNat)
def remS (x y : Word) : Word := if y = 0 then x else BitVec.ofInt 64 (x.toInt.tmod y.toInt)
def remU (x y : Word) : Word := if y = 0 then x else BitVec.ofNat 64 (x.toNat % y.toNat)

def mulHighS (x y : Word) : Word := BitVec.ofInt 64 (x.toInt * y.toInt / 2 ^ 64)
def mulHighU (x y : Word) : Word := BitVec.ofNat 64 (x.toNat * y.toNat / 2 ^ 64)

def sMin (x y : Word) : Word := if x.toInt ≤ y.toInt then x else y
def sMax (x y : Word) : Word := if x.toInt ≤ y.toInt then y else x
def uMin (x y : Word) : Word := if x.toNat ≤ y.toNat then x else y
def uMax (x y : Word) : Word := if x.toNat ≤ y.toNat then y else x

/-- Leading zeros, trailing zeros and ones of a 64-bit word. -/
def clzOf (x : Word) : Nat := if x = 0 then 64 else 63 - Nat.log2 x.toNat
def ctzOf (x : Word) : Nat := ((upFrom 0 64).find? fun i => bit x i).getD 64
def popcOf (x : Word) : Nat := ((upFrom 0 64).filter fun i => bit x i).length

/-- Bits and bytes in reverse order. -/
def brevOf (x : Word) : Word := BitVec.ofNat 64 ((upFrom 0 64).foldl (fun acc i => acc * 2 + (if bit x i then 1 else 0)) 0)
def bswapOf (x : Word) : Word := BitVec.ofNat 64 ((upFrom 0 8).foldl (fun acc i => acc * 256 + elemAt x 8 i) 0)

/-- The field specification of R137: POS, effective length, SX. -/
def fieldPos (b : Word) : Nat := bits b 5 0
def fieldLen (b : Word) : Nat := min (bits b 14 8) (64 - fieldPos b)

/-- BFX of R137. -/
def bfxOf (x b : Word) : Word :=
  let n := fieldLen b
  if n = 0 then 0
  else
    let f := x.toNat / 2 ^ fieldPos b % 2 ^ n
    if bit b 15 then sext64 n f else BitVec.ofNat 64 f

/-- BFI of R137. -/
def bfiOf (d x b : Word) : Word :=
  mergeBits d (BitVec.ofNat 64 ((2 ^ fieldLen b - 1) * 2 ^ fieldPos b)) (x <<< fieldPos b)

/-! ## Register forms (Table 6.1) -/

/-- ADD (Table 6.1). -/
def execAdd (d a : Reg) (b : OpB) (s : State) : Host.Outcome State Fault Refusal :=
  issueOp s (lenB b) (aluOp s.cur d a b fun x y => x + y)

/-- SUB (Table 6.1). -/
def execSub (d a : Reg) (b : OpB) (s : State) : Host.Outcome State Fault Refusal :=
  issueOp s (lenB b) (aluOp s.cur d a b fun x y => x - y)

/-- MUL (Table 6.1). -/
def execMul (d a : Reg) (b : OpB) (s : State) : Host.Outcome State Fault Refusal :=
  issueOp s (lenB b) (aluOp s.cur d a b fun x y => x * y)

/-- MULH (Table 6.1). -/
def execMulh (d a : Reg) (b : OpB) (s : State) : Host.Outcome State Fault Refusal :=
  issueOp s (lenB b) (aluOp s.cur d a b fun x y => mulHighS x y)

/-- MULHN (Table 6.1). -/
def execMulhn (d a : Reg) (b : OpB) (s : State) : Host.Outcome State Fault Refusal :=
  issueOp s (lenB b) (aluOp s.cur d a b fun x y => mulHighU x y)

/-- DIV (Table 6.1). -/
def execDiv (d a : Reg) (b : OpB) (s : State) : Host.Outcome State Fault Refusal :=
  issueOp s (lenB b) (aluOp s.cur d a b fun x y => divS x y)

/-- DIVN (Table 6.1). -/
def execDivn (d a : Reg) (b : OpB) (s : State) : Host.Outcome State Fault Refusal :=
  issueOp s (lenB b) (aluOp s.cur d a b fun x y => divU x y)

/-- REM (Table 6.1). -/
def execRem (d a : Reg) (b : OpB) (s : State) : Host.Outcome State Fault Refusal :=
  issueOp s (lenB b) (aluOp s.cur d a b fun x y => remS x y)

/-- REMN (Table 6.1). -/
def execRemn (d a : Reg) (b : OpB) (s : State) : Host.Outcome State Fault Refusal :=
  issueOp s (lenB b) (aluOp s.cur d a b fun x y => remU x y)

/-- AND (Table 6.1). -/
def execAnd (d a : Reg) (b : OpB) (s : State) : Host.Outcome State Fault Refusal :=
  issueOp s (lenB b) (aluOp s.cur d a b fun x y => x &&& y)

/-- OR (Table 6.1). -/
def execOr (d a : Reg) (b : OpB) (s : State) : Host.Outcome State Fault Refusal :=
  issueOp s (lenB b) (aluOp s.cur d a b fun x y => x ||| y)

/-- XOR (Table 6.1). -/
def execXor (d a : Reg) (b : OpB) (s : State) : Host.Outcome State Fault Refusal :=
  issueOp s (lenB b) (aluOp s.cur d a b fun x y => x ^^^ y)

/-- ANDN (Table 6.1). -/
def execAndn (d a : Reg) (b : OpB) (s : State) : Host.Outcome State Fault Refusal :=
  issueOp s (lenB b) (aluOp s.cur d a b fun x y => x &&& ~~~y)

/-- SHL (Table 6.1). -/
def execShl (d a : Reg) (b : OpB) (s : State) : Host.Outcome State Fault Refusal :=
  issueOp s (lenB b) (aluOp s.cur d a b fun x y => x <<< shamt y)

/-- SHR (Table 6.1). -/
def execShr (d a : Reg) (b : OpB) (s : State) : Host.Outcome State Fault Refusal :=
  issueOp s (lenB b) (aluOp s.cur d a b fun x y => x >>> shamt y)

/-- SRA (Table 6.1). -/
def execSra (d a : Reg) (b : OpB) (s : State) : Host.Outcome State Fault Refusal :=
  issueOp s (lenB b) (aluOp s.cur d a b fun x y => x.sshiftRight (shamt y))

/-- ROL (Table 6.1). -/
def execRol (d a : Reg) (b : OpB) (s : State) : Host.Outcome State Fault Refusal :=
  issueOp s (lenB b) (aluOp s.cur d a b fun x y => x.rotateLeft (shamt y))

/-- ROR (Table 6.1). -/
def execRor (d a : Reg) (b : OpB) (s : State) : Host.Outcome State Fault Refusal :=
  issueOp s (lenB b) (aluOp s.cur d a b fun x y => x.rotateRight (shamt y))

/-- MIN (Table 6.1). -/
def execMin (d a : Reg) (b : OpB) (s : State) : Host.Outcome State Fault Refusal :=
  issueOp s (lenB b) (aluOp s.cur d a b fun x y => sMin x y)

/-- MAX (Table 6.1). -/
def execMax (d a : Reg) (b : OpB) (s : State) : Host.Outcome State Fault Refusal :=
  issueOp s (lenB b) (aluOp s.cur d a b fun x y => sMax x y)

/-- MINN (Table 6.1). -/
def execMinn (d a : Reg) (b : OpB) (s : State) : Host.Outcome State Fault Refusal :=
  issueOp s (lenB b) (aluOp s.cur d a b fun x y => uMin x y)

/-- MAXN (Table 6.1). -/
def execMaxn (d a : Reg) (b : OpB) (s : State) : Host.Outcome State Fault Refusal :=
  issueOp s (lenB b) (aluOp s.cur d a b fun x y => uMax x y)

/-- SLT (Table 6.1). -/
def execSlt (d a : Reg) (b : OpB) (s : State) : Host.Outcome State Fault Refusal :=
  issueOp s (lenB b) (aluOp s.cur d a b fun x y => boolWord (x.slt y))

/-- SLTN (Table 6.1). -/
def execSltn (d a : Reg) (b : OpB) (s : State) : Host.Outcome State Fault Refusal :=
  issueOp s (lenB b) (aluOp s.cur d a b fun x y => boolWord (x.ult y))

/-- SEQ (Table 6.1). -/
def execSeq (d a : Reg) (b : OpB) (s : State) : Host.Outcome State Fault Refusal :=
  issueOp s (lenB b) (aluOp s.cur d a b fun x y => boolWord (x == y))

/-- BFX (Table 6.1). -/
def execBfx (d a : Reg) (b : OpB) (s : State) : Host.Outcome State Fault Refusal :=
  issueOp s (lenB b) (aluOp s.cur d a b fun x y => bfxOf x y)

/-- BFI (R137) reads xd as a source. -/
def execBfi (d a : Reg) (b : OpB) (s : State) : Host.Outcome State Fault Refusal :=
  issueOp s (lenB b) do
    let old ← getX s.cur d
    aluOp s.cur d a b fun x y => bfiOf old x y

/-- CLZ (Table 6.1). -/
def execClz (d a : Reg) (s : State) : Host.Outcome State Fault Refusal := issueOp s 4 (unaryOp s.cur d a fun x => BitVec.ofNat 64 (clzOf x))

/-- CTZ (Table 6.1). -/
def execCtz (d a : Reg) (s : State) : Host.Outcome State Fault Refusal := issueOp s 4 (unaryOp s.cur d a fun x => BitVec.ofNat 64 (ctzOf x))

/-- POPC (Table 6.1). -/
def execPopc (d a : Reg) (s : State) : Host.Outcome State Fault Refusal := issueOp s 4 (unaryOp s.cur d a fun x => BitVec.ofNat 64 (popcOf x))

/-- BREV (Table 6.1). -/
def execBrev (d a : Reg) (s : State) : Host.Outcome State Fault Refusal := issueOp s 4 (unaryOp s.cur d a fun x => brevOf x)

/-- BSWAP (Table 6.1). -/
def execBswap (d a : Reg) (s : State) : Host.Outcome State Fault Refusal := issueOp s 4 (unaryOp s.cur d a fun x => bswapOf x)

/-! ## Immediate and upper forms (Table 6.2) -/

/-- ADDI (Table 6.2). -/
def execAddi (d a : Reg) (i : Imm 14) (s : State) : Host.Outcome State Fault Refusal :=
  issueOp s (lenImm i) (aluImm s.cur d a i fun x y => x + y)

/-- ANDI (Table 6.2). -/
def execAndi (d a : Reg) (i : Imm 14) (s : State) : Host.Outcome State Fault Refusal :=
  issueOp s (lenImm i) (aluImm s.cur d a i fun x y => x &&& y)

/-- ORI (Table 6.2). -/
def execOri (d a : Reg) (i : Imm 14) (s : State) : Host.Outcome State Fault Refusal :=
  issueOp s (lenImm i) (aluImm s.cur d a i fun x y => x ||| y)

/-- XORI (Table 6.2). -/
def execXori (d a : Reg) (i : Imm 14) (s : State) : Host.Outcome State Fault Refusal :=
  issueOp s (lenImm i) (aluImm s.cur d a i fun x y => x ^^^ y)

/-- SLTI (Table 6.2). -/
def execSlti (d a : Reg) (i : Imm 14) (s : State) : Host.Outcome State Fault Refusal :=
  issueOp s (lenImm i) (aluImm s.cur d a i fun x y => boolWord (x.slt y))

/-- The value of a U-format operand: the field times 2^13, a literal unshifted (R138). -/
def upperVal (i : Imm 19) : Word := immVal 8192 i

/-- LUI (Table 6.2). -/
def execLui (d : Reg) (i : Imm 19) (s : State) : Host.Outcome State Fault Refusal := issueOp s (lenImm i) (putX s.cur d (upperVal i))

/-- ADDPC (Table 6.2). -/
def execAddpc (d : Reg) (i : Imm 19) (s : State) : Host.Outcome State Fault Refusal :=
  issueOp s (lenImm i) do putX s.cur d ((← ctx s.cur).pc + upperVal i)

end Sys2Proof.Machine
end

