-- ==== Sys2Proof/Machine/Compact.lean ====
section
/-! DEFINITION. The compact forms (R35, Table 2.4): each the operation of the 32-bit form it equals, two bytes long. -/

namespace Sys2Proof.Machine

/-- x(8 + r') and f(8 + r') (R35). -/
def compactReg (r : Fin 8) : Reg := Fin.ofNat 32 (8 + r.val)

/-- The address of a compact memory form. -/
def compactAddr (c : CtxId) (base : Fin 8) (scale : Nat) (off : Fin 32) : X Word := do
  pure ((← getX c (compactReg base)) + BitVec.ofNat 64 (off.val * scale))

def compactLoad (base : Fin 8) (scale : Nat) (off : Fin 32) (dest : Dest) (s : State) : Host.Outcome State Fault Refusal :=
  issueOp s 2 do loadOp s.cur dest false (← compactAddr s.cur base scale off)

def compactStore (value : X Word) (base : Fin 8) (n : Nat) (off : Fin 32) (s : State) : Host.Outcome State Fault Refusal :=
  issueOp s 2 do
    let v ← value
    storeOp s.cur .plain n (← compactAddr s.cur base n off) v.toNat

/-- A signed field of n bits. -/
def compactImm {n : Nat} (v : BitVec n) : Word := v.signExtend 64

/-- C.LD (Table 2.4). -/
def execCLd (d b : Fin 8) (off : Fin 32) (s : State) : Host.Outcome State Fault Refusal := compactLoad b 8 off (.x (compactReg d) 8 false) s

/-- C.LW (Table 2.4). -/
def execCLw (d b : Fin 8) (off : Fin 32) (s : State) : Host.Outcome State Fault Refusal := compactLoad b 4 off (.x (compactReg d) 4 true) s

/-- C.LDF.D (Table 2.4). -/
def execCLdfD (d b : Fin 8) (off : Fin 32) (s : State) : Host.Outcome State Fault Refusal := compactLoad b 8 off (.f (compactReg d) 8) s

/-- C.LDF.W (Table 2.4). -/
def execCLdfW (d b : Fin 8) (off : Fin 32) (s : State) : Host.Outcome State Fault Refusal := compactLoad b 4 off (.f (compactReg d) 4) s

/-- C.ST (Table 2.4). -/
def execCSt (r b : Fin 8) (off : Fin 32) (s : State) : Host.Outcome State Fault Refusal := compactStore (getX s.cur (compactReg r)) b 8 off s

/-- C.SW (Table 2.4). -/
def execCSw (r b : Fin 8) (off : Fin 32) (s : State) : Host.Outcome State Fault Refusal := compactStore (getX s.cur (compactReg r)) b 4 off s

/-- C.STF.D (Table 2.4). -/
def execCStfD (r b : Fin 8) (off : Fin 32) (s : State) : Host.Outcome State Fault Refusal := compactStore (getF s.cur (compactReg r)) b 8 off s

/-- C.STF.W (Table 2.4). -/
def execCStfW (r b : Fin 8) (off : Fin 32) (s : State) : Host.Outcome State Fault Refusal := compactStore (getF s.cur (compactReg r)) b 4 off s

/-- C.ADDI (Table 2.4). -/
def execCAddi (d : Fin 8) (i : BitVec 8) (s : State) : Host.Outcome State Fault Refusal :=
  issueOp s 2 (unaryOp s.cur (compactReg d) (compactReg d) fun x => x + compactImm i)

/-- C.LI (Table 2.4). -/
def execCLi (d : Fin 8) (i : BitVec 8) (s : State) : Host.Outcome State Fault Refusal := issueOp s 2 (putX s.cur (compactReg d) (compactImm i))

/-- C.MV (Table 2.4). -/
def execCMv (d a : Fin 8) (s : State) : Host.Outcome State Fault Refusal := issueOp s 2 (unaryOp s.cur (compactReg d) (compactReg a) fun x => x)

/-- C.ADD (Table 2.4). -/
def execCAdd (d a : Fin 8) (s : State) : Host.Outcome State Fault Refusal :=
  issueOp s 2 (aluOp s.cur (compactReg d) (compactReg d) (.reg (compactReg a)) fun x y => x + y)

/-- C.SUB (Table 2.4). -/
def execCSub (d a : Fin 8) (s : State) : Host.Outcome State Fault Refusal :=
  issueOp s 2 (aluOp s.cur (compactReg d) (compactReg d) (.reg (compactReg a)) fun x y => x - y)

/-- C.AND (Table 2.4). -/
def execCAnd (d a : Fin 8) (s : State) : Host.Outcome State Fault Refusal :=
  issueOp s 2 (aluOp s.cur (compactReg d) (compactReg d) (.reg (compactReg a)) fun x y => x &&& y)

/-- C.OR (Table 2.4). -/
def execCOr (d a : Fin 8) (s : State) : Host.Outcome State Fault Refusal :=
  issueOp s 2 (aluOp s.cur (compactReg d) (compactReg d) (.reg (compactReg a)) fun x y => x ||| y)

/-- C.XOR (Table 2.4). -/
def execCXor (d a : Fin 8) (s : State) : Host.Outcome State Fault Refusal :=
  issueOp s 2 (aluOp s.cur (compactReg d) (compactReg d) (.reg (compactReg a)) fun x y => x ^^^ y)

/-- C.J (Table 2.4). -/
def execCJ (off : BitVec 11) (s : State) : Host.Outcome State Fault Refusal :=
  issueOp s 2 do transfer s.cur 2 ((← ctx s.cur).pc + parcelOff (.imm off))

/-- C.BEQZ (Table 2.4). -/
def execCBeqz (a : Fin 8) (off : BitVec 8) (s : State) : Host.Outcome State Fault Refusal :=
  issueOp s 2 (branchOp s.cur 2 (compactReg a) 0 (parcelOff (.imm off)) fun x y => x == y)

/-- C.BNEZ (Table 2.4). -/
def execCBnez (a : Fin 8) (off : BitVec 8) (s : State) : Host.Outcome State Fault Refusal :=
  issueOp s 2 (branchOp s.cur 2 (compactReg a) 0 (parcelOff (.imm off)) fun x y => x != y)

/-- C.JR (Table 2.4). -/
def execCJr (a : Fin 8) (s : State) : Host.Outcome State Fault Refusal := issueOp s 2 do linkJump s.cur 2 0 (← getX s.cur (compactReg a))

/-- C.FADD.W (Table 2.4). -/
def execCFaddW (d a : Fin 8) (s : State) : Host.Outcome State Fault Refusal :=
  issueOp s 2 (fpOp2 s.cur .w .frm (compactReg d) (compactReg d) (.reg (compactReg a)) fun f m u v => fvAdd f m u v)

/-- C.FMUL.W (Table 2.4). -/
def execCFmulW (d a : Fin 8) (s : State) : Host.Outcome State Fault Refusal :=
  issueOp s 2 (fpOp2 s.cur .w .frm (compactReg d) (compactReg d) (.reg (compactReg a)) fun f m u v => fvMul f m u v)

/-- C.FMA.W (Table 2.4): fd' ← fa' × fb' + fd'. -/
def execCFmaW (d a b : Fin 8) (s : State) : Host.Outcome State Fault Refusal :=
  issueOp s 2 (fmaOp s.cur .w (compactReg d) (compactReg a) (.reg (compactReg b)) (.reg (compactReg d)) false false)

/-- C.NOP (R164). -/
def execCNop (s : State) : Host.Outcome State Fault Refusal := issueOp s 2 (pure ())

end Sys2Proof.Machine
end

