-- ==== Sys2Proof/Machine/Copy.lean ====
section
/-! DEFINITION. The copy engine (R322 to R341): shadows, the checks at CPGO, tags, the walk, ring and demand fills, completion. -/

namespace Sys2Proof.Machine

/-! ## Shadows (R322, R332, R333) -/

def setShadow (c : CtxId) (n : Nat) (v : Word) : X Unit :=
  updCtx c fun x => { x with shadows := vecOfList 22 0 (setAt x.shadows.toList n v) }

/-- What a shadow takes of a value: cp.flags has no bits 63:14 and 7 (R7, R323). -/
def shadowBits (sh : Nat) (v : Word) : Word := if sh = 14 then v &&& 0x3F7F else v

/-- CPSET. -/
def execCpset (sh : Fin 17) (b : OpB) (s : State) : Host.Outcome State Fault Refusal :=
  issueOp s (lenB b) do setShadow s.cur sh.val (shadowBits sh.val (← opInt s.cur b))

/-- CPGET. -/
def execCpget (d : Reg) (sh : Fin 22) (s : State) : Host.Outcome State Fault Refusal :=
  issueOp s 4 do putX s.cur d ((← ctx s.cur).shadows[sh])

/-- The xk field of a word that decodes as MMA or MMAS, and whether it is MMAS. -/
def followOnReg (w : Nat) : Option (Reg × Bool) :=
  match decode [w % 65536, w / 65536] with
  | .ok (.mma _ _ _ k _ _ _, _) => some (k, false)
  | .ok (.mmas _ _ _ _ k _ _ _, _) => some (k, true)
  | _ => none

/-- CPFOL (R333). -/
def execCpfol (b : OpB) (s : State) : Host.Outcome State Fault Refusal :=
  issueOp s (lenB b) do
    let c := s.cur
    let w := bits (← opInt c b) 31 0
    if w = 0 then forEach [17, 18, 19, 20, 21] fun n => setShadow c n 0
    else
      match followOnReg w with
      | none => trapWith { code := cILLEGAL_OP, cursor := BitVec.ofNat 64 w }
      | some (k, est) =>
        let vs ← mapX (fun j => getX c (Fin.ofNat 32 (k.val + j))) (upFrom 0 (if est then 4 else 1))
        setShadow c 17 (BitVec.ofNat 64 w)
        forEach ((upFrom 18 vs.length).zip vs) fun p => setShadow c p.1 p.2

/-! ## Checks at CPGO (Table 17.3, R326) -/

def shadow (t : Transfer) (n : Nat) : Word := t.snap.toList.getD n 0
def srcSteps (t : Transfer) : List Int := ((t.snap.toList.drop 6).take 4).map BitVec.toInt
def dstSteps (t : Transfer) : List Int := ((t.snap.toList.drop 10).take 4).map BitVec.toInt
def xferBytes (t : Transfer) : Nat := xferTotal t * xferElem t
def xferRel (t : Transfer) : Bool := bit (xferFlags t) 4
def xferAcq (t : Transfer) : Bool := bit (xferFlags t) 3
def xferNorm (t : Transfer) : Bool := bit (xferFlags t) 11
def xferScale (t : Transfer) : Bool := bit (xferFlags t) 12
def xferMeta (t : Transfer) : Bool := bit (xferFlags t) 13

/-- Bytes of a side record (R327). -/
def sideBytes (r : Ring) (t : Transfer) : Nat :=
  (if xferScale t then (if r.isB then 128 else 256) else 0) + (if xferMeta t then 512 else 0)

/-- First byte and length of the bytes between a walk's extreme indices. -/
def walkExtent (base : Word) (dims : List Nat) (steps : List Int) (size : Nat) : Word × Nat :=
  let spans := (dims.zip steps).map fun p => (p.1 - 1 : Int) * p.2
  let lo := (spans.map fun x => min x 0).foldl (· + ·) 0
  let hi := (spans.map fun x => max x 0).foldl (· + ·) 0
  (base + BitVec.ofInt 64 lo, (hi - lo).toNat + size)

/-- The extents that a transfer uses: source, destination, side records, companion. -/
def xferExtents (r : Ring) (t : Transfer) : List (Word × Nat) :=
  let size := xferElem t
  let kind := xferKind t
  let tiles := if kind = 0 then 0 else xferTiles r t
  [walkExtent (shadow t 0) (xferDims t) (srcSteps t) size] ++
  (if kind = 0 then [walkExtent (shadow t 1) (xferDims t) (dstSteps t) size] else []) ++
  (if kind ≠ 0 && (xferScale t || xferMeta t) then [(shadow t 15, tiles * sideBytes r t)] else []) ++
  (if kind = 2 then [(shadow t 16, tiles * (32 / ringWidth r) * 4)] else [])

/-- The places that R74 permits a context, as (offset, size). -/
def localPlaces (s : State) (c : CtxId) : List (Nat × Nat) :=
  let g := (getCtx s c).grants
  if isStrand c then scratchGrants s c else (g.frameOff, g.frameSize) :: scratchGrants s c

/-- Places that may abut or overlap cover the offsets from lo to hi; `fuel` bounds the places used. -/
def covered (places : List (Nat × Nat)) (lo hi : Nat) : Nat → Bool
  | 0 => hi ≤ lo
  | n + 1 =>
    if hi ≤ lo then true
    else match places.find? fun p => p.1 ≤ lo && lo < p.1 + p.2 with
      | some p => covered places (p.1 + p.2) hi n
      | none => false

/-- An extent that begins in the LOCAL window ends there, inside the places of R74 and in SCRATCH banks; one that begins below does
not reach it (log 24). -/
def extentBad (s : State) (c : CtxId) (e : Word × Nat) : Bool :=
  if isLocal e.1 then
    let off := e.1.toNat - localBase
    let places := localPlaces s c
    2 ^ 64 < e.1.toNat + e.2 || !inScratchBanks (getCluster s (clusterOf c.cell)) off e.2 ||
    !covered places off (off + e.2) places.length
  else localBase < e.1.toNat + e.2

/-- The first offending value of a COPY's alignment. -/
def misaligned (t : Transfer) : Option Word :=
  ([shadow t 0, shadow t 1] ++ (t.snap.toList.drop 6).take 8).find? fun v => v.toNat % xferElem t != 0

/-- The ring checks of kinds 1 and 2. -/
def ringFits (r : Ring) (t : Transfer) : Bool :=
  if xferKind t = 1 then
    !r.isDemand && xferNorm t == r.hasNorms && xferScale t == r.isMx && xferMeta t == r.isSparse
  else r.isDemand && !xferNorm t && xferScale t == r.isMx && !xferMeta t && (shadow t 16).toNat % 4 == 0

/-- The walk is whole tiles, and the side records are aligned. -/
def tilesFit (r : Ring) (t : Transfer) : Bool :=
  let b := xferBytes t
  let z := ringTile r
  z != 0 && b % z == 0 && b / z != 0 && (!(xferScale t || xferMeta t) || (shadow t 15).toNat % 8 == 0)

/-- CHECK of R325: the first failure as a trap. -/
def checkXfer (s : State) (c : CtxId) (t : Transfer) : Option TrapInfo :=
  let cur := BitVec.ofNat 64 (bits (xferFlags t) 31 0)
  let x := getCtx s c
  let r := ringOf x (xferRing t)
  let badDim := findAt (fun d => d == 0 || 65536 < d) (xferDims t)
  let ring := xferKind t != 0
  if 2 < xferKind t then some { code := cSHAPE, cursor := cur }
  else
    match badDim with
    | some j => some { code := cSHAPE, cursor := BitVec.ofNat 64 j }
    | none =>
      match (if ring then none else misaligned t) with
      | some v => some { code := cALIGN, vaddr := v, cursor := cur }
      | none =>
        if ring && (isStrand c || x.grants.rings ≤ xferRing t) then some { code := cACC_NOT_OWNED, cursor := cur }
        else if ring && !ringFits r t then some { code := cSHAPE, cursor := cur }
        else if ring && !tilesFit r t then some { code := cSHAPE, cursor := BitVec.ofNat 64 (xferBytes t % 2 ^ 32) }
        else
          match (xferExtents r t).find? (extentBad s c) with
          | some e => some { code := cPROT, vaddr := e.1, cursor := cur }
          | none => none

/-! ## CPGO (R334) -/

/-- The snapshot of the shadows as a transfer that has not begun. -/
def newTransfer (c : CtxId) (x : Ctx) (snap : Vector Word 22) (tag : Nat) (tid : Word) : Transfer :=
  let t : Transfer :=
    { tid := tid, tag := tag, ctx := c, ident := x.ident, aindex := aindexOf (actidOf x.ident.root), msgid := triggerId x,
      snap := snap, pc := x.pc, cursor := 0, pushed := 0, bytes := 0, handOver := false, suspended := false,
      cancelled := false, code := 0, written := false, slices := [], placed := false, firstSeq := 0, folHeld := false,
      got := [], asked := [] }
  { t with handOver := xferAcq t }

/-- The transfer identifier (Table 17.4). -/
def newTid (cl tag slot count : Nat) : Word := BitVec.ofNat 64 (cl * 2 ^ 32 + tag * 2 ^ 26 + slot * 2 ^ 21 + count)

def inFlight (s : State) (cl : Nat) : Nat := ((getCluster s cl).transfers.filter fun t => !t.suspended).length

/-- TAGS[tag] = 0: a trap, or in a rerun a wait for a tag that the first attempt cleared. -/
def needTag (c : CtxId) (tag : Nat) : X Unit := do
  let x ← ctx c
  if !bit x.tag.tags tag then
    if x.sec.rerun && bit x.sec.clearedTags tag then stallWith .other
    else trapWith { code := cTAG_BUSY, cursor := BitVec.ofNat 64 tag }

def setTag (x : Ctx) (tag : Nat) (on : Bool) (status : Word) : Ctx :=
  { x with tag := { tags := setBits x.tag.tags tag tag (if on then 1 else 0),
                    status := vecOfList 64 0 (setAt x.tag.status.toList tag status) } }

/-- Strips that the cluster's Mortar agent is moving count against the engine's 32 (R356). -/
def engineRoom (s : State) (cl : Nat) : Bool :=
  inFlight s cl + ((getCluster s cl).strips.filter fun h => h.held.isNone).length < 32

/-- CPGO. The snapshot and its checks are made once; what a stall keeps is the follow-on word taken. -/
def execCpgo (d : Reg) (b : OpB) (s : State) : Host.Outcome State Fault Refusal :=
  issueOp s (lenB b) do
    let c := s.cur
    let cl := clusterOf c.cell
    let tag := bits (← opInt c b) 5 0
    needX c d
    let p := progressOf (← ctx c)
    if p.acc.isEmpty then
      needTag c tag
      let x ← ctx c
      match checkXfer (← get) c (newTransfer c x x.shadows tag 0) with
      | some t => trapWith t
      | none =>
        let fol := x.shadows.toList.getD 17 0
        modify (setProgress c { p with acc := [fol] })
        setShadow c 17 0
    let x ← ctx c
    let snap : Vector Word 22 := vecOfList 22 0 (setAt x.shadows.toList 17 ((progressOf x).acc.headD 0))
    let probe := newTransfer c x snap tag 0
    if xferKind probe = 0 && !isLocal (walkExtent (shadow probe 1) (xferDims probe) (dstSteps probe) (xferElem probe)).1 then
      immediate c
    if !engineRoom (← get) cl then stallWith .full
    let tid := newTid cl tag c.slot (getCluster (← get) cl).cpCount.toNat
    let t := newTransfer c (← ctx c) snap tag tid
    modify fun s => modCluster s cl fun k => { k with transfers := k.transfers ++ [t], cpCount := k.cpCount + 1 }
    updCtx c fun y =>
      let z := setTag y tag false (BitVec.ofNat 64 (2 ^ 63))
      if z.sec.rerun then z
      else { z with sec := { z.sec with clearedTags := z.sec.clearedTags ||| BitVec.ofNat 64 (2 ^ tag) } }
    putX c d tid

/-! ## Tags (R335 to R338) -/

/-- WTAG (R335). -/
def wtagOp (c : CtxId) (any : Bool) (d : Reg) (b : OpB) : X Unit := do
  let m ← opInt c b
  needX c d
  let got := (← ctx c).tag.tags &&& m
  if !(if any then m == 0 || got != 0 else got == m) then stallWith (.tags m any)
  acquire c
  putX c d got

/-- WTAG.ALL. -/
def execWtagAll (d : Reg) (b : OpB) (s : State) : Host.Outcome State Fault Refusal := issueOp s (lenB b) (wtagOp s.cur false d b)

/-- WTAG.ANY. -/
def execWtagAny (d : Reg) (b : OpB) (s : State) : Host.Outcome State Fault Refusal := issueOp s (lenB b) (wtagOp s.cur true d b)

/-- FFR (R336). -/
def execFfr (d : Reg) (b : OpB) (s : State) : Host.Outcome State Fault Refusal :=
  issueOp s (lenB b) do
    let m ← opInt s.cur b
    let got := (← ctx s.cur).tag.tags &&& m
    putX s.cur d (match (upFrom 0 64).find? (fun n => bit got n) with
      | some n => BitVec.ofNat 64 n
      | none => BitVec.allOnes 64)

/-- TAGST (R337). -/
def execTagst (d : Reg) (b : OpB) (s : State) : Host.Outcome State Fault Refusal :=
  issueOp s (lenB b) do
    let c := s.cur
    let n := bits (← opInt c b) 5 0
    needX c d
    let v := (← ctx c).tag.status.toList.getD n 0
    if !bit v 63 then acquire c
    putX c d v

/-- A cancelled transfer: no further write, no follow-on, CODE 0xFF (R338). -/
def cancelXfer (t : Transfer) : Transfer :=
  { t with cancelled := true, written := true, code := 0xFF, suspended := false, folHeld := false }

/-- The lanes of a demand fill that will fetch no more: later reads are +0. -/
def deadLanes (s : State) (t : Transfer) : State :=
  if xferKind t ≠ 2 then s
  else modRing s t.ctx (xferRing t) fun r =>
    { r with lanes := (upFrom 0 t.pushed).foldl (fun l i =>
        let n := ringSlot r ((t.firstSeq + i) % 65536)
        match tfind l n with
        | some e => if e.seqNorm = BitVec.ofNat 16 (t.firstSeq + i) then tput l n { e with live := false } else l
        | none => l) r.lanes }

def modXfer (s : State) (cl : Nat) (tid : Word) (f : Transfer → Transfer) : State :=
  modCluster s cl fun k => { k with transfers := k.transfers.map fun t => if t.tid = tid then f t else t }

/-- CPCAN (R338). -/
def execCpcan (d a : Reg) (s : State) : Host.Outcome State Fault Refusal :=
  issueOp s 4 do
    let c := s.cur
    let cl := clusterOf c.cell
    let id ← getX c a
    needX c d
    let x ← ctx c
    match (getCluster (← get) cl).transfers.find? fun t =>
        decide (t.tid = id) && decide (t.ctx = c) && decide (t.ident = x.ident) && !t.cancelled with
    | some t =>
      modify fun s => modXfer (deadLanes s t) cl t.tid cancelXfer
      putX c d 1
    | none => putX c d 0

/-! ## Accesses of the engine (R63, R324, R340) -/

/-- The address of walk element n (R324). -/
def walkAddr (base : Word) (dims : List Nat) (steps : List Int) (n : Nat) : Word :=
  match dims, steps with
  | d :: ds, st :: ss => walkAddr (base + BitVec.ofInt 64 ((n % max 1 d : Nat) * st)) ds ss (n / max 1 d)
  | _, _ => base

/-- Coordinates of element n as the CURSOR of Table 17.8. -/
def walkCursor (dims : List Nat) (n : Nat) : Word :=
  let c := coords dims n
  BitVec.ofNat 64 (c.getD 0 0 + c.getD 1 0 * 2 ^ 16 + c.getD 2 0 * 2 ^ 32 + c.getD 3 0 * 2 ^ 48)

/-- A translation by an engine of a cluster: TLB hit or walk; the cause of a failure; none while a slice that the walk needs has no
miss entry left (R84). -/
def engineTranslate (s : State) (cl : Nat) (asid : BitVec 16) (va : Word) (kind : Fin 4) :
    Except Nat (Option (Nat × Word) × State) :=
  match (if canonical va then tlbFind (getCluster s cl) asid va kind else none) with
  | some e => .ok (some (leafKey s e.pte (leafPa e.pte va e.block), e.pte), s)
  | none =>
    match walk s asid va kind with
    | .ok pa e block s' =>
      .ok (some (leafKey s' e pa, e), modCluster s' cl fun k => tlbFill k { asid := asid, vpn := vpnOf va, block := block, pte := e })
    | .fault _ cause _ => .error cause
    | .dead => .error 0
    | .busy => .ok (none, s)

/-- Where a byte of a transfer lies: its address, the member of a window address, NOALLOC of its page (R81). -/
structure XferLoc where
  addr : Nat
  member : Nat
  noalloc : Bool

/-- The place of a byte of a transfer (LOCAL extents were checked at CPGO), or the cause of a fault (R340); none while it must
wait. -/
def xferPlace (s : State) (cl : Nat) (t : Transfer) (va : Word) (kind : Fin 4) : Except Nat (Option XferLoc × State) :=
  let denied := if kind = kRead then 8 else 9
  if isWindow va then
    match launchAt s t.ident.lslot.toNat with
    | none => .error denied
    | some l =>
      let k := kbase (some l)
      let size := max 1 (l.packet.kshare * 1024)
      let m := (va.toNat - k) / size
      let off := (va.toNat - k) % size
      if k = 0 ∨ l.packet.gangn ≤ m ∨ l.packet.scratch ≤ off then .error denied
      else
        match windowGone t.ctx (getCtx s t.ctx) l with
        | some cause => .error cause
        | none => .ok (some ⟨shareAddr s l m off, m, false⟩, s)
  else if isLocal va then .ok (some ⟨storeKey (ownModule s) cl (va.toNat - localBase), 0, false⟩, s)
  else
    match engineTranslate s cl t.ident.asid va kind with
    | .error c => .error c
    | .ok (none, s1) => .ok (none, s1)
    | .ok (some (a, e), s1) =>
      if keyModule a = ownModule s && foldedAway s.hub.outMem (keyPa a) then .error 0 else .ok (some ⟨a, 0, pteNoalloc e⟩, s1)

/-- A Keystone request of a transfer to a peer member's share (R401). -/
def xferShare (s : State) (cl : Nat) (t : Transfer) (l : XferLoc) (st : Option WordStore) : State :=
  gwPush s (queueToHome s (dieOfCluster cl) l.addr)
    (.share { ctx := t.ctx, id := 0, addr := wordKey l.addr, member := l.member, lslot := t.ident.lslot.toNat, store := st,
              origin := .xfer t.tid, atomic := none })

/-- The transfer has already asked for a word of a peer member's share. -/
def hasAsked (s : State) (cl : Nat) (tid : Word) (a : Nat) : Bool :=
  (getCluster s cl).transfers.any fun u => decide (u.tid = tid) && u.asked.contains a

/-- An earlier chunk's write of a transfer to a word has not yet propagated: a read that the transfer makes of it waits, so that it
finds what the earlier chunk wrote (R324). -/
def ownWritePending (s : State) (tid : Word) (a : Nat) : Bool :=
  s.cells.any (fun c => c.2.regq.any fun e => decide (e.origin = .xfer tid) && e.store.addr == a) ||
  s.gwq.any fun q => q.2.any fun e => decide (entryOrigin e = some (.xfer tid)) && decide (entryAddr e = some a)

/-- Some write of a transfer has not yet propagated, whichever cluster made it (R53, R339). -/
def xferUnpropagated (s : State) (tid : Word) : Bool :=
  s.cells.any (fun c => c.2.regq.any fun e => decide (e.origin = .xfer tid)) ||
  s.gwq.any fun q => q.2.any fun e => decide (entryOrigin e = some (.xfer tid))

/-- A word as the engine reads it: at its home, from the gateway copy, or from a window owner's reply; none when it has been
asked for (R63). -/
def xferWord (s : State) (cl : Nat) (t : Transfer) (l : XferLoc) : Option Word × State :=
  let a := wordKey l.addr
  let die := dieOfCluster cl
  let cls := if xferKind t = 0 then 1 else 2
  let s0 := touchLine s cl a cls l.noalloc
  if keySpace a = 1 then (some (readWord s.mem a), s)
  else if keySpace a = 2 then
    match t.got.find? fun g => g.1 == a with
    | some g => (some g.2, s)
    | none =>
      if hasAsked s cl t.tid a then (none, s)
      else (none, modXfer (xferShare s cl t l none) cl t.tid fun u => { u with asked := a :: u.asked })
  else if ownWritePending s t.tid a || (homedHere s die a && !clusterHolds (getCluster s cl) a && sliceBusy s a) then (none, s)
  else if homedHere s die a then (some (readWord s.mem a), s0)
  else
    match gwCopy s die a with
    | some v => (some v, s0)
    | none => (none, requestFill s0 (cl * 4) a none cls l.noalloc false)

/-- n bytes within one word. -/
def xferReadPart (s : State) (cl : Nat) (t : Transfer) (va : Word) (n : Nat) : Except (Word × Nat) (Option Nat × State) :=
  match xferPlace s cl t va kRead with
  | .error c => .error (va, c)
  | .ok (none, s1) => .ok (none, s1)
  | .ok (some l, s1) =>
    let r := xferWord s1 cl t l
    .ok (r.1.map fun v => bytesOfWord v (l.addr % 8) n, r.2)

/-- An element: one access, or byte by byte where a ring kind's walk is not aligned. -/
def xferRead (s : State) (cl : Nat) (t : Transfer) (va : Word) (n : Nat) : Except (Word × Nat) (Option Nat × State) :=
  if va.toNat % n = 0 then xferReadPart s cl t va n
  else (upFrom 0 n).foldl (fun acc i =>
    match acc with
    | .error e => .error e
    | .ok (v, s1) =>
      match xferReadPart s1 cl t (va + BitVec.ofNat 64 i) 1 with
      | .error e => .error e
      | .ok (b, s2) => .ok (match v, b with | some x, some y => some (x + y * 2 ^ (8 * i)) | _, _ => none, s2)) (.ok (some 0, s))

/-- The elements at a list of addresses; none of them when one has yet to arrive (all are asked for). -/
def xferReads (s : State) (cl : Nat) (t : Transfer) (n : Nat) :
    List Word → Except (Word × Nat) (Option (List Nat) × State)
  | [] => .ok (some [], s)
  | va :: r =>
    match xferRead s cl t va n with
    | .error e => .error e
    | .ok (v, s1) =>
      match xferReads s1 cl t n r with
      | .error e => .error e
      | .ok (vs, s2) => .ok (match v, vs with | some x, some xs => some (x :: xs) | _, _ => none, s2)

/-- A write of the engine (R324): the cluster store at once, a global word through the engine's pending writes (kept in the
registration queue of the cluster's first cell), a peer member's share by a request; none while it must wait. -/
def xferWrite (s : State) (cl : Nat) (t : Transfer) (va : Word) (n v : Nat) : Except (Word × Nat) (Option State) :=
  match xferPlace s cl t va kWrite with
  | .error c => .error (va, c)
  | .ok (none, _) => .ok none
  | .ok (some l, s1) =>
    let a := l.addr
    if keySpace a = 1 then .ok (some { s1 with mem := writeLE s1.mem a n v })
    else if keySpace a = 2 then .ok (some (xferShare s1 cl t l (some (byteStore a n v))))
    else .ok (some <| modCell s1 (cl * 4) fun x => { x with regq := x.regq ++ [{ origin := .xfer t.tid, store := { byteStore a n v with noalloc := l.noalloc } }] })

/-- Every destination is checked before the first write of a chunk. -/
def xferWrites (s : State) (cl : Nat) (t : Transfer) (n : Nat) : List (Word × Nat) → Except (Word × Nat) (Option State)
  | [] => .ok (some s)
  | (va, v) :: r =>
    match xferWrite s cl t va n v with
    | .error e => .error e
    | .ok none => .ok none
    | .ok (some s1) => xferWrites s1 cl t n r

/-! ## Suspension (R340) -/

/-- The record of Table 17.8. -/
def xferRecord (s : State) (cl : Nat) (t : Transfer) (va : Word) (kind : Fin 4) (cause n : Nat) : FaultRecord :=
  { code := BitVec.ofNat 8 cCOPY_SUSPENDED, unit := 2, unitIdx := BitVec.ofNat 16 cl, asid := t.ident.asid, sections := 0,
    ident := if isStrand t.ctx then t.ident.gtid else BitVec.ofNat 64 (actidOf t.ident.root), msgid := t.tid, pc := t.pc,
    vaddr := faultVa va kind cause, cursor := walkCursor (xferDims t) n, lane := BitVec.ofNat 16 t.tag,
    flags := if isStrand t.ctx then 2 else 0, dtc := s.dtc }

def suspendXfer (s : State) (cl : Nat) (t : Transfer) (e : Word × Nat) (kind : Fin 4) (n : Nat) : State :=
  pushRecord (modXfer s cl t.tid fun u => { u with suspended := true }) (xferRecord s cl t e.1 kind e.2 n)

/-! ## Moves -/

/-- A transfer that can go on: not suspended, its writes not all made, its launch not being evicted, and its hand-over
release performed (R64, R341). -/
def xferRuns (s : State) (t : Transfer) : Bool :=
  !t.suspended && !t.written && !launchEvicting s t.ident.lslot && (!t.handOver || !unpropagated s t.ctx.cell (.ctx t.ctx))

/-- A transfer has started: it has read, or it is a ring fill that waits for a slot alone. One that stands still does not count
(R334). -/
def xferStarted (s : State) (t : Transfer) : Bool :=
  t.started || t.suspended || t.written || launchEvicting s t.ident.lslot || (xferKind t != 0 && xferRuns s t)

/-- The transfer at an index may go on: transfers start in CPGO order (R334). -/
def xferMay (s : State) (cl idx : Nat) (t : Transfer) : Bool :=
  xferRuns s t && (t.started || ((getCluster s cl).transfers.take idx).all (xferStarted s))

/-- It has begun to read, and waits for what it has asked for. -/
def xferWaits (s : State) (cl : Nat) (t : Transfer) : State := modXfer s cl t.tid fun u => { u with started := true, handOver := false }

/-- Elements of a chunk. -/
def chunkElems (t : Transfer) : Nat := 4096 / xferElem t

/-- COPY_CHUNK (R324): the next chunk is read whole, then written. -/
def copyChunkMove (s : State) (cl idx : Nat) : Option State :=
  match (getCluster s cl).transfers[idx]? with
  | none => none
  | some t =>
    if xferKind t ≠ 0 || !xferMay s cl idx t then none
    else
      let ns := upFrom t.cursor (min (chunkElems t) (xferTotal t - t.cursor))
      let size := xferElem t
      match xferReads s cl t size (ns.map (walkAddr (shadow t 0) (xferDims t) (srcSteps t))) with
      | .error e => some (suspendXfer s cl t e kRead t.cursor)
      | .ok (none, s1) => some (xferWaits s1 cl t)
      | .ok (some vs, s1) =>
        match xferWrites s1 cl t size ((ns.map (walkAddr (shadow t 1) (xferDims t) (dstSteps t))).zip vs) with
        | .error e => some (suspendXfer s1 cl t e kWrite t.cursor)
        | .ok none => none
        | .ok (some s2) =>
          let n := t.cursor + ns.length
          some (modXfer s2 cl t.tid fun u =>
            { u with cursor := n, bytes := u.bytes + ns.length * size, started := true, handOver := false, got := [], asked := [],
                     written := decide (xferTotal t ≤ n) })

/-- COPY_CHUNK. -/
def execCopyChunk (cluster idx : Nat) (s : State) : Host.Outcome State Fault Refusal := move (copyChunkMove s cluster idx) s

/-- An earlier transfer into the same ring has tiles still to push (R327). -/
def ringBlocked (s : State) (cl idx : Nat) (t : Transfer) : Bool :=
  ((getCluster s cl).transfers.take idx).any fun u =>
    decide (u.ctx = t.ctx) && xferKind u != 0 && xferRing u == xferRing t && !u.written &&
    u.pushed < xferTiles (ringOf (getCtx s t.ctx) (xferRing u)) u

/-- Values packed as one number, n bytes each. -/
def packBytes (n : Nat) (vs : List Nat) : Nat := vs.foldr (fun x acc => x % 2 ^ (8 * n) + 2 ^ (8 * n) * acc) 0

/-- How far a tile's data have come: whether all of it has landed, the next element, and what its chunk met. -/
structure SlotFill where
  whole : Bool
  next : Nat
  error : Option (Word × Nat)

/-- The data of a tile, chunk by chunk into its slot, from an element on. Chunks already written stand (R340). -/
def fillSlot (s : State) (cl : Nat) (t : Transfer) (slot first count : Nat) : Nat → SlotFill × State
  | 0 => (⟨true, first, none⟩, s)
  | fuel + 1 =>
    if count = 0 then (⟨true, first, none⟩, s)
    else
      let size := xferElem t
      let n := min count (chunkElems t)
      match xferReads s cl t size ((upFrom first n).map (walkAddr (shadow t 0) (xferDims t) (srcSteps t))) with
      | .error e => (⟨false, first, some e⟩, s)
      | .ok (none, s1) => (⟨false, first, none⟩, s1)
      | .ok (some vs, s1) =>
        let s2 := modXfer { s1 with mem := writeLE s1.mem slot (n * size) (packBytes size vs) } cl t.tid fun u =>
          { u with got := [], asked := [] }
        fillSlot s2 cl { t with got := [] } (slot + n * size) (first + n) (count - n) fuel

/-- Words from an address of the transfer's space. -/
def sideWords (s : State) (cl : Nat) (t : Transfer) (va : Word) (size n : Nat) :
    Except (Word × Nat) (Option (List Nat) × State) :=
  xferReads s cl t size ((upFrom 0 n).map fun i => va + BitVec.ofNat 64 (size * i))

/-- The bytes of a side record as scale and metadata lane entries. -/
def sideLanes (r : Ring) (t : Transfer) (ws : List Nat) : List Byte × List Byte :=
  let bs := ws.flatMap fun w => (upFrom 0 8).map fun i => BitVec.ofNat 8 (w / 2 ^ (8 * i))
  let z := if xferScale t then (if r.isB then 128 else 256) else 0
  (bs.take z, bs.drop z)

/-- The norm of one slice of a tile (R288): exact squares, one rounding at each addition, then the square root. -/
def laneNorm (rows : List (List (Option FVal))) : Word32 :=
  let sq := rows.flatten.foldl (fun acc v =>
    match v with
    | some x => (fvFma fp32 RNE x x (fpDecode fp32 acc)).1
    | none => acc) 0
  BitVec.ofNat 32 (fvSqrt fp32 RNE (fpDecode fp32 sq)).1

/-- The norm lane of a landed tile. -/
def tileNorms (r : Ring) (data : Nat) (l : SideLanes) : List Word32 :=
  let w := ringWidth r
  (upFrom 0 (32 / w)).map fun sl =>
    laneNorm ((upFrom 0 (if r.isB then 32 else 64)).map fun i =>
      (upFrom (sl * w) w).map fun k => if r.isB then some (bVal r data l i k) else aVal r data l i k)

/-- Elements of the next tile whose chunks have been written into its slot; none once another push has taken the slot's number in
between, so that the tile starts again (log 109). -/
def tileDone (t : Transfer) (r : Ring) (per : Nat) : Nat := if t.tileSeq = r.seq then t.cursor - t.pushed * per else 0

/-- A ring fill pushes its next tile (R327). -/
def pushRing (s : State) (cl : Nat) (t : Transfer) (r : Ring) : State :=
  let tile := ringTile r
  let per := tile / xferElem t
  let slot := slotAddr s t.ctx r r.seq.toNat
  let done := tileDone t r per
  let first := t.pushed * per + done
  let f := fillSlot s cl t (slot + done * xferElem t) first (per - done) (per + 1)
  let s1 := modXfer f.2 cl t.tid fun u =>
    { u with started := true, handOver := false, cursor := f.1.next, tileSeq := r.seq }
  match f.1.error with
  | some e => suspendXfer s1 cl t e kRead (f.1.next / chunkElems t * chunkElems t)
  | none =>
    let z := sideBytes r t
    match (if f.1.whole then sideWords s1 cl t (shadow t 15 + BitVec.ofNat 64 (t.pushed * z)) 8 (z / 8) else .ok (none, s1)) with
    | .error e => suspendXfer s1 cl t e kRead ((f.1.next - 1) / chunkElems t * chunkElems t)
    | .ok (none, s2) => s2
    | .ok (some ws, s2) =>
      let sd := sideLanes r t ws
      let l0 := { SideLanes.blank with scale := sd.1, meta24 := sd.2 }
      let l := if xferNorm t then { l0 with norm := tileNorms r (readLE s2.mem slot tile) l0 } else l0
      let s3 := modRing s2 t.ctx (xferRing t) (ringPush (if r.hasNorms || r.isMx || r.isSparse then some l else none))
      modXfer s3 cl t.tid fun u =>
        { u with pushed := u.pushed + 1, cursor := (u.pushed + 1) * per, bytes := u.bytes + tile, got := [], asked := [],
                 firstSeq := if u.pushed = 0 then r.seq.toNat else u.firstSeq,
                 written := decide (xferTiles r t ≤ u.pushed + 1) }

/-- A demand fill gives its next slot norms, side record and number; its data come later (R328). -/
def pushDemand (s : State) (cl : Nat) (t : Transfer) (r : Ring) : State :=
  let per := 32 / ringWidth r
  let n := t.pushed * (ringTile r / xferElem t) / chunkElems t * chunkElems t
  match sideWords s cl t (shadow t 16 + BitVec.ofNat 64 (t.pushed * per * 4)) 4 per with
  | .error e => suspendXfer s cl t e kRead n
  | .ok (none, s1) => xferWaits s1 cl t
  | .ok (some ns, s1) =>
    let z := sideBytes r t
    match sideWords s1 cl t (shadow t 15 + BitVec.ofNat 64 (t.pushed * z)) 8 (z / 8) with
    | .error e => suspendXfer s1 cl t e kRead n
    | .ok (none, s2) => xferWaits s2 cl t
    | .ok (some ws, s2) =>
      let l : SideLanes :=
        { SideLanes.blank with norm := ns.map (BitVec.ofNat 32), scale := (sideLanes r t ws).1, fetched := 0, live := true }
      let s3 := modRing s2 t.ctx (xferRing t) (ringPush (some l))
      modXfer s3 cl t.tid fun u =>
        { u with pushed := u.pushed + 1, started := true, handOver := false, got := [], asked := [],
                 firstSeq := if u.pushed = 0 then r.seq.toNat else u.firstSeq }

/-- RING_TILE_PUSH (R327, R328). -/
def ringPushMove (s : State) (cl idx : Nat) : Option State :=
  match (getCluster s cl).transfers[idx]? with
  | none => none
  | some t =>
    let r := ringOf (getCtx s t.ctx) (xferRing t)
    if xferKind t = 0 || !xferMay s cl idx t || ringBlocked s cl idx t || ringFull r || xferTiles r t ≤ t.pushed then none
    else if xferKind t = 1 then some (pushRing s cl t r)
    else some (pushDemand s cl t r)

/-- RING_TILE_PUSH. -/
def execRingTilePush (cluster idx : Nat) (s : State) : Host.Outcome State Fault Refusal := move (ringPushMove s cluster idx) s

/-- The tile and slice that the EME asks a demand fill for next: the lowest one not fetched, in a tile already pushed. -/
def askedSlice (s : State) (cl : Nat) (t : Transfer) (r : Ring) : Option (Nat × Nat) :=
  (getCluster s cl).eme.findSome? fun o =>
    if o.owner ≠ t.ctx || o.ringB ≠ xferRing t || o.stop then none
    else
      let first := firstTile r o.id
      let w := sampWidth o.samp
      (wantedSlices o).findSome? fun sl =>
        let n := (first + sl * w / 32) % 65536
        let i := (n + 65536 - t.firstSeq) % 65536
        if i < t.pushed && !sliceLanded r first w sl then some (i, sl) else none

/-- Walk elements that hold a part of a tile's bits lo to hi - 1. -/
def bitUnits (size lo hi : Nat) : List Nat := upFrom (lo / 8 / size) ((hi - 1) / 8 / size - lo / 8 / size + 1)

/-- Walk elements of a tile that hold a part of a slice. -/
def sliceUnits (r : Ring) (size w sl : Nat) : List Nat :=
  let b := elemBits r.fmt.toNat
  ((upFrom 0 32).flatMap fun j =>
    let k := 32 * j + sl * w % 32
    bitUnits size (k * b) ((k + w) * b)).eraseDups

/-- DEMAND_SLICE_FETCH (R328). -/
def sliceFetchMove (s : State) (cl idx : Nat) : Option State :=
  match (getCluster s cl).transfers[idx]? with
  | none => none
  | some t =>
    let r := ringOf (getCtx s t.ctx) (xferRing t)
    if xferKind t ≠ 2 || !xferRuns s t then none
    else
      match askedSlice s cl t r with
      | none => none
      | some (i, sl) =>
        let size := xferElem t
        let w := ringWidth r
        let per := ringTile r / size
        let us := sliceUnits r size w sl
        let n := (t.firstSeq + i) % 65536
        match xferReads s cl t size (us.map fun u => walkAddr (shadow t 0) (xferDims t) (srcSteps t) (i * per + u)) with
        | .error e => some (suspendXfer s cl t e kRead ((i * per + us.headD 0) / chunkElems t * chunkElems t))
        | .ok (none, s1) => some s1
        | .ok (some vs, s1) =>
          let base := slotAddr s1 t.ctx r n
          let mem := (us.zip vs).foldl (fun m q => writeLE m (base + q.1 * size) size q.2) s1.mem
          let s2 := modRing { s1 with mem := mem } t.ctx (xferRing t) fun q =>
            match slotLanes q n with
            | some e => { q with lanes := tput q.lanes (ringSlot q n) { e with fetched := e.fetched ||| sliceMask w sl } }
            | none => q
          some (modXfer s2 cl t.tid fun u =>
            { u with bytes := u.bytes + us.length * size, slices := u.slices ++ [i * 32 / w + sl % (32 / w)], got := [], asked := [] })

/-- DEMAND_SLICE_FETCH. -/
def execDemandSliceFetch (cluster idx : Nat) (s : State) : Host.Outcome State Fault Refusal := move (sliceFetchMove s cluster idx) s

/-! ## Completion (R339) -/

def hasFollowOn (t : Transfer) : Bool := shadow t 17 != 0 && !t.placed

/-- The follow-on step: placed, held for an entry, or not due. -/
def followStep (s : State) (cl : Nat) (t : Transfer) : Option State :=
  match placeFollowOn s cl t t.folHeld with
  | some s1 => some (modXfer s1 cl t.tid fun u => { u with placed := true, folHeld := false })
  | none => if t.folHeld then none else some (modXfer s cl t.tid fun u => { u with folHeld := true })

/-- The status word, then the tag (R330), if the context still is the one that launched the transfer. -/
def finishXfer (s : State) (cl : Nat) (t : Transfer) : State :=
  let status := BitVec.ofNat 64 (t.code.toNat * 2 ^ 48 + t.bytes % 2 ^ 48)
  let s1 := modCluster s cl fun k => { k with transfers := k.transfers.filter fun u => u.tid != t.tid }
  if (getCtx s t.ctx).ident = t.ident then modCtx s1 t.ctx fun x => setTag x t.tag true status else s1

/-- COPY_TRANSFER_COMPLETION: each move makes the next of its steps. -/
def completionMove (s : State) (cl idx : Nat) : Option State :=
  match (getCluster s cl).transfers[idx]? with
  | none => none
  | some t =>
    let r := ringOf (getCtx s t.ctx) (xferRing t)
    if launchEvicting s t.ident.lslot then none
    else if xferKind t = 2 && !t.written then
      if hasFollowOn t && xferTiles r t ≤ t.pushed then followStep s cl t else none
    else if !t.written || (xferRel t && xferUnpropagated s t.tid) then none
    else if t.code = 0 && hasFollowOn t && (xferKind t ≠ 2 || xferTiles r t ≤ t.pushed) then followStep s cl t
    else some (finishXfer s cl t)

/-- COPY_TRANSFER_COMPLETION. -/
def execCopyTransferCompletion (cluster idx : Nat) (s : State) : Host.Outcome State Fault Refusal :=
  move (completionMove s cluster idx) s

end Sys2Proof.Machine
end

