-- ==== Sys2Proof/Machine/Fabric.lean ====
section
/-! DEFINITION. The instructions of major 0x1B (R405 to R409), the window's collapse (R404), Keystone requests at their owners
(R401) and the arrival of reduction contributions (R409, R410). -/

namespace Sys2Proof.Machine

/-- The gang of the context's launch. -/
def gangOf (s : State) (c : CtxId) : Option Gang :=
  match launchAt s (getCtx s c).ident.lslot.toNat with
  | some l => l.gang
  | none => none

/-! ## KDETACH, KSTAT, NSTAT (R406 to R408) -/

/-- KDETACH: one effect entry; nothing in a launch without GANG. -/
def execKdetach (s : State) : Host.Outcome State Fault Refusal :=
  issueOp s 4 do
    if isStrand s.cur then illegal
    if (gangOf (← get) s.cur).isSome then effect s.cur false .kdetach

/-- S of R400, 0 when KBASE is 0. -/
def shareSize (l : Option Launch) : Nat :=
  match l with
  | some l => if kbase (some l) = 0 then 0 else l.packet.kshare * 1024
  | none => 0

/-- Code 0 of Table 21.7. -/
def windowState (g : Gang) : Word :=
  let dep := match g.departed with | m :: _ => 2 ^ 40 + m % 256 * 2 ^ 32 | [] => 0
  BitVec.ofNat 64 (g.state.val + g.member % 256 * 2 ^ 8 + g.modules.length % 512 * 2 ^ 16 + dep + g.cause % 8 * 2 ^ 41)

/-- A KSTAT result (Table 21.7). -/
def kstatValue (s : State) (c : CtxId) (code : Nat) : Word :=
  match gangOf s c with
  | none => 0
  | some g =>
    match code with
    | 0 => windowState g
    | 5 => BitVec.ofNat 64 (shareSize (launchAt s (getCtx s c).ident.lslot.toNat))
    | k => BitVec.ofNat 64 (elemAt g.detached 64 (k - 1))

/-- KSTAT. -/
def execKstat (d : Reg) (code : Fin 6) (s : State) : Host.Outcome State Fault Refusal :=
  issueOp s 4 do
    if isStrand s.cur then illegal
    putX s.cur d (kstatValue (← get) s.cur code.val)

/-- The capability vector of a G980 (R397). -/
def ownCapability : Nat := 0x03FF1FFF

/-- The ports that satisfy a test, as a bit mask. -/
def portMask (s : State) (p : Port → Bool) : Nat :=
  ((upFrom 0 30).map fun i => if p (s.hub.ports.toList.getD i Port.reset) then 2 ^ i else 0).sum

/-- An NSTAT result (Table 21.8). -/
def nstatValue (s : State) (code : Nat) : Word :=
  match code with
  | 0 => BitVec.ofNat 64 (s.hub.modCol.toNat + s.hub.modRow.toNat * 2 ^ 4 + s.hub.rowsM1.toNat * 2 ^ 8 + s.hub.colsM1.toNat * 2 ^ 12)
  | 1 => BitVec.ofNat 64 (portMask s (·.up))
  | 2 => BitVec.ofNat 64 (portMask s fun p => p.out.keywait || p.inn.keywait)
  | _ => BitVec.ofNat 64 ownCapability

/-- NSTAT. -/
def execNstat (d : Reg) (code : Fin 4) (s : State) : Host.Outcome State Fault Refusal :=
  issueOp s 4 do putX s.cur d (nstatValue (← get) code.val)

/-! ## NRED (R409) -/

/-- CHECK_LOCAL of the 256 result bytes, word by word (R74). -/
def checkResult (c : CtxId) (off : Nat) : X Unit := do
  let s ← get
  if !(upFrom 0 32).all fun i => (localLoc s c (off + 8 * i) 8).isSome then
    trapWith { code := cPROT, vaddr := localVa off }

/-- NREDOP. -/
def nredOp (nd : Bool) (op typ : Fin 3) (a : Reg) (b : OpB) (c : CtxId) : X Unit := do
  if isStrand c then illegal
  if (← vop c a).isView then trapWith { code := cSHAPE }
  let desc ← opInt c b
  if bits desc 63 28 ≠ 0 ∨ bits desc 23 21 ≠ 0 ∨ bits desc 2 0 ≠ 0 then
    trapWith { code := cSHAPE, cursor := BitVec.ofNat 64 (bits desc 31 0) }
  let off := bits desc 20 0
  checkResult c off
  let v ← readW c a
  let s ← get
  let x ← ctx c
  let ls := x.ident.lslot.toNat
  let rank := match launchAt s ls with | some l => rankOf l (aindexOf (actidOf x.ident.root)) | none => 0
  let con : Contribution :=
    { lslot := ls, n := Fin.ofNat 16 (bits desc 27 24), nd := nd, op := op, typ := typ, rank := rank, data := v, dstOff := off,
      actid := BitVec.ofNat 32 (actidOf x.ident.root) }
  effect c false (.nred con)

/-- NRED. -/
def execNred (op typ : Fin 3) (a : Reg) (b : OpB) (s : State) : Host.Outcome State Fault Refusal :=
  issueOp s (lenB b) (nredOp false op typ a b s.cur)

/-- NRED.nd. -/
def execNredNd (op typ : Fin 3) (a : Reg) (b : OpB) (s : State) : Host.Outcome State Fault Refusal :=
  issueOp s (lenB b) (nredOp true op typ a b s.cur)

/-- A contribution joins the count of its launch; a complete generation releases. `plan` orders an .nd sum. -/
def countContribution (s : State) (c : Contribution) (plan : List (Nat × Nat)) : State :=
  let add := fun (t : Tbl Reduction) =>
    tput t c.n.val (nredAdd (tget t { gen := 0, contributions := [], later := [] } c.n.val) c)
  let s1 := modLaunch s c.lslot fun l => { l with reductions := add l.reductions }
  releaseReduction s1 c.lslot c.n.val plan

/-- An own contribution goes to the other members' routers on RED (Table 21.1). -/
def sendContribution (s : State) (c : Contribution) : State :=
  match launchAt s c.lslot with
  | some l =>
    match l.gang with
    | some g => ((upFrom 0 g.modules.length).filter (· != g.member)).foldl (fun s m => inject s (g.modules.getD m 0) 4) s
    | none => s
  | none => s

/-- NRED_CONTRIBUTION_ARRIVAL: an own contribution, in its actor's order, or one from a peer member of the gang. -/
def contributionMove (s : State) (idx : Nat) (peer : Option Contribution) (plan : List (Nat × Nat)) : Option State :=
  match peer with
  | some c =>
    match launchAt s c.lslot with
    | some l =>
      match l.gang with
      | some g =>
        let m := c.rank / max 1 (memberActors l)
        if m ≠ g.member && m < g.modules.length && !rankEnded l c.rank then some (countContribution s c plan) else none
      | none => none
    | none => none
  | none =>
    match s.hub.nreds[idx]? with
    | some c =>
      if (s.hub.nreds.take idx).any fun e => e.lslot == c.lslot && e.rank == c.rank then none
      else some (countContribution (sendContribution (modHub s fun h => { h with nreds := dropAt h.nreds idx }) c) c plan)
    | none => none

/-- NRED_CONTRIBUTION_ARRIVAL. -/
def execNredContributionArrival (idx : Nat) (peer : Option Contribution) (plan : List (Nat × Nat)) (s : State) :
    Host.Outcome State Fault Refusal := move (contributionMove s idx peer plan) s

/-! ## Collapse (R404) -/

/-- Every context of a launch on this module. -/
def launchContexts (s : State) (lslot : Nat) : List CtxId :=
  (s.ctxs.filter fun p => p.2.ident.lslot.toNat == lslot && decide (p.2.state ≠ .free)).map fun p => ⟨p.1 / 32, p.1 % 32⟩

/-- KEYSTONE notices to the actors of this module that have not ended. -/
def notifySurvivors (s : State) (lslot : Nat) (l : Launch) (payload : List Word) : State :=
  ((upFrom 0 (memberActors l)).filter fun a => !actorEnded l a).foldl (fun s a =>
    postNotice s (ownAddr s lslot a) l.packet.asid 0 (mkNotice s (ownAddr s lslot a) 3 payload)) s

/-- What a hub does on learning of a collapse: the state, the departed member, the traps of unanswered requests, the notices
to the survivors, and what no longer has to wait for the departed. -/
def collapse (s : State) (lslot departed cause : Nat) : State :=
  match launchAt s lslot with
  | none => s
  | some l =>
    match l.gang with
    | none => s
    | some g =>
      if g.departed.contains departed then s
      else
        let g1 : Gang :=
          { g with state := 3, departed := g.departed ++ [departed], cause := if g.departed.isEmpty then cause else g.cause,
                   detached := g.detached ||| BitVec.ofNat 256 (2 ^ departed) }
        let s1 := modLaunch s lslot fun l => { l with gang := some g1 }
        let s3 := (launchContexts s1 lslot).foldl collapseTrap s1
        let s4 := if departed = g.member then s3
          else notifySurvivors s3 lslot l [BitVec.ofNat 64 departed, BitVec.ofNat 64 cause]
        let s5 := (upFrom 0 16).foldl (fun s n => releaseLaunchBarrier s lslot n) s4
        (upFrom 0 16).foldl (fun s n => releaseReduction s lslot n []) s5

/-- Modules that take part in a gang beside this one: its members that have not departed, and its coordinator. -/
def gangOthers (s : State) (g : Gang) : List Nat :=
  let ms := ((upFrom 0 g.modules.length).filter fun m => !g.departed.contains m).map fun m => g.modules.getD m 0
  ((if ms.contains g.chief then ms else ms ++ [g.chief]).filter fun m => m != ownModule s)

/-- What every other module of the gang is told. -/
def tellGang (s : State) (g : Gang) (w : CtlMsg) : State := tellModules s (gangOthers s g) w

/-- The hub that detects the cause tells every member, and its own window collapses (R404). -/
def breakWindow (s : State) (lslot departed cause : Nat) : State :=
  match launchAt s lslot with
  | none => s
  | some l =>
    match l.gang with
    | none => s
    | some g =>
      if g.departed.contains departed then s
      else collapse (tellGang s g (.collapse l.packet.gangid departed cause)) lslot departed cause

/-- WINDOW_COLLAPSE: another hub's broadcast. -/
def collapseMove (s : State) (lslot departed : Nat) (cause : Fin 4) : Option State :=
  match launchAt s lslot with
  | some l =>
    match l.gang with
    | some g =>
      if departed < g.modules.length && departed ≠ g.member && cause ≠ 0 && g.committed then
        some (collapse s lslot departed cause.val)
      else none
    | none => none
  | none => none

/-- WINDOW_COLLAPSE. -/
def execWindowCollapse (lslot departed : Nat) (cause : Fin 4) (s : State) : Host.Outcome State Fault Refusal :=
  move (collapseMove s lslot departed cause) s

/-! ## Keystone requests at their owners (R401) -/

/-- A pending request of a context receives its reply. -/
def answerPending (s : State) (c : CtxId) (id : Nat) (f : Pending → Word) : State :=
  modCtx s c fun x => { x with loads := x.loads.map fun p => if p.id = id then { p with value := some (f p) } else p }

/-- The value of a load from its word, over the bytes already taken (R54). -/
def loadReply (w : Word) (p : Pending) : Word :=
  let v := mergeBits w p.haveMask p.haveBits
  if destSize p.dest = 0 then v else extendLoad p.dest (bytesOfWord v p.byteOff (destSize p.dest))

/-- A word arrives for a transfer. -/
def giveTransfer (s : State) (tid : Word) (a : Nat) (v : Word) : State :=
  { s with clusters := s.clusters.map fun k =>
      (k.1, { k.2 with transfers := k.2.transfers.map fun t => if t.tid = tid then { t with got := t.got ++ [(a, v)] } else t }) }

/-- The queue from the home back to the sender. -/
def queueBack : GwId → GwId
  | .die a b => .die b a
  | .module a b => .module b a

/-- What a word on a peer module holds is said from outside, or is what was last seen of it. -/
def peerWordIs (s : State) (a : Nat) : Option PeerEntry → State
  | some (.word v) => { s with mem := writeMasked s.mem a (BitVec.allOnes 64) v }
  | _ => s

/-- A request at a peer member's share (R401): a store registers there, an atomic makes its move, and a load or atomic is answered on
the queue back. -/
def serveRequest (s : State) (q : GwId) (r : KeyReq) : State :=
  match r.store, r.atomic with
  | some w, _ => registerAt s none r.origin w
  | none, some a =>
    let res := performAtomic s none r.origin a
    gwPush res.2 (queueBack q) (.shareReply r (BitVec.ofNat 64 res.1))
  | none, none => gwPush s (queueBack q) (.shareReply r (readWord s.mem r.addr))

/-- A Keystone reply arrives (R401). -/
def shareReplied (s : State) (r : KeyReq) (v : Word) : State :=
  match r.origin, r.atomic with
  | .xfer tid, _ => giveTransfer s tid r.addr v
  | _, some _ => answerPending s r.ctx r.id fun p => extendLoad p.dest v.toNat
  | _, none => answerPending s r.ctx r.id (loadReply v)

/-- The bytes of this member's share (R400), if the launch is a gang's with the module among its members and its groups are here. -/
def ownShare (s : State) (lslot peer : Nat) : Option (Gang × Nat) :=
  match launchAt s lslot with
  | some l =>
    match l.gang with
    | some g => if g.modules.contains peer && !l.evicted && (tfind l.groups 0).isSome then some (g, shareAddr s l g.member 0) else none
    | none => none
  | none => none

/-- A request of a peer member as this hub answers it; what its requester needs is at the peer. -/
def peerRequest (a lslot : Nat) : KeyReq :=
  { ctx := { cell := 0, slot := 0 }, id := 0, addr := a, member := 0, lslot := lslot, store := none, origin := .unit, atomic := none }

/-- A peer member's access to this member's share (R401); after a collapse a store is discarded and counted, and nothing else is
accepted (R404). -/
def servePeer (s : State) (peer : Nat) (e : PeerEntry) : Option State :=
  let back := GwId.module (ownModule s) peer
  match e with
  | .shareLoad ls off =>
    (ownShare s ls peer).bind fun g =>
      let a := g.2 + off / 8 * 8
      if g.1.state = 3 then none else some (gwPush s back (.shareReply (peerRequest a ls) (readWord s.mem a)))
  | .shareStore ls off mask data =>
    (ownShare s ls peer).map fun g =>
      if g.1.state = 3 then modHub s fun h => { h with keystoneDiscards := h.keystoneDiscards + 1 }
      else registerAt s none .unit { addr := g.2 + off / 8 * 8, mask := mask, data := data }
  | .shareAtomic ls off size op b cmp =>
    (ownShare s ls peer).bind fun g =>
      if g.1.state = 3 || !(size == 4 || size == 8) || off % max 1 size ≠ 0 then none
      else
        let r := performAtomic s none .unit { op := op, size := size, byteAddr := g.2 + off, b := b, cmp := cmp }
        some (gwPush r.2 back (.shareReply (peerRequest (g.2 + off) ls) (BitVec.ofNat 64 r.1)))
  | _ => none

/-- KEYSTONE_REQUEST_SERVE: the head of the queue to a peer module, at its owner there, or a request of a peer here. What its own hub
knows to have collapsed, an owner may not accept: the request is then lost, a store discarded there (R404). -/
def keystoneMove (s : State) (q : GwId) (peer : Option PeerEntry) : Option State :=
  if toPeer s q then
    match gwEntries s q with
    | .share r :: rest =>
      let s1 := gwSet s q rest
      if collapsed s r.lslot && peer.isNone then some s1 else some (serveRequest (peerWordIs s1 r.addr peer) q r)
    | _ => none
  else if fromPeer s q && (gwEntries s q).isEmpty then
    match q, peer with
    | .module p _, some e => servePeer s p e
    | _, _ => none
  else none

/-- KEYSTONE_REQUEST_SERVE. -/
def execKeystoneRequestServe (q : GwId) (peer : Option PeerEntry) (s : State) : Host.Outcome State Fault Refusal :=
  move (keystoneMove s q peer) s

end Sys2Proof.Machine
end

