-- ==== Sys2Proof/Machine/Moves.lean ====
section
/-! DEFINITION. The moves of the ordering machine (R52 to R56), of the walkers and TLBs (R92 to R97) and of the cluster store's
banks (R76 to R78), with the register writes of the memory system (Table 4.10). -/

namespace Sys2Proof.Machine

/-! ## Registration (R52, R63) -/

/-- No older entry for the same word from the same origin stands before it. -/
def regEligible (q : List RegEntry) (idx : Nat) (e : RegEntry) : Bool :=
  !(q.take idx).any fun o => decide (o.origin = e.origin) && o.store.addr == e.store.addr

/-- The launch on this module whose member share holds a byte of a cluster store, if it has collapsed. -/
def inCollapsedShare (s : State) (a : Nat) : Bool :=
  s.hub.launches.any fun l =>
    match l.2.gang with
    | some g =>
      let base := shareAddr s l.2 g.member 0
      g.state == 3 && base ≤ a && a < base + l.2.packet.kshare * 1024
    | none => false

/-- The move of one entry: a word of a peer member's share, behind what has left for that module; a word of a cluster store; a word of
this die; or a word homed elsewhere. -/
def registerEntry (s : State) (cell : Nat) (e : RegEntry) : State :=
  let w := e.store
  let own := match e.origin with | .ctx _ => some cell | _ => none
  if keySpace w.addr = 2 then
    match e.origin with
    | .ctx c =>
      gwPush s (queueToHome s (dieOf cell) w.addr)
        (.share { ctx := c, id := 0, addr := w.addr, member := 0, lslot := (getCtx s c).ident.lslot.toNat,
                  store := some w, origin := e.origin, atomic := none })
    | _ => s
  else if keySpace w.addr = 1 then
    if inCollapsedShare s w.addr then modHub s fun h => { h with keystoneDiscards := h.keystoneDiscards + 1 }
    else registerAt s none e.origin w
  else if homedHere s (dieOf cell) w.addr then registerAt s own e.origin w
  else
    let s1 := match e.origin with
      | .ctx _ => dropLocal s cell w.addr
      | _ => delGwCopy s (dieOf cell) w.addr
    gwPush s1 (queueToHome s (dieOf cell) w.addr) (.store e.origin w)

/-- The home of a word on this die has no miss entry left for it (R84). -/
def homeWaits (s : State) (die a : Nat) : Bool := homedHere s die a && sliceBusy s a

/-- REGISTRATION_MOVE of an eligible entry. -/
def registrationMove (s : State) (cell idx : Nat) : Option State :=
  let q := (getCell s cell).regq
  match q[idx]? with
  | some e =>
    if regEligible q idx e && !homeWaits s (dieOf cell) e.store.addr then
      some (registerEntry (modCell s cell fun x => { x with regq := dropAt x.regq idx }) cell e)
    else none
  | none => none

/-- REGISTRATION_MOVE. -/
def execRegistrationMove (cell idx : Nat) (s : State) : Host.Outcome State Fault Refusal := move (registrationMove s cell idx) s

/-! ## Gateway queues (R53, R54, R60) -/

/-- A store of a context of the cell to the word is on its way, so a fill of an earlier value leaves no view entry. -/
def cellInFlight (s : State) (cell a : Nat) : Bool := (upFrom 0 32).any fun k => ownInFlight s ⟨cell, k⟩ a

/-- The gateway copy at the destination of a queue is set. -/
def setCopyAt (s : State) (q : GwId) (a : Nat) (v : Word) : State :=
  match q with
  | .die _ d => modDie s d fun x => { x with copies := tput x.copies a v }
  | .module _ _ => modHub s fun h => { h with fabCopies := tput h.fabCopies a v }

/-- A fill arrives: the gateway copy, the view, and the load that waits. -/
def fillArrives (s : State) (q : GwId) (cell a : Nat) (v : Word) (who : Option (CtxId × Nat))
    (view : Bool) : State :=
  let s1 := setCopyAt s q a v
  let s2 := if !view || cellInFlight s1 cell a then s1 else setView s1 cell a { owned := false, value := v }
  match who with
  | some (c, id) => answerPending s2 c id (loadReply v)
  | none => s2

/-- An update reaches a die, whose copy takes it. -/
def updateArrives (s : State) (q : GwId) (a : Nat) (v : Word) : State := setCopyAt s q a v

/-- Deliver the head of a queue whose destination is on this module. Keystone requests to a peer are KEYSTONE_REQUEST_SERVE's. -/
def deliverEntry (s : State) (q : GwId) : GwEntry → State
  | .store o w => registerAt s none o w
  | .atomic c id a =>
    let r := performAtomic s none (.amo c) a
    gwPush r.2 (queueBack q) (.atomicReply c id (BitVec.ofNat 64 r.1))
  | .fillReq cell a who cls na view =>
    gwPush (touchSlice s a cls na false) (queueBack q) (.fill cell a (readWord s.mem a) who view)
  | .fill cell a v who view => fillArrives s q cell a v who view
  | .update _ _ a v => updateArrives s q a v
  | .ack _ _ => s
  | .atomicReply c id old => answerPending s c id fun p => extendLoad p.dest old.toNat
  | .share _ => s
  | .shareReply r v => shareReplied s r v

/-- The word of an entry that its home slice on this module has to look up. -/
def entryLookup : GwEntry → Option Nat
  | .store _ w => some w.addr
  | .atomic _ _ a => some a.byteAddr
  | .fillReq _ a _ _ _ _ => some a
  | _ => none

/-- The registration of a number is acknowledged to its writer once every holder has acknowledged its update (R396). -/
def acknowledges (s : State) (q : GwId) (n : Nat) : Bool :=
  !s.gwq.any fun p => decide (p.1 ≠ q) && p.2.any fun e => match e with
    | .update _ m _ _ => m == n
    | _ => false

/-- A registration at a peer home, made by this module's store or atomic, is acknowledged on the queue back (R396). -/
def acknowledge (s0 s : State) (q : GwId) (o : Origin) : State :=
  if s.regCtr = s0.regCtr then s else gwPush s (queueBack q) (.ack o s0.regCtr)

/-- The head of the queue to a peer module, delivered there: this module's stores, atomics and fill requests at their home, the peer's
own fills and replies, an update of a copy that the peer holds, which it acknowledges, and an acknowledgement to a writer. -/
def deliverToPeer (s : State) (q : GwId) : GwEntry → Option State
  | .store o w => some (acknowledge s (registerAt s none o w) q o)
  | .atomic c id a =>
    let r := performAtomic s none (.amo c) a
    some (acknowledge s (gwPush r.2 (queueBack q) (.atomicReply c id (BitVec.ofNat 64 r.1))) q (.amo c))
  | .fillReq cell a who _ _ view => some (gwPush s (queueBack q) (.fill cell a (readWord s.mem a) who view))
  | .update o n _ _ => some (gwPush s (queueBack q) (.ack o n))
  | .ack _ n => if acknowledges s q n then some s else none
  | .fill .. => some s
  | .atomicReply .. => some s
  | .shareReply .. => some s
  | .share _ => none

/-- The word at its home on a peer that an entry meets. -/
def entryWord : GwEntry → Nat
  | .store _ w => w.addr
  | .atomic _ _ a => wordKey a.byteAddr
  | .fillReq _ a _ _ _ _ => a
  | _ => 0

/-- A whole word of this module's memory that a peer may name. -/
def ownWord (s : State) (a : Nat) : Bool :=
  a % 8 == 0 && keySpace a == 0 && keyModule a == ownModule s && populated s (keyPa a) 8 && !sliceBusy s a

/-- A registration that a peer has made here is acknowledged to it (R396). -/
def acknowledgePeer (s0 s : State) (p : Nat) : State :=
  if s.regCtr = s0.regCtr then s else gwPush s (.module (ownModule s) p) (.ack .unit s0.regCtr)

/-- A peer's entry reaches this hub: a store, atomic or fill request for a word homed here, a dropped copy, or an update of a copy
held here, which is acknowledged on WB (R52, R53, R396). -/
def peerArrives (s : State) (p : Nat) : PeerEntry → Option State
  | .store a mask data =>
    if ownWord s a then some (acknowledgePeer s (registerAt s none .unit { addr := a, mask := mask, data := data }) p) else none
  | .atomic a size op b cmp =>
    if ownWord s (wordKey a) && (size == 4 || size == 8) && a % size == 0 then
      let r := performAtomic s none .unit { op := op, size := size, byteAddr := a, b := b, cmp := cmp }
      some (acknowledgePeer s (gwPush r.2 (.module (ownModule s) p)
        (.atomicReply { cell := 0, slot := 0 } 0 (BitVec.ofNat 64 r.1))) p)
    else none
  | .fillReq a =>
    if ownWord s a then
      some (gwPush (addHolder (touchSlice s a 0 false false) a p) (.module (ownModule s) p) (.fill 0 a (readWord s.mem a) none false))
    else none
  | .evicted a => some (dropHolder s a p)
  | .update a v =>
    if keyModule a = p && a % 8 == 0 && (tfind s.hub.fabCopies a).isSome then
      some (gwPush (setCopyAt s (.module p (ownModule s)) a v) (.module (ownModule s) p) (.ack .unit s.regCtr))
    else none
  | _ => none

/-- GATEWAY_QUEUE_DELIVERY: the head of a queue between dies, to a peer (whose home holds the word that `peer` says), or from one; or,
where nothing of this module's is on its way back, an entry of the peer's own. -/
def gatewayMove (s : State) (q : GwId) (peer : Option PeerEntry) : Option State :=
  match gwEntries s q, q with
  | [], .module p _ => if fromPeer s q then peer.bind (peerArrives s p) else none
  | [], _ => none
  | e :: r, _ =>
    if toPeer s q then deliverToPeer (peerWordIs (gwSet s q r) (entryWord e) peer) q e
    else if (entryLookup e).any (sliceBusy s) then none
    else some (deliverEntry (gwSet s q r) q e)

/-- GATEWAY_QUEUE_DELIVERY. -/
def execGatewayQueueDelivery (q : GwId) (peer : Option PeerEntry) (s : State) : Host.Outcome State Fault Refusal :=
  move (gatewayMove s q peer) s

/-! ## Returns and releases (R54, R56, R122) -/

def isScalarDest : Dest → Bool
  | .x _ n _ => n != 0
  | .f _ _ => true
  | .lane _ _ _ => false

/-- A load's or atomic's value reaches its register; an acquire then discards the cell's COPY entries (R57). -/
def returnLoad (s : State) (c : CtxId) (idx : Nat) : Option State :=
  match (getCtx s c).loads[idx]? with
  | some p =>
    match p.value with
    | some v =>
      if isScalarDest p.dest then
        let s1 := modCtx s c fun x => { writeDest x p.dest v with loads := dropAt x.loads idx }
        some (if p.acq then dropCopies s1 c.cell else s1)
      else none
    | none => none
  | none => none

/-- LOAD_VALUE_RETURN. -/
def execLoadValueReturn (c : CtxId) (idx : Nat) (s : State) : Host.Outcome State Fault Refusal := move (returnLoad s c idx) s

/-- RELEASE_PERFORMED. -/
def execReleasePerformed (c : CtxId) (s : State) : Host.Outcome State Fault Refusal := move (releaseMove s c) s

/-- SECTION_COMMIT_COMPLETE. -/
def execSectionCommitComplete (c : CtxId) (s : State) : Host.Outcome State Fault Refusal := goOnCommit s c

/-! ## Walks and invalidations (R92 to R97) -/

/-- A context of the cluster runs under the ASID. -/
def clusterUses (s : State) (cl asid : Nat) : Bool :=
  s.ctxs.any fun p => p.1 / 128 == cl && decide (p.2.state ≠ .free) && p.2.ident.asid.toNat == asid

/-- A die's walk requests that still stand, oldest first, each with its miss. -/
def liveWalks (s : State) (die : Nat) : List (Nat × Nat × Miss) :=
  (getDie s die).walks.filterMap fun p =>
    (tfind (getCluster s p.1).misses p.2).bind fun m => if m.walking then some (p.1, p.2, m) else none

def walkers : Nat := 64

/-- The pages that the die's walkers are walking: the oldest ones asked for (R94). -/
def walkedPages (s : State) (die : Nat) : List (BitVec 16 × Nat) :=
  (((liveWalks s die).map fun p => (p.2.2.asid, p.2.2.vpn)).eraseDups).take walkers

/-- The requests that one walk answers. -/
def joinedWalks (s : State) (die : Nat) (asid : BitVec 16) (va : Word) : List (Nat × Nat × Miss) :=
  (liveWalks s die).filter fun p => decide (p.2.2.asid = asid) && p.2.2.vpn == vpnOf va

/-- The requests are answered: their entries free. -/
def endWalks (s : State) (die : Nat) (js : List (Nat × Nat × Miss)) : State :=
  let s1 := js.foldl (fun s j => modCluster s j.1 fun k => { k with misses := tdel k.misses j.2.1 }) s
  modDie s1 die fun d => { d with walks := d.walks.filter fun p => !js.any fun j => j.1 == p.1 && j.2.1 == p.2 }

/-- An access whose walk has faulted: it stalls under its record, or asks again while no entry is free. -/
def faultWaiter (s : State) (w : Waiter) (code cause : Nat) (block : Bool) : State :=
  match stallAccess s { w with code := BitVec.ofNat 8 code, cause := cause } block with
  | some (e, t) => modCtx t w.ctx fun x => { x with wait := .xlate (clusterOf w.ctx.cell) e }
  | none => s

/-- What a walk that has been asked for gives: fills of each joined cluster, faults of the accesses of its kind (others ask again),
or MEM_UNCORRECTABLE; none while a table's slice has no miss entry (R92, R94 to R96, R425). -/
def answerWalk (s : State) (die : Nat) (asid : BitVec 16) (va : Word) (kind : Fin 4) (js : List (Nat × Nat × Miss)) : Option State :=
  let who := (js.flatMap fun j => j.2.2.waiters).filter fun w => w.kind == kind
  match walk s asid va kind with
  | .ok _ e block s1 =>
    some ((js.map (·.1)).foldl (fun s cl =>
      modCluster s cl fun k => tlbFill k { asid := asid, vpn := vpnOf va, block := block, pte := e }) (endWalks s1 die js))
  | .fault code cause block => some (who.foldl (fun s w => faultWaiter s w code cause block) (endWalks s die js))
  | .dead =>
    some (who.foldl (fun s w => takeTrap s w.ctx { code := cMEM_UNCORRECTABLE, lane := w.lane, pc := some w.pc }) (endWalks s die js))
  | .busy => none

/-- A walk for a unit of the cluster sets A and D and fills the TLB; its fault has no access to stall. -/
def unitWalk (s : State) (cluster : Nat) (asid : BitVec 16) (va : Word) (kind : Fin 4) : Option State :=
  match walk s asid va kind with
  | .ok _ e block s1 =>
    some (modCluster s1 cluster fun k => tlbFill k { asid := asid, vpn := vpnOf va, block := block, pte := e })
  | _ => none

/-- TRANSLATION_WALK: a walk that accesses have asked for, once a walker has it, or one for a unit of the cluster. -/
def translationWalkMove (s : State) (cluster asid : Nat) (va : Word) (kind : Fin 4) : Option State :=
  if !clusterUses s cluster asid || isLocal va || isWindow va then none
  else
    let a := BitVec.ofNat 16 asid
    let die := dieOfCluster cluster
    let js := joinedWalks s die a va
    if js.isEmpty then unitWalk s cluster a va kind
    else if (walkedPages s die).contains (a, vpnOf va) && js.any (fun j => j.2.2.waiters.any fun w => w.kind == kind) then
      answerWalk s die a va kind js
    else none

/-- TRANSLATION_WALK. -/
def execTranslationWalk (cluster asid : Nat) (va : Word) (kind : Fin 4) (s : State) : Host.Outcome State Fault Refusal :=
  move (translationWalkMove s cluster asid va kind) s

/-- A TLB entry that an invalidation removes. -/
def tlbMatches (mode asid vpn : Nat) (e : TlbEntry) : Bool :=
  match mode with
  | 0 => true
  | 1 => e.asid.toNat == asid
  | _ => e.asid.toNat == asid && (if e.block then e.vpn / 2 ^ 13 == vpn / 2 ^ 13 else e.vpn == vpn)

/-- A translation whose entry an invalidation removes: that of the ASID, page and block. -/
def leafMatches (mode asid vpn : Nat) (own : BitVec 16) (l : Nat × Bool) : Bool :=
  tlbMatches mode asid vpn { asid := own, vpn := l.1, block := l.2, pte := 0 }

/-- A deferred store of some section came through an entry that the invalidation removes (R154; log 97). -/
def heldByStore (s : State) (mode asid vpn : Nat) : Bool :=
  s.ctxs.any fun p => p.2.sec.buffer.any fun e =>
    match e with
    | .stores _ ws => ws.any fun w => w.leaf.any (leafMatches mode asid vpn p.2.ident.asid)
    | _ => false

/-- TLB_INVALIDATION_DONE: no matching entry remains anywhere, and no deferred store that came through one (R154); BUSY clears
(R97). -/
def invalidationMove (s : State) : Option State :=
  match s.hub.tlbinv with
  | some (mode, asid, vpn) =>
    if heldByStore s mode asid vpn then none else
    let keep := fun (l : List TlbEntry) => l.filter fun e => !tlbMatches mode asid vpn e
    let s1 := { s with clusters := s.clusters.map fun k =>
      (k.1, { k.2 with tlbPages := keep k.2.tlbPages, tlbBlocks := keep k.2.tlbBlocks }) }
    some (modHub s1 fun h => { h with tlbinv := none, tlbinvSt := setBits h.tlbinvSt 0 0 0 })
  | none => none

/-- TLB_INVALIDATION_DONE. -/
def execTlbInvalidationDone (s : State) : Host.Outcome State Fault Refusal := move (invalidationMove s) s

/-- A TLBINV write (Table 4.10): while BUSY it is ignored and DROPPED. -/
def startInvalidation (s : State) (mode asid : Nat) : State :=
  modHub s fun h =>
    if bit h.tlbinvSt 0 then { h with tlbinvSt := setBits h.tlbinvSt 1 1 1 }
    else { h with tlbinv := some (mode, asid % 2 ^ 16, bits h.tlbinvVa 54 16), tlbinvSt := setBits h.tlbinvSt 0 0 1 }

/-- TLBINV with MODE 0. -/
def execTlbinvAll (s : State) : Host.Outcome State Fault Refusal := .next (startInvalidation s 0 0)

/-- TLBINV with MODE 1. -/
def execTlbinvAsid (asid : Nat) (s : State) : Host.Outcome State Fault Refusal := .next (startInvalidation s 1 asid)

/-- TLBINV with MODE 2. -/
def execTlbinvPage (asid : Nat) (s : State) : Host.Outcome State Fault Refusal := .next (startInvalidation s 2 asid)

/-! ## Steering (R413) -/

/-- The service core that owns an ASID, by the steering table; none where the table lies in unpopulated memory. -/
def ownerCore (s : State) (asid : Nat) : Option Nat :=
  let pa := bits s.hub.fsteer 51 16 * 2 ^ 16 + asid % 2 ^ 16
  if populated s pa 1 then some ((readByte s.mem (physKey s pa)).toNat % 4) else none

/-- What follows when the writing core owns the ASID, and when it does not: nobody does where the table cannot be read, which is an
error with no requester (R425; log 90). -/
def ifOwned (s : State) (core : Fin 4) (asid : Nat) (yes no : State) : Host.Outcome State Fault Refusal :=
  match ownerCore s asid with
  | some k => .next (if k = core.val then yes else no)
  | none => .next (strayError no)

/-! ## TRESP (R95, R96) -/

def tokenCluster (die : Fin 4) (token : Nat) : Nat := die.val * 128 + token / 64 % 128

/-- The entry of a token is answered: it frees, and its accesses go on or trap; a fatal fault's record carries the token again (R95,
R188). -/
def answerToken (s : State) (cl entry : Nat) (m : Miss) (fatal : Bool) : State :=
  let s1 := modCluster s cl fun k => { k with misses := tdel k.misses entry }
  m.waiters.foldl (fun s w =>
    if fatal then
      takeTrap s w.ctx { code := w.code.toNat, vaddr := faultVa w.va w.kind w.cause, cursor := stallToken cl entry, lane := w.lane,
                         pc := some w.pc }
    else modCtx s w.ctx fun x => { x with wait := .none }) s1

/-- The faulted accesses that stall on a token; a walk that has not ended is no stall. -/
def stalledOn (s : State) (cl entry : Nat) : Option Miss :=
  (tfind (getCluster s cl).misses entry).bind fun m => if m.walking then none else some m

/-- A stalled read of the dispatcher is answered: repeated, or failed (R95, R370, R375). -/
def answerStall (s : State) (h : HubStall) (fatal : Bool) : State :=
  modHub s fun k =>
    { k with stalls := if fatal then k.stalls.map fun e => if e = h then { e with fatal := true } else e
                       else k.stalls.filter (· ≠ h) }

def tresp (core die : Fin 4) (token : Nat) (fatal : Bool) (s : State) : Host.Outcome State Fault Refusal :=
  let cl := tokenCluster die token
  match stalledOn s cl (token % 64) with
  | some m => ifOwned s core m.asid.toNat (answerToken s cl (token % 64) m fatal) s
  | none =>
    match s.hub.stalls.find? (fun h => h.token == token && !h.fatal) with
    | some h => ifOwned s core h.asid.toNat (answerStall s h fatal) s
    | none => .next s

/-- TRESP with FATAL 0: each access repeats its walk. -/
def execTrespRetry (core die : Fin 4) (token : Nat) (s : State) : Host.Outcome State Fault Refusal := tresp core die token false s

/-- TRESP with FATAL 1: each access is a fatal fault of its context. -/
def execTrespFatal (core die : Fin 4) (token : Nat) (s : State) : Host.Outcome State Fault Refusal := tresp core die token true s

/-! ## Banks (R75 to R78) -/

/-- CSMODE gives new targets; 3 leaves a bank's target. -/
def newTargets (old value : BitVec 32) : BitVec 32 :=
  (upFrom 0 16).foldl (fun t b =>
    let m := bankMode value b
    if m = 3 then t else setBits t (2 * b + 1) (2 * b) m) old

/-- CSMODE_WRITE. -/
def execCsmodeWrite (cluster : Nat) (value : Word32) (s : State) : Host.Outcome State Fault Refusal :=
  if cluster < 512 then .next (modCluster s cluster fun k => { k with csmode := newTargets k.csmode value }) else .next s

/-- CSSTAT (Table 4.2). -/
def csstat (k : Cluster) : Word :=
  BitVec.ofNat 64 ((upFrom 0 16).map fun b => if bankMode k.modes b = bankMode k.csmode b then 0 else 2 ^ b).sum

/-- The resident groups of a cluster, with their launches. -/
def groupsOn (s : State) (cl : Nat) : List (Launch × Group) :=
  s.hub.launches.flatMap fun l => (l.2.groups.filter fun g => g.2.cluster == cl && !g.2.retired).map fun g => (l.2, g.2)

/-- A group that a gang's reservation only holds: no context of it is set up yet (R381). -/
def isHeld (s : State) (g : Group) : Bool := g.ctxs.all fun c => decide ((getCtx s c).state = .free)

/-- The groups with grants on a cluster. -/
def placedOn (s : State) (cl : Nat) : List (Launch × Group) := (groupsOn s cl).filter fun g => !isHeld s g.2

/-- A range of LOCAL offsets touches a bank. -/
def touchesBank (bank off size : Nat) : Bool := size != 0 && off < (bank + 1) * 2 ^ 17 && bank * 2 ^ 17 < off + size

/-- A frame or scratch grant lies in the bank; rings and parts lie in scratch grants (R74). -/
def bankGranted (s : State) (cl bank : Nat) : Bool :=
  (placedOn s cl).any fun g =>
    touchesBank bank g.2.scratchOff g.1.packet.scratch ||
    g.2.ctxs.any fun c => touchesBank bank (getCtx s c).grants.frameOff (getCtx s c).grants.frameSize

/-- Mailboxes, notice queues or side lanes of a placed group are in the bank, or an arrival queue of the cluster is in use: no rule says
which FIFO bank holds it, so each counts as holding it (log 29). -/
def fifoInUse (s : State) (cl bank : Nat) : Bool :=
  (placedOn s cl).any (fun g => g.2.fifo.any fun f => f.1 == bank && f.2 != 0) ||
  (upFrom (cl * 4) 4).any fun k => let c := getCell s k; !c.arrivals.isEmpty || !c.returns.isEmpty

/-- What a transition waits for (Table 4.3). -/
def bankFree (s : State) (cl bank : Nat) : Bool :=
  match bankMode (getCluster s cl).modes bank with
  | 0 => (bankLine (getCluster s cl) bank).isNone
  | 1 => !bankGranted s cl bank
  | _ => !fifoInUse s cl bank

/-- A line of a CACHE bank that leaves the mode is invalidated; a dirty one is written back to its home slice (R77, R81). -/
def emptyLine (s : State) (cl bank set : Nat) (l : CacheLine) : State :=
  let s1 := modCluster s cl fun k => dropBankLine k bank set
  if l.dirty then touchSlice s1 (l.line * 64) 0 false true else s1

/-- A bank that enters SCRATCH has undefined contents (R77). -/
def enterScratch (s : State) (cl bank : Nat) : State :=
  let base := storeKey (ownModule s) cl (bank * 2 ^ 17)
  bumpFree { s with mem := writeBytes s.mem base ((upFrom 0 (2 ^ 17)).map (Config.freeByte s.freeCtr)) }

/-- A bank takes a mode. -/
def setBank (s : State) (cl bank mode : Nat) : State :=
  let s1 := modCluster s cl fun k => { k with modes := setBits k.modes (2 * bank + 1) (2 * bank) mode }
  if mode = 1 && bankMode (getCluster s cl).modes bank ≠ 1 then enterScratch s1 cl bank else s1

/-- BANK_MODE_MOVE: a pending bank takes its target; a CACHE bank that still holds lines gives up one of them. -/
def bankMove (s : State) (cl : Nat) (bank : Fin 16) : Option State :=
  let k := getCluster s cl
  let t := bankMode k.csmode bank.val
  if bankMode k.modes bank.val = t then none
  else if bankFree s cl bank.val then some (setBank s cl bank.val t)
  else if bankMode k.modes bank.val = 0 then (bankLine k bank.val).map fun l => emptyLine s cl bank.val l.1 l.2
  else none

/-- BANK_MODE_MOVE. -/
def execBankModeMove (cluster : Nat) (bank : Fin 16) (s : State) : Host.Outcome State Fault Refusal := move (bankMove s cluster bank) s

/-- HBMCNTCTL.CLEAR (R88). -/
def execHbmCounterClear (die : Fin 4) (s : State) : Host.Outcome State Fault Refusal :=
  .next (modDie s die.val fun d => { d with hbm := [] })

end Sys2Proof.Machine
end

