-- ==== Sys2Proof/Machine/Delivery.lean ====
section
/-! DEFINITION. The arrival of messages, notices and strands (R102, R116 to R119, R124, R384, R385), strand resumption (R105, R112),
spawn counts (R125, R183), barrier arrivals (R128, R129) and machine checks (R113, R234). -/

namespace Sys2Proof.Machine

/-! ## Delivery checks (R26, R116) -/

/-- The first check of Table 5.7 after the actor's own that a message fails. -/
def mailboxReason (boxes : Vector Mailbox 8) (routines : Vector Word 64) (m : Message) : Option Nat :=
  let b := boxes[m.mb]
  if !b.valid then some 3
  else if m.cls ≠ b.cls || !bit (routines.toList.getD m.cls 0) 0 then some 2
  else if m.typ ≠ b.typ then some 1
  else if 16 < m.len then some 6
  else none

/-- The declarations of an evicted actor, as saved, or of one not yet placed. -/
def savedBoxes (l : Launch) (aindex : Nat) : Vector Mailbox 8 :=
  match l.saved.find? fun v => v.group * l.packet.actors + v.member == aindex with
  | some v => v.ctx.mailboxes
  | none => l.mailboxes

/-- A message for this module: delivered, moored or rejected; none when it is refused. `from_` is the cell that released it, if that is
of this module: it counts the rejection for an inactive slot (R26). The addressed actor's cell counts every other: the one that it
stands on, or stood on last; of an actor that has not been placed the releasing cell's (log 60). -/
def deliverMessage (s : State) (asid : BitVec 16) (from_ : Option Nat) (m : Message) : Option State :=
  let ls := lslotOf (actidOf m.dest)
  let ai := aindexOf (actidOf m.dest)
  match launchAt s ls with
  | none => some (rejectMessage s from_ asid m 4)
  | some l =>
    let a := actorOf l ai
    let cell := match a.place, a.home with | .at c, _ => some c.cell | _, some h => some h | _, none => from_
    if l.packet.asid ≠ asid then some (rejectMessage s cell asid m 4)
    else
      match a.place with
      | .ended => some (rejectMessage s cell asid m 5)
      | .at c =>
        match mailboxReason (getCtx s c).mailboxes (getCtx s c).routines m with
        | some r => some (rejectMessage s cell asid m r)
        | none => if hasMooredMsg s (getCtx s c) then none else arriveMailbox s c m.mb m
      | .evicted =>
        match mailboxReason (savedBoxes l ai) l.routines m with
        | some r => some (rejectMessage s cell asid m r)
        | none => moor s ls ai (.msg m)
      | .unplaced =>
        match mailboxReason l.mailboxes l.routines m with
        | some r => some (rejectMessage s cell asid m r)
        | none => moor s ls ai (.msg m)

/-! ## Strands on arrival (R124, R384) -/

/-- The lowest free strand slot of a cell (log 30). -/
def freeSlotOf (s : State) (cell : Nat) : Option CtxId :=
  ((upFrom 16 16).map fun k => (⟨cell, k⟩ : CtxId)).find? fun c => decide ((getCtx s c).state = .free)

/-- The strand's launch is being evicted or is evicted: none of its strands resumes. -/
def strandEvicted (s : State) (m : StrandMsg) : Bool :=
  match launchAt s (strandLslot s m.msg) with
  | some l => l.evicting || l.evicted
  | none => false

/-- An arriving strand moors while its launch is evicted, or behind strands whose replay is not finished (R384, R386). While the
eviction is not complete it queues at its cell, behind the older strands that the shared save is to moor. -/
def strandMoors (s : State) (m : StrandMsg) : Bool :=
  match launchAt s (strandLslot s m.msg) with
  | some l => l.evicted || !l.strandMooring.isEmpty
  | none => false

/-- Append to a launch's strand mooring queue, with its destination cell; none when the pool cannot take it. -/
def moorStrand (s : State) (m : StrandMsg) : Option State :=
  let ls := strandLslot s m.msg
  match launchAt s ls with
  | some l =>
    match chainAppend s l.strandChain (l.strandTaken + l.strandMooring.length) (msgWords m.msg) with
    | some (chain, s1) => some (modLaunch s1 ls fun l => { l with strandMooring := l.strandMooring ++ [m], strandChain := chain })
    | none => none
  | none => none

/-- The oldest moored strand leaves the launch's queue. -/
def unmoorStrand (s : State) (ls : Nat) : State :=
  match launchAt s ls with
  | some l =>
    let rest := l.strandMooring.drop 1
    let r := chainDrop s l.strandChain l.strandTaken 1 rest.length
    modLaunch r.2.2 ls fun l => { l with strandMooring := rest, strandChain := r.1, strandTaken := r.2.1 }
  | none => s

/-- The lowest entry of an overflow ring that is not in use. -/
def sovFree (l : Launch) : Option Nat := (upFrom 0 (sovCap l)).find? fun i => !l.sov.any fun e => e.index == i

/-- A strand enters its launch's overflow ring; none when the ring is full or cannot be written. -/
def sovAppend (s : State) (m : StrandMsg) : Option State :=
  let ls := strandLslot s m.msg
  match launchAt s ls with
  | some l =>
    match sovFree l with
    | some i =>
      match unitWriteWords s (dieOf m.destCell) l.packet.asid (l.packet.sovbase + BitVec.ofNat 64 (160 * i)) (msgWords m.msg) with
      | some s1 =>
        some (modLaunch s1 ls fun l =>
          { l with sov := l.sov ++ [{ index := i, cell := m.destCell, arrival := m.arrival, fstat := m.fstat }] })
      | none => none
    | none => none
  | none => none

/-! ## Strand resumption (R105, R112, R124) -/

/-- The first slot that waits for a return entry places its message. -/
def takeReturnWait (s : State) (cell : Nat) : State :=
  let k := getCell s cell
  match k.returnWait with
  | (slot, m) :: r =>
    if k.returns.length < 16 then
      freeSlot (modCell s cell fun x => { x with returns := x.returns ++ [m], returnWait := r }) ⟨cell, slot⟩
    else s
  | [] => s

/-- The oldest queued message that may resume: returned ones first, FAULTED ones passed over. -/
def resumeNext (s : State) (c : CtxId) : Option State :=
  let k := getCell s c.cell
  let ok := fun (m : StrandMsg) => !m.faulted && !strandEvicted s m
  match findAt ok k.returns with
  | some i =>
    (k.returns[i]?).map fun m =>
      takeReturnWait (enterStrand (modCell s c.cell fun x => { x with returns := dropAt x.returns i }) c m) c.cell
  | none =>
    match findAt ok k.arrivals with
    | some i =>
      (k.arrivals[i]?).map fun m =>
        refillStrands (enterStrand (modCell s c.cell fun x => { x with arrivals := dropAt x.arrivals i }) c m) c.cell
    | none => none

/-- The oldest queued strands take the FREE slots of a cell, in their order (R127); `n` bounds them. -/
def resumeAll (s : State) (cell : Nat) : Nat → State
  | 0 => s
  | n + 1 =>
    match (freeSlotOf s cell).bind (resumeNext s) with
    | some s1 => resumeAll s1 cell n
    | none => s

/-- A strand waits in the ring for the cell. -/
def waitsInRing (s : State) (m : StrandMsg) : Bool :=
  match launchAt s (strandLslot s m.msg) with
  | some l => l.sov.any fun e => e.cell == m.destCell
  | none => false

/-- Where a strand goes at its home cell: a slot, the arrival queue, the overflow ring, or refused. A full queue first gives the FREE
slots what is due to them (R124, R127). A strand of a launch that is being evicted takes no slot (R383). -/
def seatStrand (s0 : State) (m : StrandMsg) : Option State :=
  let cell := m.destCell
  let s := if (getCell s0 cell).arrivals.length < 32 then s0 else resumeAll s0 cell 16
  let k := getCell s cell
  if waitsInRing s m then sovAppend s m
  else if k.arrivals.isEmpty && !k.returns.any (fun r => !r.faulted) && (freeSlotOf s cell).isSome && !strandEvicted s m then
    (freeSlotOf s cell).map fun c => enterStrand s c m
  else if k.arrivals.length < 32 then some (modCell s cell fun x => { x with arrivals := x.arrivals ++ [m] })
  else sovAppend s m

/-- Where an arriving strand goes: to its home cell, or moored. -/
def placeStrand (s : State) (m0 : StrandMsg) : Option State :=
  let m := { m0 with arrival := s.dtc }
  if strandMoors s m then moorStrand s m else seatStrand s m

/-- The moored strands of a launch that is no longer evicted go to their cells in their order (R386). -/
def replayStrandsOf (s : State) (lslot : Nat) : Nat → State
  | 0 => s
  | k + 1 =>
    match launchAt s lslot with
    | none => s
    | some l =>
      match l.strandMooring with
      | [] => s
      | m :: _ =>
        if l.evicting || l.evicted then s
        else
          match seatStrand s { m with arrival := s.dtc } with
          | none => s
          | some s1 => replayStrandsOf (unmoorStrand s1 lslot) lslot k

def replayStrands (s : State) : State :=
  s.hub.launches.foldl (fun s l => replayStrandsOf s l.1 l.2.strandMooring.length) s

/-! ## The outbound queue (R109, R118) -/

/-- The receiver of an outbound entry: a mailbox of an actor, or a cell. -/
def outTarget : OutKind → Nat × Nat
  | .actor m => (m.dest.toNat, m.mb.val)
  | .strand t => (t.msg.dest.toNat, 8)

/-- An earlier entry of the same context for the same receiver is still here. -/
def outBehind (q : List OutMsg) (idx : Nat) (o : OutMsg) : Bool :=
  (q.take idx).any fun e => e.slot == o.slot && outTarget e.kind == outTarget o.kind

/-- The module that an entry goes to. -/
def outModule : OutKind → Nat
  | .actor m => moduleOfAddr m.dest
  | .strand t => moduleOfAddr t.msg.dest

def isActorMsg : OutKind → Bool
  | .actor _ => true
  | .strand _ => false

/-- One attempt of an outbound entry: what the receiver makes of it, or it leaves for a peer that accepts it; none when it is
refused. -/
def attempt (s : State) (cell : Nat) (o : OutMsg) : Option State :=
  if outModule o.kind ≠ ownModule s then some (leaveFor s (outModule o.kind) o.kind)
  else
    match o.kind with
    | .actor m => deliverMessage s o.asid (some cell) m
    | .strand t => placeStrand s t

/-- A refused entry is held with its next delay, and counted (R118). -/
def holdOut (s : State) (cell idx : Nat) (o : OutMsg) : State :=
  let d := match o.held with | some (d, _) => min 8192 (2 * d) | none => 128
  modCell s cell fun x => { x with outq := setAt x.outq idx { o with held := some (d, d) }, refused := x.refused + 1 }

/-- The entry leaves the queue, or is held. -/
def sendOut (s : State) (cell idx : Nat) (o : OutMsg) : State :=
  match attempt (modCell s cell fun x => { x with outq := dropAt x.outq idx }) cell o with
  | some s1 => s1
  | none => holdOut s cell idx o

/-- An entry may be tried: nothing of its context for its receiver stands before it, and a route leads to its module (R118, R392). -/
def mayTry (s : State) (q : List OutMsg) (idx : Nat) (o : OutMsg) : Bool :=
  !outBehind q idx o && moduleReachable s (outModule o.kind)

/-- A first attempt, in its context's order. -/
def outboundMove (s : State) (cell idx : Nat) (actor : Bool) : Option State :=
  let q := (getCell s cell).outq
  match q[idx]? with
  | some o => if o.held.isSome || isActorMsg o.kind != actor || !mayTry s q idx o then none else some (sendOut s cell idx o)
  | none => none

/-- An entry that may go to a peer now: a first attempt, or one whose delay has run down. -/
def peerAttempt (s : State) (cell idx : Nat) (actor : Bool) : Option OutMsg :=
  let q := (getCell s cell).outq
  match q[idx]? with
  | some o =>
    let due := match o.held with | some (_, left) => left == 0 | none => true
    if due && isActorMsg o.kind == actor && outModule o.kind != ownModule s && mayTry s q idx o then some o else none
  | none => none

/-- A peer's receiver refuses an entry: its packet went, and the entry is held (R118, R393). -/
def peerRefuses (s : State) (cell idx : Nat) (actor : Bool) : Option State :=
  (peerAttempt s cell idx actor).map fun o => holdOut (inject s (outModule o.kind) 5) cell idx o

/-- A peer's hub rejects a message for an inactive launch slot: the cell that released it counts it (R26). -/
def peerRejects (s : State) (cell idx : Nat) : Option State :=
  (peerAttempt s cell idx true).map fun o =>
    modCell (leaveFor s (outModule o.kind) o.kind) cell fun x =>
      { x with outq := dropAt x.outq idx, rejected := x.rejected + 1 }

/-- MESSAGE_ARRIVAL: of an outbound entry, or from a peer, which is told of a refusal and keeps what is refused. -/
def execMessageArrival (src : MsgSrc) (s : State) : Host.Outcome State Fault Refusal :=
  match src with
  | .outbound cell idx => move (outboundMove s cell idx true) s
  | .refused cell idx => move (peerRefuses s cell idx true) s
  | .rejected cell idx => move (peerRejects s cell idx) s
  | .peer p asid m =>
    if 8 ≤ m.cls && m.cls ≤ 61 && m.payload.length == m.len && moduleOfAddr m.dest == ownModule s then
      .next (orRefuse s p (.refused m) (deliverMessage s (BitVec.ofNat 16 asid) none m))
    else .next s

/-- A strand that a peer sends: its FSTAT follows the carried registers. -/
def peerStrand (asid : Nat) (m : Message) : StrandMsg :=
  let n := if m.full then 16 else 8
  { msg := { m with payload := m.payload.take n, len := n }, asid := BitVec.ofNat 16 asid, destCell := m.dest.toNat % 2048,
    fstat := BitVec.ofNat 6 (m.payload.getD n 0).toNat, arrival := 0, faulted := false, counted := false }

/-- STRAND_ARRIVAL. -/
def execStrandArrival (src : MsgSrc) (s : State) : Host.Outcome State Fault Refusal :=
  match src with
  | .outbound cell idx => move (outboundMove s cell idx false) s
  | .refused cell idx => move (peerRefuses s cell idx false) s
  | .rejected _ _ => .next s
  | .peer p asid m =>
    if m.cls == 62 && (if m.full then 16 else 8) ≤ m.payload.length && moduleOfAddr m.dest == ownModule s then
      .next (orRefuse s p (.refused m) (placeStrand s (peerStrand asid m)))
    else .next s

/-- REFUSED_MESSAGE_RETRY: the delay has run down. -/
def retryMove (s : State) (cell idx : Nat) : Option State :=
  let q := (getCell s cell).outq
  match q[idx]? with
  | some o =>
    match o.held with
    | some (_, 0) => if mayTry s q idx o then some (sendOut s cell idx o) else none
    | _ => none
  | none => none

/-- REFUSED_MESSAGE_RETRY. -/
def execRefusedMessageRetry (cell idx : Nat) (s : State) : Host.Outcome State Fault Refusal := move (retryMove s cell idx) s

/-! ## Notices (R102, R385) -/

/-- An earlier notice of the same unit to the same actor is still here. -/
def noticeBehind (q : List NoticeMsg) (idx : Nat) (n : NoticeMsg) : Bool :=
  (q.take idx).any fun e => e.dest == n.dest && e.cell == n.cell && decide (e.die = n.die)

/-- A notice that a die held has gone: BUSY clears (R132). -/
def clearBusy (s : State) (die : Option Nat) : State :=
  match die with
  | some d => modDie s d fun x => { x with noteSt := setBits x.noteSt 1 1 0 }
  | none => s

/-- One attempt of a notice: delivered, or held for lack of pool space. -/
def sendNotice (s : State) (idx : Nat) (n : NoticeMsg) : State :=
  match deliverNotice (modHub s fun h => { h with notices := dropAt h.notices idx }) n with
  | some s1 => clearBusy s1 n.die
  | none =>
    let d := match n.held with | some (d, _) => min 8192 (2 * d) | none => 128
    modHub s fun h => { h with notices := setAt h.notices idx { n with held := some (d, d) } }

/-- A notice in its unit's order; `retry` for one that was held and whose delay has run down. -/
def noticeMove (s : State) (idx : Nat) (retry : Bool) : Option State :=
  match s.hub.notices[idx]? with
  | some n =>
    let due := match n.held with | some (_, left) => retry && left == 0 | none => !retry
    if due && !noticeBehind s.hub.notices idx n then some (sendNotice s idx n) else none
  | none => none

/-- A REJECT notice of a peer's cell reaches its sender here; where no active launch holds the sender, the peer's cell that holds it
counts it (R26, R116). While the pool has no block the peer holds it. -/
def peerNotice (s : State) (asid : Nat) (m : Message) : Option State :=
  let a := BitVec.ofNat 16 asid
  if m.cls ≠ 6 || m.payload.length ≠ m.len || moduleOfAddr m.dest ≠ ownModule s then none
  else
    match launchAt s (lslotOf (actidOf m.dest)) with
    | some l =>
      if l.packet.asid = a then deliverNotice s { dest := m.dest, asid := a, msg := m, cell := 0, held := none, die := none }
      else some s
    | none => some s

/-- NOTICE_ARRIVAL: of a notice under way here, or from a peer. -/
def execNoticeArrival (src : NoticeSrc) (s : State) : Host.Outcome State Fault Refusal :=
  match src with
  | .own idx => move (noticeMove s idx false) s
  | .peer asid m => move (peerNotice s asid m) s

/-- HELD_NOTICE_SEND. -/
def execHeldNoticeSend (idx : Nat) (s : State) : Host.Outcome State Fault Refusal := move (noticeMove s idx true) s

/-- STRAND_RESUMPTION. -/
def execStrandResumption (c : CtxId) (s : State) : Host.Outcome State Fault Refusal :=
  if isStrand c && c.slot < 32 && decide ((getCtx s c).state = .free) then move ((resumeNext s c).map replayStrands) s else .next s

/-! ## Spawn counts (R125, R183) -/

/-- The root actor of this module where it stands, if its launch is active. -/
def rootPlace (s : State) (root : BitVec 40) : Option Place :=
  match launchAt s (lslotOf (actidOf root)) with
  | some l => some (actorOf l (aindexOf (actidOf root))).place
  | none => none

def setWait (s : State) (c : CtxId) (w : Wait) : State := modCtx s c fun x => { x with wait := w }

/-- The root actor's cell answers a request for a root of this module and, when it grants, counts; an EVICTED or ENDED root refuses. -/
def countAtRoot (s : State) (root : BitVec 40) : Bool × State :=
  match rootPlace s root with
  | some (.at r) =>
    let x := getCtx s r
    if x.strands < x.spawnlim.toNat then (true, modCtx s r fun y => { y with strands := y.strands + 1 }) else (false, s)
  | _ => (false, s)

/-- The answer to a request: it ends the slot's stall; what an aborted section was granted is returned (R187). -/
def answerCount (s : State) (r : SpawnReq) (granted : Bool) : State :=
  if r.aborted then (if granted then postDecrement s r.root else s) else setWait s r.ctx (.spawn (some granted))

/-- SPAWN_COUNT_REQUEST: a request is answered by the root's cell, here or, once the control channel has brought it there, on the
root's module; or a peer's strand asks for a root here. -/
def countMove (s : State) (idx : Nat) (peer : Option PeerSpawn) : Option State :=
  match peer with
  | some (.request m asid root) =>
    let active := match launchAt s (lslotOf (actidOf root)) with | some l => l.packet.asid.toNat == asid | none => false
    if m = ownModule s || moduleOfAddr root ≠ ownModule s then none
    else
      let a := if active then countAtRoot s root else (false, s)
      some (sendCtl a.2 m (.spawnAnswer a.1))
  | some (.answer granted) =>
    match s.hub.spawnReqs[idx]? with
    | some r =>
      if r.sent then some (answerCount (modHub s fun h => { h with spawnReqs := dropAt h.spawnReqs idx }) r granted) else none
    | none => none
  | none =>
    match s.hub.spawnReqs[idx]? with
    | none => none
    | some r =>
      let m := moduleOfAddr r.root
      if m = ownModule s then
        let a := countAtRoot (modHub s fun h => { h with spawnReqs := dropAt h.spawnReqs idx }) r.root
        some (answerCount a.2 r a.1)
      else if r.sent || !moduleReachable s m then none
      else
        some (sendCtl (modHub s fun h => { h with spawnReqs := setAt h.spawnReqs idx { r with sent := true } }) m
          (.spawnRequest (getCtx s r.ctx).ident.asid.toNat r.root))

/-- SPAWN_COUNT_REQUEST. -/
def execSpawnCountRequest (idx : Nat) (peer : Option PeerSpawn) (s : State) : Host.Outcome State Fault Refusal :=
  move (countMove s idx peer) s

/-- SPAWN_COUNT_ANSWER: the stall ends; the SPAWN goes on with its answer. -/
def execSpawnCountAnswer (c : CtxId) (s : State) : Host.Outcome State Fault Refusal :=
  let x := getCtx s c
  match x.wait with
  | .spawn (some yes) =>
    .next (modCtx s c fun x =>
      { x with wait := .none, progress := some { pc := x.pc, chunk := 0, acc := [if yes then 1 else 0], got := [] },
               sec := { x.sec with spawned := x.sec.spawned + if yes then 1 else 0, granted := yes } })
  | _ => .next s

/-- A decrement reaches its root: a resident one's count falls; an ENDED or EVICTED one discards it. -/
def countDown (s : State) (root : BitVec 40) : State :=
  match rootPlace s root with
  | some (.at r) => modCtx s r fun y => { y with strands := y.strands - 1 }
  | _ => s

/-- SPAWN_DECREMENT_ARRIVAL: of a decrement of this module, which goes to its root's module, or of a peer's. -/
def decrementMove (s : State) (idx : Nat) (peer : Option (BitVec 40)) : Option State :=
  match peer with
  | some root => if moduleOfAddr root = ownModule s then some (countDown s root) else none
  | none =>
    match s.hub.decrements[idx]? with
    | none => none
    | some root =>
      let s1 := modHub s fun h => { h with decrements := dropAt h.decrements idx }
      let m := moduleOfAddr root
      if m = ownModule s then some (countDown s1 root)
      else if moduleReachable s m then some (sendCtl s1 m (.decrement root))
      else none

/-- SPAWN_DECREMENT_ARRIVAL. -/
def execSpawnDecrementArrival (idx : Nat) (peer : Option (BitVec 40)) (s : State) : Host.Outcome State Fault Refusal :=
  move (decrementMove s idx peer) s

/-! ## Barrier arrivals (R128, R129, R185) -/

/-- An arrival at a launch-scope barrier. -/
def arriveLaunch (s : State) (lslot n who op : Nat) (v : Word) : State :=
  releaseLaunchBarrier (modLaunch s lslot fun l =>
    { l with barriers := tput l.barriers n (barrierArrive (tget l.barriers Barrier.fresh n) who op v) }) lslot n

/-- An arrival at a group's barrier, counted in its cluster. -/
def arriveGroup (s : State) (l : Launch) (b : BarrMsg) : State :=
  let group := b.aindex / max 1 l.packet.actors
  let cl := (tget l.groups { cluster := 0, scratchOff := 0, ctxs := [], retired := false } group).cluster
  let key := groupBarrierKey b.lslot group b.n
  releaseGroupBarrier (modCluster s cl fun k =>
    { k with barriers := tput k.barriers key (barrierArrive (tget k.barriers Barrier.fresh key) b.aindex b.op b.value) })
    cl b.lslot group b.n

/-- What the control channel reports of a peer member's actor: its arrival, or its end. -/
def peerBarrier (s : State) (p : PeerBarr) : Option State :=
  match launchAt s p.lslot with
  | some l =>
    match l.gang with
    | some g =>
      let m := p.rank / max 1 (memberActors l)
      if m = g.member || g.modules.length ≤ m || rankEnded l p.rank || 16 ≤ p.n then none
      else
        match p.op with
        | some o => if o < 5 then some (arriveLaunch s p.lslot p.n p.rank o p.value) else none
        | none =>
          let s1 := modLaunch s p.lslot fun l => { l with gang := some { g with endedRanks := p.rank :: g.endedRanks } }
          let s2 := (upFrom 0 16).foldl (fun s n => releaseLaunchBarrier s p.lslot n) s1
          some ((upFrom 0 16).foldl (fun s n => releaseReduction s p.lslot n []) s2)
    | none => none
  | none => none

/-- BARRIER_ARRIVAL: an own actor's BARR in its order; while its group is evicted a group-scope one waits. -/
def barrierMove (s : State) (idx : Nat) (peer : Option PeerBarr) : Option State :=
  match peer with
  | some p => peerBarrier s p
  | none =>
    match s.hub.barrs[idx]? with
    | none => none
    | some b =>
      if (s.hub.barrs.take idx).any fun e => e.lslot == b.lslot && e.aindex == b.aindex then none
      else
        let s1 := modHub s fun h => { h with barrs := dropAt h.barrs idx }
        match launchAt s b.lslot with
        | none => some s1
        | some l =>
          if b.launchScope then
            some (arriveLaunch (tellBarrier s1 l (rankOf l b.aindex) b.n (some b.op) b.value) b.lslot b.n (rankOf l b.aindex) b.op b.value)
          else if l.savedGroups.any fun g => g.group == b.aindex / max 1 l.packet.actors then none
          else some (arriveGroup s1 l b)

/-- BARRIER_ARRIVAL. -/
def execBarrierArrival (idx : Nat) (peer : Option PeerBarr) (s : State) : Host.Outcome State Fault Refusal :=
  move (barrierMove s idx peer) s

/-! ## Machine checks (R113, R234) -/

/-- The rows of a context hold section-start values again. -/
def oldRows (s : State) (c : CtxId) : State :=
  modCell s c.cell fun k =>
    { k with rows := k.rows.map fun r => if r.slot = c.slot && r.newValue then { r with dirty := false, newValue := false } else r }

def isDefer : Effect → Bool
  | .defer _ => true
  | _ => false

/-- The section runs again from its start: the first fetch of a run is due again where the section is the run's first (R30), and a
DEFER that it discarded may be given again (R176). -/
def rerunSection (s : State) (c : CtxId) : State :=
  let x := getCtx s c
  let s1 := oldRows (rollBack (timingEnd (cancelWaiters s c) c) c) c
  modCtx s1 c fun y =>
    { y with regs := x.sec.start.regs, seq := x.sec.start.seq, pc := x.sec.start.pc, wait := .none, loads := [], progress := none,
             place := none, inUse := [], wdog := y.wdogBudget, entryFetch := x.sec.committed == 0, runStart := s.dtc,
             trigger := y.trigger.map fun t => { t with deferred := t.deferred && !x.sec.buffer.any isDefer },
             counters := { y.counters with aborts := y.counters.aborts + 1 },
             sec := { Section.fresh with committed := x.sec.committed, start := x.sec.start, rerun := true,
                                         clearedTags := x.sec.clearedTags } }

/-- MACHINE_CHECK: a rerun once, else a trap. A release under way is not interrupted (log 31). -/
def machineCheck (s : State) (c : CtxId) : Option State :=
  let x := getCtx s c
  if x.state ≠ .running || x.dbg.halted || releasing x then none
  else if x.sec.irrevocable || x.sec.rerun || !x.sec.rerunnable then some (takeTrap s c { code := cMACHINE_CHECK })
  else some (rerunSection s c)

/-- MACHINE_CHECK. -/
def execMachineCheck (c : CtxId) (s : State) : Host.Outcome State Fault Refusal := move (machineCheck s c) s

end Sys2Proof.Machine
end

