-- ==== Sys2Proof/Machine/Dispatcher.lean ====
section
/-! DEFINITION. The global dispatcher's queues (R373, R374), packet reading and checks (R369, R370), selection (R375, R376),
LAUNCH requests (R186), and completion records (R25, R372). -/

namespace Sys2Proof.Machine

/-! ## Memory as the dispatcher reads and writes it (R64, R95; log 17) -/

/-- Why the dispatcher has not read or written a place: the walk or the stall's answer is still awaited; a translation fault, which
stalls a read; or the access has failed, a read's fault answered fatal. With the address, fault code and cause. -/
inductive HubFail where
  | wait
  | stall (va : Word) (code cause : Nat)
  | fatal (va : Word) (code cause : Nat)

def samePage (a b : Word) : Bool := a.toNat / 65536 == b.toNat / 65536

/-- The dispatcher's stall on a page of an ASID. -/
def stallOf (s : State) (asid : BitVec 16) (va : Word) : Option HubStall :=
  s.hub.stalls.find? fun h => decide (h.asid = asid) && samePage h.va va

/-- What a translation that fails is to the dispatcher: an address of a window that no page table translates, and memory that is not
there, fail at once. -/
def hubFail (va : Word) (code cause : Nat) : HubFail :=
  if code = 0 then .wait
  else if code = cMEM_UNCORRECTABLE || isLocal va || isWindow va then .fatal va code cause
  else .stall va code cause

/-- The place of a byte under an ASID. -/
def hubPlace (s : State) (asid : BitVec 16) (va : Word) (kind : Fin 4) : Except HubFail (Nat × State) :=
  match stallOf s asid va with
  | some h => .error (if h.fatal then .fatal h.va h.code h.cause else .wait)
  | none =>
    match translateUnit s asid va kind with
    | .ok (a, s1) =>
      if keyModule a = ownModule s && foldedAway s.hub.outMem (keyPa a) then .error (.fatal va cMEM_UNCORRECTABLE 0) else .ok (a, s1)
    | .error e => .error (hubFail va e.1 e.2)

/-- n bytes at a virtual address, page by page. -/
def hubRead (s : State) (asid : BitVec 16) (va : Word) (n : Nat) : Nat → Except HubFail (List Byte × State)
  | 0 => .ok ([], s)
  | fuel + 1 =>
    if n = 0 then .ok ([], s)
    else
      let m := min n (65536 - va.toNat % 65536)
      match hubPlace s asid va kRead with
      | .error e => .error e
      | .ok (a, s1) =>
        match hubRead s1 asid (va + BitVec.ofNat 64 m) (n - m) fuel with
        | .error e => .error e
        | .ok (r, s2) => .ok (readBytes s1.mem a m ++ r, s2)

/-- Bytes as little-endian words. -/
def leWords : List Byte → Nat → List Word
  | _, 0 => []
  | bs, n + 1 => BitVec.ofNat 64 ((bs.take 8).foldr (fun b acc => b.toNat + 256 * acc) 0) :: leWords (bs.drop 8) n

def hubWords (s : State) (asid : BitVec 16) (va : Word) (n : Nat) : Except HubFail (List Word × State) :=
  match hubRead s asid va (8 * n) (n / 8192 + 2) with
  | .ok (bs, s1) => .ok (leWords bs n, s1)
  | .error e => .error e

/-- A word stored by the dispatcher: registered at its home, or sent to a peer. -/
def hubStore (s : State) (w : WordStore) : State :=
  if keyModule w.addr = ownModule s then registerAt s none .unit w
  else gwPush s (.module (ownModule s) (keyModule w.addr)) (.store .unit w)

def hubByte (s : State) (a : Nat) (b : Nat) : State :=
  hubStore s { addr := wordKey a, mask := BitVec.ofNat 64 (255 * 2 ^ (8 * (a % 8))),
               data := BitVec.ofNat 64 (b % 256 * 2 ^ (8 * (a % 8))) }

/-- The dispatcher's fault record (R186, R370): code, cause; what no rule gives it is a free value. -/
def dispatcherRecord (s : State) (asid : BitVec 16) (ident va : Word) (kind : Fin 4) (code cause : Nat) : FaultRecord :=
  { code := BitVec.ofNat 8 code, unit := 4, unitIdx := 0, asid := asid, sections := 0, ident := ident,
    msgid := Config.freeWord s.freeCtr, pc := Config.freeWord (s.freeCtr + 1), vaddr := faultVa va kind cause,
    cursor := Config.freeWord (s.freeCtr + 2), lane := BitVec.ofNat 16 (Config.freeWord (s.freeCtr + 3)).toNat, flags := 0,
    dtc := s.dtc }

/-- A record of the dispatcher is sent; its four free values are used up. -/
def sendDispatcher (s : State) (r : FaultRecord) : State := { pushRecord s r with freeCtr := s.freeCtr + 4 }

/-- A failure is counted and reported to the owner of the ASID; a fatal answer that it had is used up. -/
def dispatcherFault (s : State) (asid : BitVec 16) (ident va : Word) (kind : Fin 4) (code cause : Nat) : State :=
  modHub (sendDispatcher s (dispatcherRecord s asid ident va kind code cause)) fun h =>
    { h with dispatcherErrors := h.dispatcherErrors + 1, stalls := h.stalls.filter fun t => !(t.fatal && decide (t.asid = asid)) }

/-- A read of the dispatcher stalls: a record with the source unit global dispatcher and a stall token, which TRESP answers (R95, R186;
the token's number is a free value, log 102). -/
def stallHub (s : State) (asid : BitVec 16) (ident va : Word) (code cause : Nat) : State :=
  let token := (Config.hubToken s.freeCtr).val
  let r := { dispatcherRecord s asid ident va kRead code cause with cursor := BitVec.ofNat 64 token, flags := 4 }
  modHub (sendDispatcher s r) fun h =>
    { h with stalls := h.stalls ++ [{ asid := asid, va := va, token := token, code := code, cause := cause, fatal := false }] }

/-- Fatal answers of an ASID's reads are used up by the head that fails for them. -/
def useFatal (s : State) (asid : BitVec 16) : State :=
  modHub s fun h => { h with stalls := h.stalls.filter fun t => !(t.fatal && decide (t.asid = asid)) }

/-! ## Completion records (Table 20.4) -/

/-- What a completion record says. -/
structure Completion where
  status : Nat
  reason : Nat
  lslot : Nat
  arrival : Word
  start : Word
  effdl : Word
  evictions : Nat
  faulted : Nat

def completionBytes (s : State) (c : Completion) : List Nat :=
  let le := fun (n v : Nat) => (upFrom 0 n).map fun i => v / 256 ^ i % 256
  le 2 c.status ++ le 2 c.reason ++ le 1 c.lslot ++ le 3 0 ++ le 8 c.arrival.toNat ++ le 8 c.start.toNat ++ le 8 s.dtc.toNat ++
    le 8 c.effdl.toNat ++ le 4 c.evictions ++ le 4 c.faulted ++ le 16 0

/-- The two ends of the record at COMPL. -/
def completionPlaces (s : State) (p : Packet) : Except (Word × Nat × Nat) (Nat × Nat × State) :=
  match translateUnit s p.asid p.compl kWrite with
  | .error e => .error (p.compl, e.1, e.2)
  | .ok (a, s1) =>
    match translateUnit s1 p.asid (p.compl + 63) kWrite with
    | .error e => .error (p.compl + 63, e.1, e.2)
    | .ok (b, s2) => .ok (a, b, s2)

/-- The walk for the record has to wait for a miss entry (R84): the launch retires later. -/
def completionWaits (s : State) (p : Packet) : Bool :=
  match completionPlaces s p with
  | .error (_, code, _) => code == 0
  | .ok _ => false

/-- The record at COMPL: bytes 2 to 63, then STATUS; a record that cannot be written is counted and reported at once (R370). -/
def writeCompletion (s : State) (p : Packet) (c : Completion) : State :=
  let bs := completionBytes s c
  let cross := 65536 - p.compl.toNat % 65536
  let lost := fun (s : State) (va : Word) (code cause : Nat) =>
    bumpFree (dispatcherFault s p.asid (Config.freeWord (s.freeCtr + 4)) va kWrite code cause)
  match completionPlaces s p with
  | .error (va, code, cause) => lost s va code cause
  | .ok (a, b, s1) =>
    let gone := fun k => keyModule k == ownModule s && foldedAway s.hub.outMem (keyPa k)
    if gone a || gone b then lost s p.compl cMEM_UNCORRECTABLE 0
    else
      let place := fun i => if i < cross then a + i else b + i - 63
      (upFrom 2 62 ++ [0, 1]).foldl (fun s i => hubByte s (place i) (bs.getD i 0)) s1

/-! ## Packets (Table 20.1) -/

def parsePacket (ws : List Word) : Packet :=
  let w := fun i => ws.getD i 0
  { asid := BitVec.ofNat 16 (w 0).toNat, prio := bits (w 0) 17 16, flags := BitVec.ofNat 8 (bits (w 0) 28 24),
    actors := bits (w 0) 39 32, accs := bits (w 0) 47 40, rings := bits (w 0) 55 48, deadline := w 1, codebase := w 2,
    rtab := w 3, const := w 4, args := w 5, groups := bits (w 6) 31 0, frame := bits (w 6) 47 32, wdog := bits (w 6) 63 48,
    scratch := bits (w 7) 31 0, spawnlim := BitVec.ofNat 16 (bits (w 7) 47 32), sovlog := bits (w 7) 55 48,
    waitn := bits (w 7) 63 56, csmode := BitVec.ofNat 32 (bits (w 8) 31 0), gangid := bits (w 8) 63 32,
    gangn := bits (w 9) 15 0, kshare := bits (w 9) 31 16, gangtab := w 10, mbdecl := w 11, spill := w 12, waittab := w 13,
    compl := w 14, sovbase := w 15 }

def isGang (p : Packet) : Bool := bit p.flags 0
def isInorder (p : Packet) : Bool := bit p.flags 1
def isDroplate (p : Packet) : Bool := bit p.flags 2

/-- Mailbox declarations (Table 5.6) from their 16 words. -/
def parseBoxes (ws : List Word) : Vector Mailbox 8 :=
  vecOfList 8 Mailbox.none ((upFrom 0 8).map fun i =>
    let w := ws.getD (2 * i) 0
    { Mailbox.none with valid := bit w 24, cls := bits w 5 0, typ := BitVec.ofNat 8 (bits w 15 8), cap := bits w 23 16 + 1,
                        ovflog := bits w 39 32, ovfbase := ws.getD (2 * i + 1) 0 })

/-- What the dispatcher reads of a launch beside its packet. -/
structure Tables where
  boxes : Vector Mailbox 8
  routines : Vector Word 64
  consts : Vector Word 64
  members : List Nat

/-- The module numbers of a gang table's bytes (Table 20.3). -/
def gangModules (bs : List Byte) (n : Nat) : List Nat := (upFrom 0 n).map fun i => (bs.getD (4 * i) 0).toNat

def readTables (s : State) (p : Packet) : Except HubFail (Tables × State) := do
  let (mb, s1) ← hubWords s p.asid p.mbdecl 16
  let n := if isGang p then p.gangn else 0
  let (gt, s2) ← hubRead s1 p.asid p.gangtab (4 * n) 8
  let (rt, s3) ← hubWords s2 p.asid p.rtab 64
  let (cs, s4) ← hubWords s3 p.asid p.const 64
  pure ({ boxes := parseBoxes mb, routines := vecOfList 64 0 rt, consts := vecOfList 64 0 cs, members := gangModules gt n }, s4)

/-! ## Checks (Table 20.2) -/

def codeCount (m : BitVec 32) (mode : Nat) : Nat := ((upFrom 0 16).filter fun b => bankMode m b == mode).length

/-- LOCAL bytes of a group: its scratch and its actors' frames (R379). -/
def groupScratch (p : Packet) : Nat := p.scratch + p.actors * p.frame * 64

/-- FIFO bytes of an actor: mailbox slots, notice queue, rings (R379). -/
def actorFifo (p : Packet) (boxes : Vector Mailbox 8) : Nat :=
  (boxes.toList.map fun b => if b.valid then b.cap * 160 else 0).sum + 8 * 160 + p.rings * 16384

/-- A cluster's bank layout for a launch (R76): its CSMODE over the default, or the default. -/
def launchLayout (p : Packet) : BitVec 32 := if p.csmode = 0 then 0xAA555500 else newTargets 0xAA555500 p.csmode

/-- One group fits an empty cluster (R379). -/
def fitsEmpty (p : Packet) (boxes : Vector Mailbox 8) : Bool :=
  let m := launchLayout p
  groupScratch p ≤ codeCount m 1 * 2 ^ 17 && p.actors * actorFifo p boxes ≤ codeCount m 2 * 2 ^ 17 && p.actors * p.accs ≤ 16

def aligned (v : Word) (n : Nat) : Bool := v.toNat % n == 0

/-- Every entry is a module of the domain, named once. -/
def membersOk (s : State) (ms : List Nat) : Bool :=
  ms.all (fun m => m / 16 ≤ s.hub.rowsM1.toNat && m % 16 ≤ s.hub.colsM1.toNat) && decide ms.Nodup

/-- The first check after the reads that fails. -/
def checkReason (s : State) (q : Queue) (p : Packet) (t : Tables) : Option Nat :=
  if bit q.qctl 14 && p.asid.toNat ≠ bits q.qctl 31 16 then some 2
  else if p.actors = 0 || 16 < p.actors || p.groups = 0 || 2 ^ 24 < p.groups * p.actors then some 3
  else if t.boxes.toList.any (fun b => b.valid && (b.cls < 8 || 61 < b.cls || 20 < b.ovflog)) then some 4
  else if 16 < p.accs || 8 < p.rings || 1024 < p.frame || 2 ^ 20 < p.scratch || p.scratch % 64 ≠ 0 || 20 < p.sovlog ||
      4 < p.waitn || !fitsEmpty p t.boxes then some 5
  else if !(aligned p.codebase 32 && aligned p.rtab 8 && aligned p.const 8 && aligned p.mbdecl 8 && aligned p.spill 65536 &&
      aligned p.waittab 8 && aligned p.compl 64 && aligned p.sovbase 64) then some 6
  else if isGang p then
    if p.gangn = 0 || 256 < p.gangn || 1024 < p.kshare || !membersOk s t.members then some 7 else none
  else if p.gangn ≠ 1 then some 7
  else none

/-! ## Queues (Table 20.5) -/

def queueOf (s : State) (q : Nat) : Queue := s.hub.queues.toList.getD q Queue.reset

def setQueue (s : State) (q : Nat) (f : Queue → Queue) : State :=
  let new := f (queueOf s q)
  modHub s fun h => { h with queues := vecOfList 64 Queue.reset (setAt h.queues.toList q new) }

/-- Slots of a queue; 0 when QLOG disables it. -/
def queueCap (q : Queue) : Nat :=
  let n := bits q.qctl 4 0
  if 1 ≤ n ∧ n ≤ 16 then 2 ^ n else 0

/-- Packets present. -/
def queueLen (q : Queue) : Nat := (q.tail - q.qhead).toNat

/-- Physical address of the slot of a sequence number. -/
def slotPa (q : Queue) (seq : Nat) : Nat := bits q.qbase 51 7 * 128 + seq % max 1 (queueCap q) * 128

def tailPa (q : Queue) : Nat := bits q.qtailpa 51 3 * 8

/-- Bring-up has ended: the dispatcher serves its queues (R423). -/
def dispatching (s : State) : Bool := s.hub.bootStep == 9

/-- A tail word value is seen: in range it admits packets, each with this ARRIVAL; else OVF (R374). -/
def observeTail (s : State) (q : Nat) (t : BitVec 32) : State :=
  setQueue s q fun x =>
    let n := (t - x.qhead).toNat
    if n ≤ queueCap x then
      { x with tail := t, arrivals := x.arrivals.take n ++ List.replicate (n - x.arrivals.length) s.dtc }
    else { x with qstat := setBits x.qstat 0 0 1 }

/-- QUEUE_TAIL_OBSERVATION; a tail word where no memory is shows nothing, and the error is reported (R425). -/
def execQueueTailObservation (q : Fin 64) (s : State) : Host.Outcome State Fault Refusal :=
  let x := queueOf s q.val
  if !dispatching s || queueCap x = 0 then .next s
  else if populated s (tailPa x) 8 then .next (observeTail s q.val (BitVec.ofNat 32 (homeRead s (physKey s (tailPa x))).toNat))
  else .next (strayError s)

/-! ## LAUNCH requests (R186) -/

/-- The packet words with the ASID replaced, appended as a host would: the packet, then the tail word. None while the queue is
full or disabled; what goes where no memory is is lost, and reported (R425). -/
def appendPacket (s : State) (q : Nat) (asid : BitVec 16) (ws : List Word) : Option State :=
  let x := queueOf s q
  let tp := tailPa x
  if queueCap x = 0 then none
  else if !populated s tp 8 then some (strayError s)
  else
    let t := (homeRead s (physKey s tp)).toNat % 2 ^ 32
    if queueCap x ≤ (BitVec.ofNat 32 t - x.qhead).toNat then none
    else
      let pa := slotPa x t
      let s1 := if populated s pa 128 then homeWriteWords s (physKey s pa) (setAt ws 0 (setBits (ws.getD 0 0) 15 0 asid.toNat))
        else strayError s
      some (homeWriteWord s1 (physKey s1 tp) (setBits (homeRead s1 (physKey s1 tp)) 31 0 ((t + 1) % 2 ^ 32)))

def dropRequest (s : State) (idx : Nat) : State := modHub s fun h => { h with launchReqs := dropAt h.launchReqs idx }

/-- A request in submission order for its queue: its read waits, stalls, or fails and is dropped, counted and reported; else its packet
is appended. -/
def launchRequestMove (s : State) (idx : Nat) : Option State :=
  match s.hub.launchReqs[idx]? with
  | none => none
  | some r =>
    if (s.hub.launchReqs.take idx).any fun e => e.queue == r.queue then none
    else
      match hubWords s r.asid r.va 16 with
      | .error .wait => none
      | .error (.stall va code cause) => some (stallHub s r.asid r.ident va code cause)
      | .error (.fatal _ code cause) => some (dispatcherFault (dropRequest s idx) r.asid r.ident r.va kRead code cause)
      | .ok (ws, s1) => (appendPacket s1 r.queue r.asid ws).map fun t => dropRequest t idx

/-- LAUNCH_REQUEST_APPEND. -/
def execLaunchRequestAppend (idx : Nat) (s : State) : Host.Outcome State Fault Refusal := move (launchRequestMove s idx) s

/-! ## Selection (R375) -/

/-- A head that may be selected. -/
structure Head where
  q : Nat
  packet : Packet
  arrival : Word
  effdl : Word

/-- What the scan of one queue's head finds. -/
inductive HeadState where
  | skip
  | ready (h : Head)
  /-- its waited records could not be read -/
  | bad (h : Head)
  /-- a read of its waited records stalls on a translation fault -/
  | stall (h : Head) (va : Word) (code cause : Nat)
  /-- its slot is where no memory is -/
  | unread (q : Nat)

/-- The STATUS fields of the waited records: none done yet, all done, or unreadable. -/
def waitsDone (s : State) (p : Packet) : Nat → Except HubFail (Bool × State)
  | 0 => .ok (true, s)
  | n + 1 => do
    let (ws, s1) ← hubWords s p.asid (p.waittab + BitVec.ofNat 64 (8 * (p.waitn - (n + 1)))) 1
    let (st, s2) ← hubRead s1 p.asid (ws.headD 0) 2 3
    let (r, s3) ← waitsDone s2 p n
    pure (st.any (fun b => decide (b ≠ 0)) && r, s3)

def headOf (s : State) (q : Nat) : HeadState × State :=
  let x := queueOf s q
  let n := queueLen x
  if !bit x.qctl 15 || n = 0 || queueCap x < n then (.skip, s)
  else
    let pa := slotPa x x.qhead.toNat
    if !populated s pa 128 then (.unread q, s)
    else
      let p := parsePacket (homeReadWords s (physKey s pa) 16)
      if isInorder p && x.last.isSome then (.skip, s)
      else
        let arrival := x.arrivals.headD s.dtc
        let h : Head := { q := q, packet := p, arrival := arrival,
                          effdl := if p.deadline = 0 then arrival + x.qslack else p.deadline }
        match waitsDone s p p.waitn with
        | .error .wait => (.skip, s)
        | .error (.stall va code cause) => (.stall h va code cause, s)
        | .error (.fatal _ _ _) => (.bad h, s)
        | .ok (true, s1) => (.ready h, s1)
        | .ok (false, s1) => (.skip, s1)

/-- Earlier effective deadline; then higher PRIO; then lower queue, which the scan's order gives. -/
def headBefore (a b : Head) : Bool :=
  a.effdl.toNat < b.effdl.toNat || (a.effdl == b.effdl && b.packet.prio < a.packet.prio)

/-- Scan the queues in increasing number: the best head, or the first that cannot be read. -/
def scanHeads (best : Option Head) : List Nat → State → HeadState × State
  | [], s => (match best with | some h => .ready h | none => .skip, s)
  | q :: r, s =>
    match headOf s q with
    | (.skip, s1) => scanHeads best r s1
    | (.ready h, s1) =>
      let b := match best with
        | some k => if headBefore h k then h else k
        | none => h
      scanHeads (some b) r s1
    | found => found

/-- HEAD passes a packet. -/
def popHead (s : State) (q : Nat) (last : Option Nat) : State :=
  setQueue s q fun x => { x with qhead := x.qhead + 1, arrivals := x.arrivals.drop 1, last := last }

/-- A launch retires without running: no slot, its record at once, HEAD passes it (R370, R372, R375). -/
def retireUnrun (s : State) (h : Head) (status reason : Nat) (effdl : Word) : State :=
  writeCompletion (popHead s h.q none) h.packet
    { status := status, reason := reason, lslot := 0xFF, arrival := h.arrival, start := 0, effdl := effdl, evictions := 0,
      faulted := 0 }

def freeLaunchSlot (s : State) : Option Nat := (upFrom 0 256).find? fun i => (launchAt s i).isNone

/-- A gang as its coordinator starts it (R381). -/
def newGang (s : State) (lslot : Nat) (ms : List Nat) (coordinator : Bool) : Gang :=
  let me := (findAt (fun m => m == ownModule s) ms).getD ms.length
  { member := me, coordinator := coordinator, modules := ms, slots := setAt (List.replicate ms.length 0) me lslot, state := 0,
    departed := [], cause := 0, detached := 0, ownDetached := 0, endedRanks := [], answers := [], committed := false,
    blocked := false, retired := [], chief := ownModule s }

/-- A launch takes a slot. -/
def newLaunch (s : State) (lslot queue : Nat) (p : Packet) (t : Tables) (arrival effdl : Word) (late : Bool) : Launch :=
  { Launch.zero with
    packet := p, queue := queue, effdl := effdl, arrival := arrival, late := late, routines := t.routines, consts := t.consts,
    mailboxes := t.boxes, gang := if isGang p then some (newGang s lslot t.members true) else none }

/-- The identity in a record of a read for a launch that has no actor yet is a free value. -/
def stallHead (s : State) (h : Head) (va : Word) (code cause : Nat) : State :=
  bumpFree (stallHub s h.packet.asid (Config.freeWord (s.freeCtr + 4)) va code cause)

/-- CHECK, the deadline, and the slot of a chosen head; a read that waits or stalls keeps it. -/
def selectHead (s : State) (h : Head) (slot : Nat) : Option State :=
  match readTables s h.packet with
  | .error .wait => none
  | .error (.stall va code cause) => some (stallHead s h va code cause)
  | .error (.fatal _ _ _) => some (retireUnrun (useFatal s h.packet.asid) h 4 1 h.effdl)
  | .ok (t, s1) =>
    match checkReason s1 (queueOf s1 h.q) h.packet t with
    | some r => some (retireUnrun s1 h 4 r h.effdl)
    | none =>
      let late := h.effdl.toNat < s1.dtc.toNat
      if late && isDroplate h.packet then some (retireUnrun s1 h 3 0 h.effdl)
      else
        let l := newLaunch s1 slot h.q h.packet t h.arrival h.effdl late
        some (modHub (popHead s1 h.q (some slot)) fun b => { b with launches := tput b.launches slot l })

/-- A head whose own slot cannot be read retires without a record, which is counted and reported (R370, R425; log 90). -/
def retireUnread (s : State) (q : Nat) : State :=
  bumpFree (dispatcherFault (popHead s q none) 0 (Config.freeWord (s.freeCtr + 4)) 0 kRead cMEM_UNCORRECTABLE 0)

/-- One selection, the retirement of a head that cannot be read, or a stall. -/
def selectionMove (s : State) : Option State :=
  match scanHeads none (upFrom 0 64) s with
  | (.skip, _) => none
  | (.unread q, s1) => some (retireUnread s1 q)
  | (.stall h va code cause, s1) => some (stallHead s1 h va code cause)
  | (.bad h, s1) =>
    if completionWaits s1 h.packet then none
    else
      some { retireUnrun (useFatal s1 h.packet.asid) h 4 1 (Config.freeWord (s1.freeCtr + 8)) with freeCtr := s1.freeCtr + 9 }
  | (.ready h, s1) =>
    if completionWaits s1 h.packet then none else (freeLaunchSlot s1).bind fun n => selectHead s1 h n

/-- LAUNCH_SELECTION. -/
def execLaunchSelection (s : State) : Host.Outcome State Fault Refusal :=
  if dispatching s then move (selectionMove s) s else .next s

end Sys2Proof.Machine
end

