-- ==== Sys2Proof/Machine/Grid.lean ====
section
/-! DEFINITION. Grid instructions (R349 to R368) and the moves of the Mortar agents. -/

namespace Sys2Proof.Machine

/-! ## Checks of a descriptor (R350) -/

def gTypeOk (d : BitVec 1024) : Bool := gType d ∈ [0, 1, 2, 3, 7, 9]

/-- The largest extent of a part along j. -/
def maxPart (d : BitVec 1024) (j : Nat) : Nat := (gDim d j + gParts d j - 1) / max 1 (gParts d j)

/-- One dimension's SHAPE checks. -/
def dimBad (d : BitVec 1024) (j : Nat) : Bool :=
  let lo := gRule d (2 * j)
  let hi := gRule d (2 * j + 1)
  if j < gRank d then
    gDim d j = 0 || gParts d j = 0 || gDim d j < gParts d j || 4 < lo || 4 < hi ||
    (lo == 1) != (hi == 1) ||
    ((1 < gParts d j || lo == 1) && gDim d j / max 1 (gParts d j) < gHalo d) ||
    ((lo == 3 || hi == 3) && gDim d j < gHalo d) ||
    16383 < maxPart d j + gHalo d
  else gDim d j ≠ 1 || gParts d j ≠ 1 || lo ≠ 0 || hi ≠ 0

def gangMembers (l : Option Launch) : Nat :=
  match l with
  | some l => match l.gang with | some g => g.modules.length | none => 1
  | none => 1

/-- The SHAPE checks of R350. -/
def descBad (d : BitVec 1024) (members : Nat) : Bool :=
  gRank d = 0 || 4 < gRank d || gRho d = 0 || 4 < gRho d || gTheta d = 0 || 8 < gTheta d || dims4.any (dimBad d) ||
  gLocalOff d % 64 ≠ 0 || (gPpm d ≠ 0 && members < (gPartCount d + gPpm d - 1) / max 1 (gPpm d))

/-- The part that an actor owns, the lowest if several (R349). -/
def ownedPart (l : Launch) (d : BitVec 1024) (ai : Nat) : Option Nat :=
  let off := ai - gOwnBase d
  let stride := gOwnStride d
  let local_ : Option Nat :=
    if ai < gOwnBase d then none
    else if stride = 0 then (if off = 0 then some 0 else none)
    else if off % stride = 0 then some (off / stride) else none
  match local_ with
  | none => none
  | some p =>
    let q := if gPpm d = 0 then p else ownMember l * gPpm d + p
    if q < gPartCount d && (gPpm d = 0 || p < gPpm d) then some q else none

def ownIndex (x : Ctx) : Nat := aindexOf (actidOf x.ident.root)

/-! ## GDECL (R358) -/

/-- A strip of the slot is held or on its way from its agent. -/
def stripsOf (s : State) (c : CtxId) (g : Fin 4) : Bool :=
  (getCluster s (clusterOf c.cell)).strips.any fun h => decide (h.owner = c) && decide (h.strip.slotNo = g)

/-- The binding of a checked descriptor. -/
def bindSlot (c : CtxId) (g : Fin 4) (va : Word) (d : BitVec 1024) : X Unit := do
  let x ← ctx c
  let l? := launchAt (← get) x.ident.lslot.toNat
  let bad := fun code => trapWith { code := code, vaddr := va, lane := g.val }
  if !gTypeOk d then bad cTYPE_MISMATCH
  if descBad d (gangMembers l?) then bad cSHAPE
  let part := match l? with | some l => ownedPart l d (ownIndex x) | none => none
  match part with
  | some p => if x.grants.scratchSize < gLocalOff d + partBytes d p then bad cPROT
  | none => pure ()
  match x.grid[g].desc with
  | some old => if old ≠ d then bad cSHAPE
  | none => modify fun s => modSlot s c g fun _ => { GridSlot.unbound with desc := some d, part := part }

/-- GDECL. -/
def execGdecl (g : Fin 4) (a : Reg) (s : State) : Host.Outcome State Fault Refusal :=
  issueOp s 4 do
    let c := s.cur
    if isStrand c then illegal
    if a = 0 then
      if stripsOf (← get) c g then stallWith .other
      modify fun s => modSlot s c g fun _ => GridSlot.unbound
    else
      let va ← getX c a
      if va.toNat % 8 ≠ 0 then trapWith { code := cALIGN, vaddr := va, lane := g.val }
      let (_, ws) ← lanesOf c (progressOf (← ctx c)) 0 id (upFrom 0 16) fun i => do
        let w := va + BitVec.ofNat 64 (8 * i)
        let l ← locate c w 8 8 kRead g.val
        readLoc c w l 8
      bindSlot c g va (packElems 1024 64 ws)

/-! ## Cells by key (R352, R355) -/

/-- The key's slot and local coordinates. -/
def keySlot (k : Word) : Fin 4 := Fin.ofNat 4 (bits k 61 60)
def keyCoords (k : Word) : List Int := dims4.map fun j => (bits k (15 * j + 14) (15 * j) : Int) - 16384
def keyBad (d : BitVec 1024) (k : Word) : Bool :=
  bits k 63 62 ≠ 0 || dims4.any fun j => gRank d ≤ j && bits k (15 * j + 14) (15 * j) ≠ 16384

/-- The generation that serves a step, and its parity; below STEPBASE the parity that the division gives. -/
def servingGen (d : BitVec 1024) (st : Nat) : Nat := gStepBase d + gTheta d * ((st - gStepBase d) / max 1 (gTheta d))
def servingParity (d : BitVec 1024) (st : Nat) : Nat := ((((st : Int) - gStepBase d) / (max 1 (gTheta d) : Nat)) % 2).toNat

/-- LOCAL offset of a cell's storage: interior, or the slab of a parity. -/
def cellOff (x : Ctx) (d : BitVec 1024) (p : Nat) (i : List Int) (q : Nat) : Nat :=
  let base := x.grants.scratchOff + gLocalOff d
  if isInterior d p i then base + interiorElem d p (i.map Int.toNat) * gElemSize d
  else base + slabOffset d p (faceOf d p i) q + slabElem d p i * gElemSize d

/-- The virtual-address field of Table 19.8. -/
def cellVa (x : Ctx) (d : BitVec 1024) (p : Nat) (i : List Int) (q cause : Nat) : Word :=
  let a := if isInterior d p i || distance d p i ≤ gHalo d then (localVa (cellOff x d p i q)).toNat % 2 ^ 55 else 0
  BitVec.ofNat 64 (a + cause * 2 ^ 58)

/-- The slot's descriptor and the part that the actor owns in it, or PROT (R359). -/
def ownedSlot (c : CtxId) (g : Fin 4) (cursor : Word) : X (BitVec 1024 × Nat) := do
  if isStrand c then illegal
  let x ← ctx c
  match x.grid[g].desc, x.grid[g].part with
  | some d, some p => pure (d, p)
  | _, _ => trapWith { code := cPROT, lane := g.val, cursor := cursor }

/-- GHOST_READ of R355: the parity to read. -/
def ghostRead (c : CtxId) (g : Fin 4) (d : BitVec 1024) (p : Nat) (i : List Int) (key st : Word) (wait : Bool) : X Nat := do
  let x ← ctx c
  let q := servingParity d st.toNat
  let bad := fun (code cause : Nat) (cur : Word) =>
    trapWith (α := Unit) { code := code, vaddr := cellVa x d p i q cause, lane := g.val, cursor := cur }
  if gHalo d < distance d p i then bad cBOUNDS 0 key
  if (match ghostSource d (globalOf d p i) with | .none => true | _ => false) then bad cNO_BOUNDARY 0 key
  if st.toNat < gStepBase d then bad cSTALE_HALO 3 st
  let n := servingGen d st.toNat
  if gRho d * (gTheta d - (st.toNat - n)) < distance d p i then bad cSTALE_HALO 2 st
  let sl := x.grid[g]
  if genReleased sl d n then bad cHALO_GONE 0 st
  if !faceArrived sl d p n (faceOf d p i) then
    if wait then stallWith .other else bad cSTALE_HALO 1 st
  acquire c
  pure q

/-- The value of a half-precision element in FP32, exactly. -/
def widenHalf (ty v : Nat) : Nat :=
  if ty = 2 then v * 65536
  else if v / 1024 % 32 = 31 then v / 32768 * 2 ^ 31 + 0x7F800000 + v % 1024 * 8192
  else (fvRound fp32 RNE false (fpDecode fp16 v)).1

/-- The slot's elements go through f registers. -/
def gFloat (d : BitVec 1024) : Bool := gType d ≤ 3

/-- GLD (R359). -/
def gldOp (c : CtxId) (wait : Bool) (r a : Reg) (b : OpB) : X Unit := do
  let key ← getX c a
  let st ← opInt c b
  let g := keySlot key
  let (d, p) ← ownedSlot c g key
  if keyBad d key then trapWith { code := cBOUNDS, lane := g.val, cursor := key }
  if gFloat d then needF c r else needX c r
  let i := keyCoords key
  let q ← if isInterior d p i then pure 0 else ghostRead c g d p i key st wait
  let off := cellOff (← ctx c) d p i q
  let v := storeBytes (← get) c (storeKey (ownModule (← get)) (clusterOf c.cell) off) (gElemSize d)
  match gType d with
  | 2 => putF c r (BitVec.ofNat 64 (widenHalf 2 v))
  | 3 => putF c r (BitVec.ofNat 64 (widenHalf 3 v))
  | 7 => putX c r (sext64 32 v)
  | 9 => putX c r (BitVec.ofNat 64 v)
  | _ => putF c r (BitVec.ofNat 64 v)

/-- GLD.W. -/
def execGldW (d a : Reg) (b : OpB) (s : State) : Host.Outcome State Fault Refusal := issueOp s (lenB b) (gldOp s.cur true d a b)

/-- GLD.F. -/
def execGldF (d a : Reg) (b : OpB) (s : State) : Host.Outcome State Fault Refusal := issueOp s (lenB b) (gldOp s.cur false d a b)

/-- GST (R360). -/
def execGst (r a : Reg) (s : State) : Host.Outcome State Fault Refusal :=
  issueOp s 4 do
    let c := s.cur
    let key ← getX c a
    let g := keySlot key
    let (d, p) ← ownedSlot c g key
    let i := keyCoords key
    if keyBad d key then trapWith { code := cBOUNDS, lane := g.val, cursor := key }
    let x ← ctx c
    if !isInterior d p i then trapWith { code := cBOUNDS, lane := g.val, cursor := key, vaddr := cellVa x d p i 0 0 }
    let v ← if gFloat d then getF c r else getX c r
    let mode := x.frm.toNat
    let res := match gType d with
      | 2 => fvRound bf16 mode false (fpDecode fp32 (v.toNat % 2 ^ 32))
      | 3 => fvRound fp16 mode false (fpDecode fp32 (v.toNat % 2 ^ 32))
      | _ => (v.toNat % 2 ^ (8 * gElemSize d), 0)
    addFlags c res.2
    modify fun t =>
      { t with mem := writeLE t.mem (storeKey (ownModule t) (clusterOf c.cell) (cellOff x d p i 0)) (gElemSize d) res.1 }

/-! ## Steps (R361 to R363) -/

def stepCursor (n : Word) : Word := BitVec.ofNat 64 (bits n 31 0)

/-- HSTEP (R361). -/
def execHstep (g : Fin 4) (b : OpB) (s : State) : Host.Outcome State Fault Refusal :=
  issueOp s (lenB b) do
    let c := s.cur
    let n ← opInt c b
    let (d, _) ← ownedSlot c g (stepCursor n)
    let last := (← ctx c).grid[g].last
    let want := match last with | some m => m + BitVec.ofNat 64 (gTheta d) | none => BitVec.ofNat 64 (gStepBase d)
    if n ≠ want then trapWith { code := cSHAPE, lane := g.val, cursor := stepCursor n }
    effect c false (.hstep g n)
    modify fun t => modSlot t c g fun sl => { sl with last := some n }
    updSec c fun k => { k with lastJournal := (g, last) :: k.lastJournal }

/-- HREL (R362). -/
def execHrel (g : Fin 4) (b : OpB) (s : State) : Host.Outcome State Fault Refusal :=
  issueOp s (lenB b) do
    let c := s.cur
    let n ← opInt c b
    let _ ← ownedSlot c g 0
    effect c false (.hrel g n)

/-- HWAIT (R363). -/
def execHwait (g : Fin 4) (b : OpB) (s : State) : Host.Outcome State Fault Refusal :=
  issueOp s (lenB b) do
    let c := s.cur
    let n ← opInt c b
    let (d, p) ← ownedSlot c g (stepCursor n)
    let sl := (← ctx c).grid[g]
    let bad := fun (code : Nat) => trapWith (α := Unit) { code := code, lane := g.val, cursor := stepCursor n }
    if n.toNat < gStepBase d ∨ (n.toNat - gStepBase d) % max 1 (gTheta d) ≠ 0 then bad cSHAPE
    if genReleased sl d n.toNat then bad cHALO_GONE
    if !genArrived sl d p n.toNat then stallWith .other
    acquire c

/-! ## GQRY (R364) -/

/-- The newest generation held that has arrived and is not released. -/
def newestGen (g : GridSlot) (d : BitVec 1024) (p : Nat) : Word :=
  let ok := [g.par0, g.par1].filterMap fun q =>
    match q.gen with
    | some n => if genArrived g d p n.toNat && !genReleased g d n.toNat then some n.toNat else none
    | none => none
  match ok with
  | [] => BitVec.allOnes 64
  | a :: r => BitVec.ofNat 64 (r.foldl max a)

/-- The snapshot of an owner's slot. -/
def slotQuery (x : Ctx) (g : Fin 4) (d : BitVec 1024) (p code : Nat) : Word :=
  match code with
  | 0 => BitVec.ofNat 64 p
  | 1 => BitVec.ofNat 64 (0x0800100020004000 + g.val * 2 ^ 60)
  | 2 => BitVec.ofNat 64 ((dims4.map fun j => partSize d p j % 2 ^ 16 * 2 ^ (16 * j)).sum)
  | 7 => localVa (x.grants.scratchOff + gLocalOff d)
  | 8 => x.grid[g].last.getD (BitVec.allOnes 64)
  | 9 => newestGen x.grid[g] d p
  | j => BitVec.ofNat 64 (partStart d p (j - 3))

/-- GQRY. What a slot bound without a part answers for the part's own geometry is a free value (log 25). -/
def execGqry (d : Reg) (g : Fin 4) (code : Fin 10) (s : State) : Host.Outcome State Fault Refusal :=
  issueOp s 4 do
    let c := s.cur
    if isStrand c then illegal
    needX c d
    let x ← ctx c
    match x.grid[g].desc, x.grid[g].part with
    | some e, some p => putX c d (slotQuery x g e p code.val)
    | some e, none =>
      if code.val ∈ [0, 8, 9] then putX c d (BitVec.allOnes 64)
      else if code.val = 1 then putX c d (slotQuery x g e 0 1)
      else
        putX c d (Config.freeWord (← get).freeCtr)
        modify bumpFree
    | none, _ => putX c d (BitVec.allOnes 64)

/-! ## Gathers and scatters (R365) -/

/-- The 32 indices of an unbound register; bound operands and unbound slots stop (log 25). -/
def laneIndices (c : CtxId) (idx data : Reg) (g : Fin 4) : X (BitVec 1024 × List (Nat × Nat)) := do
  if isStrand c then illegal
  let a ← vop c idx
  let b ← vop c data
  if a.isView || b.isView then trapWith { code := cSHAPE, lane := g.val }
  match (← ctx c).grid[g].desc with
  | none => trapWith { code := cPROT, lane := g.val }
  | some d =>
    let w ← readW c idx
    let active := ((upFrom 0 32).map fun i => (i, elemAt w 64 i)).filter fun p => p.2 != 2 ^ 64 - 1
    match active.find? fun p => gridTotal d ≤ p.2 with
    | some p => trapWith { code := cBOUNDS, lane := p.1 }
    | none => pure (d, active)

/-- GGATHER: wd reads zero but for the lanes that return. -/
def execGgather (d a : Reg) (g : Fin 4) (s : State) : Host.Outcome State Fault Refusal :=
  issueOp s 4 do
    let c := s.cur
    let (e, lanes) ← laneIndices c a d g
    writeW c d 0
    forEach lanes fun p => do
      let id := (← ctx c).nextId
      addPending c (blankPending (.lane d (gElemSize e) p.1) 0 0 false)
      modify fun t => sendLane t c g false 0 id p.1 p.2 0

/-- GSCAT. -/
def execGscat (op : Fin 4) (wa ws : Reg) (g : Fin 4) (s : State) : Host.Outcome State Fault Refusal :=
  issueOp s 4 do
    let c := s.cur
    let (e, lanes) ← laneIndices c wa ws g
    let v ← readW c ws
    effect c false (.gscat g op.val (lanes.map fun p =>
      (p.1, p.2, BitVec.ofNat 64 (elemAt v (8 * gElemSize e) p.1))))

/-! ## Strips on their way (R356) -/

/-- The agent holds an earlier strip to the same receiver (R356). -/
def stripBehind (k : Cluster) (idx : Nat) (st : HeldStrip) : Bool :=
  (k.strips.take idx).any fun h => h.held.isSome && sameReceiver h st

/-- A refused strip is held, for a delay that doubles from 128 to 8,192 (R118, R356). -/
def holdStrip (s : State) (cl idx : Nat) (h : HeldStrip) : State :=
  let d := match h.held with | some (d, _) => min 8192 (2 * d) | none => 128
  modCluster s cl fun k => { k with strips := setAt k.strips idx { h with held := some (d, d) } }

/-- A placed strip leaves its agent. -/
def stripPlaced (s : State) (cl idx : Nat) : State := modCluster s cl fun k => { k with strips := dropAt k.strips idx }

/-- One attempt of the strip at a position, whose receiver is on this module. -/
def tryStrip (s : State) (cl idx : Nat) (h : HeldStrip) : State :=
  match takeStrip s h.strip with
  | some s1 => stripPlaced s1 cl idx
  | none => holdStrip s cl idx h

/-- The answer of a peer's agent to a strip that is out, or whose delay has run down, so that it has been sent again. -/
def stripAnswered (s : State) (cl idx : Nat) (placed : Bool) : Option State :=
  match (getCluster s cl).strips[idx]? with
  | none => none
  | some h =>
    match h.toModule with
    | none => none
    | some m =>
      let again := match h.held with | some (_, k) => k == 0 | none => true
      if !again || stripBehind (getCluster s cl) idx h || !moduleReachable s m then none
      else
        let s1 := if h.held.isSome then inject s m 5 else s
        some (if placed then stripPlaced s1 cl idx else holdStrip s1 cl idx h)

/-- HALO_STRIP_ARRIVAL: a strip of this module, one that a peer's agent sends (which is told when it is refused), or a peer's answer. -/
def stripArrival (s : State) (cl : Nat) : StripSrc → Option State
  | .peer m st => some (orRefuse s m (.stripRefused st) (takeStrip s st))
  | .own idx =>
    match (getCluster s cl).strips[idx]? with
    | some h =>
      if h.held.isSome || h.toModule.isSome || stripBehind (getCluster s cl) idx h then none else some (tryStrip s cl idx h)
    | none => none
  | .accepted idx => stripAnswered s cl idx true
  | .refused idx => stripAnswered s cl idx false

/-- HALO_STRIP_ARRIVAL. -/
def execHaloStripArrival (cluster : Nat) (src : StripSrc) (s : State) : Host.Outcome State Fault Refusal :=
  move (stripArrival s cluster src) s

/-- HALO_STRIP_RETRY: the delay of a refused strip has run down. -/
def stripRetry (s : State) (cl idx : Nat) : Option State :=
  match (getCluster s cl).strips[idx]? with
  | some h =>
    match h.held with
    | some (_, 0) => if h.toModule.isSome || stripBehind (getCluster s cl) idx h then none else some (tryStrip s cl idx h)
    | _ => none
  | none => none

/-- HALO_STRIP_RETRY. -/
def execHaloStripRetry (cluster idx : Nat) (s : State) : Host.Outcome State Fault Refusal := move (stripRetry s cluster idx) s

/-! ## Lanes at their owners (R365, R367, R368) -/

/-- The value of a gather lane reaches its requester. -/
def answerLane (s : State) (l : ActiveLane) (v : Word) : State :=
  modCtx s l.from_ fun x =>
    { x with loads := x.loads.map fun p => if p.id = l.id then { p with value := some v } else p }

/-- The answer to a lane goes to its requester, here or on the module that it came from (none: not served, R368). -/
def replyLane (s : State) (l : ActiveLane) (v : Option Word) : State :=
  match l.away with
  | some p => inject (modHub s fun h => { h with laneReplies := h.laneReplies ++ [(p, v)] }) p.fromModule 5
  | none => if l.scatter then s else answerLane s l (v.getD 0)

/-- A REJECT notice with reason 5 for a lane. -/
def laneNotice (s : State) (cell : Nat) (l : ActiveLane) : State := postNotice s l.root l.asid cell (mkNotice s l.root 6 [l.msgid, 5])

/-- A lane that its owner cannot serve: the owner's cell logs it, the requester gets zero or nothing, and a REJECT notice with
reason 5. -/
def rejectLane (s : State) (cell : Nat) (l : ActiveLane) : State :=
  replyLane (laneNotice (modCell s cell fun k => { k with rejected := k.rejected + 1 }) cell l) l none

/-- Serve a lane in a resident owner's interior. -/
def serveLane (s : State) (o : CtxId) (d : BitVec 1024) (l : ActiveLane) : State :=
  let n := gElemSize d
  let a := partAddr s o d (l.elem * n)
  let old := readElem s a n
  let s1 := if l.scatter then writeElem s a n (gscatCombine (gType d) l.op old (l.value.toNat % 2 ^ (8 * n))) else s
  replyLane s1 l (some (BitVec.ofNat 64 old))

/-- The modules that a lane goes between, when it crosses. -/
def laneModules (l : ActiveLane) : Option (Nat × Nat) := l.away.map fun p => (p.fromModule, p.toModule)

/-- An earlier lane of the same requester to the same owner is still here. -/
def laneBehind (k : Cluster) (idx : Nat) (l : ActiveLane) : Bool :=
  (k.lanes.take idx).any fun e =>
    decide (e.from_ = l.from_) && e.ownerIndex == l.ownerIndex && decide (laneModules e = laneModules l) && e.root == l.root

/-- The slot of the resident owner is bound with the lane's part. -/
def laneSlot (s : State) (o : CtxId) (l : ActiveLane) : Option (BitVec 1024) :=
  let g := (getCtx s o).grid[l.slotNo]
  if g.part = some l.part then g.desc else none

/-- What becomes of a lane: served, rejected, moored, or left (none). -/
def laneOutcome (s : State) (l : ActiveLane) : Option State :=
  match launchAt s l.lslot with
  | none => some (replyLane (laneNotice s l.from_.cell l) l none)
  | some la =>
    match holderCtx la l.ownerIndex with
    | some o =>
      if (getCtx s o).state = .faulted then some (rejectLane s o.cell l)
      else (laneSlot s o l).map fun d => serveLane s o d l
    | none =>
      match (actorOf la l.ownerIndex).place with
      | .ended => some (rejectLane s ((actorOf la l.ownerIndex).home.getD l.owner.cell) l)
      | .evicted => moor s l.lslot l.ownerIndex (.lane l)
      | _ => none

/-- A lane of a peer's requester as it stands at its owner's agent here. -/
def peerLaneOf (p : PeerLane) : ActiveLane :=
  { from_ := { cell := 0, slot := 0 }, owner := { cell := 0, slot := 0 }, slotNo := p.slotNo, elem := p.elem, scatter := p.scatter,
    op := p.op.val, value := p.value, id := p.tag, lane := p.lane, lslot := p.lslot, asid := BitVec.ofNat 16 p.asid, root := p.root,
    msgid := p.msgid, ownerIndex := p.owner, part := p.part, away := some p }

/-- The lane's owner is on another module. -/
def goesAway (s : State) (l : ActiveLane) : Option PeerLane := l.away.filter fun p => p.toModule != ownModule s

def dropLane (s : State) (cl idx : Nat) : State := modCluster s cl fun k => { k with lanes := dropAt k.lanes idx }

/-- The member on a module has departed from the lane's gang (R404). -/
def ownerDeparted (s : State) (l : ActiveLane) (m : Nat) : Bool :=
  match (launchAt s l.lslot).bind (·.gang) with
  | some g => g.departed.any fun d => g.modules.getD d 0 == m
  | none => false

/-- What becomes of a lane that left for another module: its value, or (none) it is not served; of a departed owner no cell can send
the REJECT notice, and this hub makes it (DEDUCED, log 26). -/
def laneAnswered (s : State) (cl idx : Nat) (v : Option Word) : Option State :=
  match (getCluster s cl).lanes[idx]? with
  | none => none
  | some l =>
    match goesAway s l with
    | none => none
    | some p =>
      let gone := ownerDeparted s l p.toModule
      if laneBehind (getCluster s cl) idx l || (v.isSome && (gone || !moduleReachable s p.toModule)) then none
      else
        let s1 := dropLane s cl idx
        let s2 := if gone then laneNotice s1 l.from_.cell l else s1
        some (if l.scatter then s2 else answerLane s2 l (v.getD 0))

/-- GRID_ACTIVE_MESSAGE: a lane of this module in its turn, a peer's lane, or the answer of a peer's agent. -/
def laneMove (s : State) (cl : Nat) : LaneSrc → Option State
  | .peer p => if p.fromModule = ownModule s ∨ p.toModule ≠ ownModule s then none else laneOutcome s (peerLaneOf p)
  | .answered idx v => laneAnswered s cl idx (some v)
  | .unserved idx => laneAnswered s cl idx none
  | .own idx =>
    match (getCluster s cl).lanes[idx]? with
    | none => none
    | some l =>
      if laneBehind (getCluster s cl) idx l || (goesAway s l).isSome then none
      else (laneOutcome s l).map fun s1 => dropLane s1 cl idx

/-- GRID_ACTIVE_MESSAGE. -/
def execGridActiveMessage (cluster : Nat) (src : LaneSrc) (s : State) : Host.Outcome State Fault Refusal :=
  move (laneMove s cluster src) s

/-! ## Returning lanes -/

def isLane (lane : Nat) (p : Pending) : Bool :=
  match p.dest with
  | .lane _ _ n => n == lane
  | _ => false

/-- The lane's value is written, in a row that is written in this section (R233, R365). -/
def returnLane (s : State) (c : CtxId) (p : Pending) (v : Word) : Option State :=
  match p.dest with
  | .lane w n lane =>
    match rowOf s c w.val with
    | some q =>
      let s1 := frontRow s c { q with dirty := true, newValue := true }
      some (modCtx s1 c fun x =>
        { setLane x w n lane v.toNat with loads := x.loads.filter fun r => r.id != p.id })
    | none => none
  | _ => none

/-- GATHER_LANE_RETURN. -/
def gatherReturn (s : State) (c : CtxId) (lane : Nat) : Option State :=
  match (getCtx s c).loads.find? fun p => isLane lane p && p.value.isSome with
  | some p => returnLane s c p (p.value.getD 0)
  | none => none

/-- GATHER_LANE_RETURN. -/
def execGatherLaneReturn (c : CtxId) (lane : Nat) (s : State) : Host.Outcome State Fault Refusal := move (gatherReturn s c lane) s

end Sys2Proof.Machine
end

