-- ==== Sys2Proof/Machine/Placement.lean ====
section
/-! DEFINITION. Placement of groups (R100, R377 to R379): what a cluster has free, first fit, the served order, grants, and the setting
up of a group's actors. -/

namespace Sys2Proof.Machine

/-! ## What a cluster has free (R379) -/

/-- Free actor contexts of its four cells, free SCRATCH and FIFO bytes, free accumulators, and whether it holds no group. -/
structure Room where
  ctxs : List Nat
  scratch : Nat
  fifo : Nat
  accs : Nat
  empty : Bool

/-- Banks in a mode and not pending, with which grants are made (R77). -/
def settledBanks (k : Cluster) (mode : Nat) : List Nat :=
  (upFrom 0 16).filter fun b => bankMode k.modes b == mode && bankMode k.csmode b == mode

/-- The contexts that groups hold on a cluster, reserved ones among them. -/
def heldCtxs (s : State) (cl : Nat) : List CtxId := (groupsOn s cl).flatMap fun g => g.2.ctxs

/-- Groups for which a reservation only holds room on a cluster (R381). -/
def reservedOn (s : State) (cl : Nat) : List (Launch × Group) := (groupsOn s cl).filter fun g => isHeld s g.2

/-- LOCAL ranges granted on a cluster. -/
def grantedRanges (s : State) (cl : Nat) : List (Nat × Nat) :=
  (placedOn s cl).flatMap fun g =>
    (g.2.scratchOff, g.1.packet.scratch) :: g.2.ctxs.map fun c => ((getCtx s c).grants.frameOff, (getCtx s c).grants.frameSize)

/-- The bytes of a range that lie in a bank. -/
def bytesInBank (b : Nat) (r : Nat × Nat) : Nat := min (r.1 + r.2) ((b + 1) * 2 ^ 17) - max r.1 (b * 2 ^ 17)

/-- FIFO bytes of a group. -/
def groupFifo (l : Launch) : Nat := l.packet.actors * actorFifo l.packet l.mailboxes

/-- Free bytes of the settled FIFO banks: bank, bytes. -/
def fifoFree (s : State) (cl : Nat) : List (Nat × Nat) :=
  (settledBanks (getCluster s cl) 2).map fun b =>
    (b, 2 ^ 17 - ((placedOn s cl).map fun g => ((g.2.fifo.filter fun f => f.1 == b).map (·.2)).sum).sum)

/-- FIFO bytes for a group, from the lowest banks on (log 29). -/
def fifoTake : Nat → List (Nat × Nat) → List (Nat × Nat)
  | 0, _ => []
  | _, [] => []
  | need, (b, n) :: r => if n = 0 then fifoTake need r else (b, min need n) :: fifoTake (need - n) r

def roomOf (s : State) (cl : Nat) : Room :=
  let gs := groupsOn s cl
  let rs := reservedOn s cl
  let held := heldCtxs s cl
  let banks := settledBanks (getCluster s cl) 1
  let granted := (grantedRanges s cl).map fun r => (banks.map fun b => bytesInBank b r).sum
  { ctxs := (upFrom 0 4).map fun i => 16 - (held.filter fun c => c.cell == cl * 4 + i).length,
    scratch := banks.length * 2 ^ 17 - granted.sum - (rs.map fun g => groupScratch g.1.packet).sum,
    fifo := ((fifoFree s cl).map (·.2)).sum - (rs.map fun g => groupFifo g.1).sum,
    accs := 16 - (gs.map fun g => g.1.packet.actors * g.1.packet.accs).sum,
    empty := gs.isEmpty }

/-- The cluster's targets are not those that the launch's CSMODE asks for. -/
def needsSwitch (k : Cluster) (p : Packet) : Bool := p.csmode != 0 && newTargets k.csmode p.csmode != k.csmode

/-- Banks of the cluster are pending. -/
def banksPending (k : Cluster) : Bool := k.modes != k.csmode

/-- The room that a launch finds: an empty cluster that has to be switched, or is being switched, counts as switched. -/
def roomFor (s : State) (l : Launch) (cl : Nat) : Room :=
  let r := roomOf s cl
  if l.packet.csmode ≠ 0 && r.empty then
    let m := newTargets (getCluster s cl).csmode l.packet.csmode
    { r with scratch := codeCount m 1 * 2 ^ 17, fifo := codeCount m 2 * 2 ^ 17 }
  else r

/-- Members of a group on cell c of its cluster. -/
def membersOn (actors c : Nat) : Nat := (actors + 3 - c) / 4

def roomFits (l : Launch) (k : Cluster) (r : Room) : Bool :=
  let p := l.packet
  (upFrom 0 4).all (fun c => membersOn p.actors c ≤ r.ctxs.getD c 0) && groupScratch p ≤ r.scratch &&
  groupFifo l ≤ r.fifo && p.actors * p.accs ≤ r.accs && (r.empty || !needsSwitch k p)

def roomTake (l : Launch) (r : Room) : Room :=
  let p := l.packet
  { ctxs := (upFrom 0 4).map fun c => r.ctxs.getD c 0 - membersOn p.actors c, scratch := r.scratch - groupScratch p,
    fifo := r.fifo - groupFifo l, accs := r.accs - p.actors * p.accs, empty := false }

/-! ## First fit (R378) -/

/-- The rooms of a die's clusters in scan order: from one cluster after the previous placement. Marked-out clusters are left
out (R425). -/
def scanOrder (s : State) (die : Nat) : List Nat :=
  let start := match (getDie s die).prevCluster with | some c => (c + 1) % 128 | none => 0
  (upFrom 0 128).map fun i => die * 128 + (start + i) % 128

/-- The clusters whose banks move for a group that waits there (R379). -/
def awaited (s : State) : List Nat := s.hub.launches.filterMap fun l => l.2.moving.map (·.2)

def dieRooms (s : State) (l : Launch) (die : Nat) : List (Nat × Room) :=
  ((scanOrder s die).filter fun cl => !s.hub.outClusters.contains cl && !(awaited s).contains cl).map fun cl => (cl, roomFor s l cl)

/-- The clusters that a first-fit placement gives up to n groups; the scan goes on one cluster after each placement. -/
def firstFit (s : State) (l : Launch) : Nat → List (Nat × Room) → List Nat
  | 0, _ => []
  | n + 1, rooms =>
    match findAt (fun (r : Nat × Room) => roomFits l (getCluster s r.1) r.2) rooms with
    | none => []
    | some i =>
      match rooms.drop i with
      | [] => []
      | (cl, r) :: rest => cl :: firstFit s l n (rest ++ rooms.take i ++ [(cl, roomTake l r)])

/-- Groups that are still to be placed: saved ones of an evicted launch, else those not yet placed. -/
def groupsDue (l : Launch) : Nat := if l.evicted then l.savedGroups.length else l.packet.groups - l.nextGroup

/-- The clusters of the free count of a die (R377): at most 64. -/
def dieFit (s : State) (l : Launch) (die : Nat) : List Nat := firstFit s l (min 64 (groupsDue l)) (dieRooms s l die)

/-! ## The served order (R377, R382) -/

/-- The gang has groups on this module: a coordinator may lie outside its own table. -/
def inTable (g : Gang) : Bool := g.member < g.modules.length

/-- The gang is not placed: not yet committed, or evicted (R381, R386). -/
def gangDue (l : Launch) (g : Gang) : Bool := !g.committed || l.evicted

/-- Every member has answered yes; the coordinator's own commit is still to come. -/
def decided (g : Gang) : Bool := !g.asked && !g.answers.isEmpty

/-- The launch has groups that this dispatcher places, and is not being evicted or cancelled. A gang's are its coordinator's to
place. -/
def unplaced (l : Launch) : Bool :=
  !l.evicting && !l.cancelled && match l.gang with
    | some g => g.coordinator && gangDue l g
    | none => 0 < groupsDue l

/-- The launch may be served: of a gang, no attempt is under way, and none waits for another module (R381; log 71). -/
def awaits (l : Launch) : Bool :=
  unplaced l && match l.gang with
    | some g => !l.reserved && !g.asked && !g.blocked && !decided g
    | none => true

/-- Earlier EFFDL, then higher PRIO, then lower queue, then lower slot. -/
def servedBefore (a b : Nat × Launch) : Bool :=
  a.2.effdl.toNat < b.2.effdl.toNat || (a.2.effdl == b.2.effdl && (b.2.packet.prio < a.2.packet.prio ||
    (a.2.packet.prio == b.2.packet.prio && (a.2.queue < b.2.queue || (a.2.queue == b.2.queue && a.1 < b.1)))))

/-- The dies in rotation. -/
def dieOrder (s : State) : List Nat := (upFrom 0 4).map fun i => (s.hub.rotation + i) % 4

/-- The die that the next batch of the launch goes to, with the clusters of its free count. -/
def nextDie (s : State) (l : Launch) : Option (Nat × List Nat) :=
  (dieOrder s).findSome? fun d =>
    let f := dieFit s l d
    if f.isEmpty then none else some (d, f)

/-- Free counts for n groups at once, die by die in rotation (R381). -/
def fitAll (s : State) (l : Launch) : List Nat → Nat → Option (List Nat)
  | _, 0 => some []
  | [], _ => none
  | d :: r, n =>
    let f := (dieFit s l d).take n
    (fitAll s l r (n - f.length)).map (f ++ ·)

/-- No capacity for the launch now. -/
def cannotPlace (s : State) (l : Launch) : Bool :=
  match l.gang with
  | some g => inTable g && (fitAll s l (dieOrder s) (groupsDue l)).isNone
  | none => l.moving.isNone && (nextDie s l).isNone

/-- The launch is served: no launch before it could be placed. -/
def mayServe (s : State) (e : Nat × Launch) : Bool :=
  awaits e.2 && s.hub.launches.all fun o => !(awaits o.2 && servedBefore o e && !cannotPlace s o.2)

def isHeadServed (s : State) (e : Nat × Launch) : Bool := s.hub.launches.all fun o => !(unplaced o.2 && servedBefore o e)

/-! ## Grants (R379) -/

def rangesApart (a b : Nat × Nat) : Bool := a.2 == 0 || b.2 == 0 || a.1 + a.2 ≤ b.1 || b.1 + b.2 ≤ a.1

def allApart : List (Nat × Nat) → Bool
  | [] => true
  | r :: rest => rest.all (rangesApart r) && allApart rest

/-- The ranges of a choice. -/
def choiceRanges (p : Packet) (ch : PlaceChoice) : List (Nat × Nat) :=
  (ch.scratchOff, p.scratch) :: ch.frameOffs.map fun o => (o, p.frame * 64)

/-- A choice that R379 allows: aligned, in settled SCRATCH banks, apart from every other grant. -/
def choiceOk (s : State) (p : Packet) (cl : Nat) (ch : PlaceChoice) : Bool :=
  let k := getCluster s cl
  ch.scratchOff % 256 == 0 && ch.frameOffs.all (· % 64 == 0) && ch.frameOffs.length == p.actors &&
  (choiceRanges p ch).all (fun r => r.2 == 0 || (inScratchBanks k r.1 r.2 && inScratchBanks { k with modes := k.csmode } r.1 r.2)) &&
  allApart (choiceRanges p ch ++ grantedRanges s cl)

/-- The lowest free actor contexts for the members of a group (R378). -/
def pickCtxs (held : List CtxId) (cl : Nat) : Nat → Nat → List CtxId
  | _, 0 => []
  | m, n + 1 =>
    let cell := cl * 4 + m % 4
    let slot := ((upFrom 0 16).find? fun k => !held.contains ⟨cell, k⟩).getD 15
    let c : CtxId := ⟨cell, slot⟩
    c :: pickCtxs (c :: held) cl (m + 1) n

/-- Accumulators free on a cluster, lowest first. -/
def freeAccs (s : State) (cl : Nat) : List Nat :=
  let used := (heldCtxs s cl).flatMap fun c => (getCtx s c).grants.accs
  (upFrom 0 16).filter fun a => !used.contains a

def memberGrants (p : Packet) (ch : PlaceChoice) (accs : List Nat) (m : Nat) : Grants :=
  { frameOff := if p.frame = 0 then 0 else ch.frameOffs.getD m 0, frameSize := p.frame * 64,
    scratchOff := if p.scratch = 0 then 0 else ch.scratchOff, scratchSize := p.scratch,
    accs := (accs.drop (m * p.accs)).take p.accs, rings := p.rings }

/-! ## Setting up an actor (R100, R371) -/

def initNotice (s : State) (dest : BitVec 40) (args : Word) : StoredMsg :=
  { msg := mkNotice s dest 0 [args], arrival := s.dtc, counted := false }

def freshActor (s : State) (ls : Nat) (l : Launch) (ai : Nat) (g : Grants) (old : Ctx) : Ctx :=
  let root := ownAddr s ls ai
  { emptied old with
    regs := { Regs.zero with c := l.consts }, state := .ready, fstat := 0, grants := g, spawnlim := l.packet.spawnlim,
    ident := { lslot := BitVec.ofNat 8 ls, asid := l.packet.asid, root := root, gtid := 0, full := false },
    routines := l.routines, mailboxes := l.mailboxes, notices := [initNotice s root l.packet.args],
    wdogBudget := wdogCycles (some l) }

/-- An entry of a mooring queue that stands in place of a handler's effect is applied; what is left is mail (R367, R410). -/
def applyMoored (s : State) (c : CtxId) (e : Moored) : State × Option Moored :=
  match e with
  | .msg m => (s, some (.msg m))
  | .strip st =>
    match placeStrip s st with
    | some s1 => (s1, none)
    | none =>
      (modCluster s (clusterOf c.cell) fun k => { k with strips := k.strips ++ [{ strip := st, owner := c, held := some (128, 128) }] },
       none)
  | .lane la =>
    match laneOutcome s la with
    | some s1 => (s1, none)
    | none => (modCluster s (clusterOf c.cell) fun k => { k with lanes := k.lanes ++ [{ la with owner := c }] }, none)
  | .result dst data m =>
    ({ s with mem := writeLE s.mem (storeKey (ownModule s) (clusterOf c.cell) dst) 256 data.toNat }, some (.msg m))

def applyAll (c : CtxId) : List Moored → State → State × List Moored
  | [], s => (s, [])
  | e :: r, s =>
    let a := applyMoored s c e
    let b := applyAll c r a.1
    (b.1, match a.2 with | some m => m :: b.2 | none => b.2)

/-- A mooring queue replays (R100, R386); what its engine entries took of the chain is free. -/
def replayMoored (s : State) (ls ai : Nat) (c : CtxId) : State :=
  match launchAt s ls with
  | none => s
  | some l =>
    let a := actorOf l ai
    let r := applyAll c a.mooring s
    let d := chainDrop r.1 a.chain a.taken (a.mooring.length - r.2.length) r.2.length
    let s1 := modActor d.2.2 ls ai fun a => { a with mooring := r.2, taken := d.2.1, chain := d.1 }
    unmoorNotices s1 c r.2.length

/-- The actor stands in a context: its directory entry and the cell that answers for it. -/
def standAt (s : State) (ls ai : Nat) (c : CtxId) : State :=
  modActor s ls ai fun a => { a with place := .at c, home := some c.cell }

/-- A member's context and frame at its first placement. -/
def placeMember (s : State) (ls : Nat) (l : Launch) (ai : Nat) (c : CtxId) (g : Grants) : State :=
  let s1 := { s with mem := zeroRange s.mem (storeKey (ownModule s) (clusterOf c.cell) g.frameOff) g.frameSize }
  standAt (setCtx s1 c (freshActor s ls l ai g (getCtx s c))) ls ai c

/-- The launch's record of a group. -/
def listGroup (s : State) (ls gi cl off : Nat) (cs : List CtxId) (fifo : List (Nat × Nat)) : State :=
  modLaunch s ls fun l =>
    { l with groups := tput l.groups gi { cluster := cl, scratchOff := off, ctxs := cs, retired := false, fifo := fifo } }

/-- The dispatcher's previous placement is on this cluster. -/
def notePlaced (s : State) (cl : Nat) : State := modDie s (cl / 128) fun d => { d with prevCluster := some (cl % 128) }

/-- A group is placed for the first time: its scratch reads zero, its actors are set up, then their moored mail replays. -/
def setupGroup (s : State) (ls gi cl : Nat) (cs : List CtxId) (ch : PlaceChoice) : State :=
  match launchAt s ls with
  | none => s
  | some l =>
    let p := l.packet
    let accs := freeAccs s cl
    let off := if p.scratch = 0 then 0 else ch.scratchOff
    let fifo := fifoTake (groupFifo l) (fifoFree s cl)
    let s1 := listGroup { s with mem := zeroRange s.mem (storeKey (ownModule s) cl off) p.scratch } ls gi cl off cs fifo
    let ms := (upFrom 0 p.actors).zip cs
    let s2 := ms.foldl (fun s m => placeMember s ls l (gi * p.actors + m.1) m.2 (memberGrants p ch accs m.1)) s1
    let s3 := modLaunch s2 ls fun k =>
      { k with start := if k.nextGroup = 0 then s.dtc else k.start, nextGroup := max k.nextGroup (gi + 1) }
    ms.foldl (fun s m => replayMoored s ls (gi * p.actors + m.1) m.2) (notePlaced s3 cl)

/-- An empty cluster is switched to a launch's layout (R76, R379). -/
def switchCluster (s : State) (p : Packet) (cl : Nat) : State :=
  modCluster s cl fun k => { k with csmode := newTargets k.csmode p.csmode }

/-- A cluster that the launch waits for: still being switched. -/
def switching (s : State) (l : Launch) (cl : Nat) : Bool :=
  l.packet.csmode != 0 && (groupsOn s cl).isEmpty && banksPending (getCluster s cl)

/-- The group waits on a die and cluster until its banks have moved. -/
def awaitBanks (s : State) (ls : Nat) (l : Launch) (die cl : Nat) : State :=
  modLaunch (switchCluster s l.packet cl) ls fun k => { k with moving := some (die, cl) }

/-- Place groups one after another by `one`, which takes the cluster and the choice. The batch ends where a cluster has to be
switched first, and its next group waits there; nothing happens where a choice is not allowed. -/
def placeBatch (s : State) (ls : Nat) (l : Launch) (die : Nat) (one : State → Nat → PlaceChoice → State) :
    List (Nat × PlaceChoice) → Option State
  | [] => some s
  | (cl, ch) :: r =>
    if needsSwitch (getCluster s cl) l.packet || switching s l cl then some (awaitBanks s ls l die cl)
    else if choiceOk s l.packet cl ch then placeBatch (one s cl ch) ls l die one r
    else none

/-- The groups of a batch not yet placed take the next indices. -/
def placeNew (ls : Nat) (s : State) (cl : Nat) (ch : PlaceChoice) : State :=
  match launchAt s ls with
  | some l => setupGroup s ls l.nextGroup cl (pickCtxs (heldCtxs s cl) cl 0 l.packet.actors) ch
  | none => s

end Sys2Proof.Machine
end

