-- ==== Sys2Proof/Machine/Eviction.lean ====
section
/-! DEFINITION. Eviction (R300, R367, R382 to R384, R402) and re-placement (R301, R321, R341, R386), with the batches of placement that
start an eviction when there is no room (R377, R379). -/

namespace Sys2Proof.Machine

/-! ## Save records (Tables 15.7 and 15.8) -/

/-- A word of two 32-bit halves, the low one first. -/
def twoHalves (lo hi : Nat) : Word := BitVec.ofNat 64 (lo % 2 ^ 32 + hi * 2 ^ 32)

/-- 2,048 elements as words; an unlisted one is +0. -/
def elemWords (es : List Word32) : List Word :=
  (upFrom 0 1024).map fun i => twoHalves (es.getD (2 * i) 0).toNat (es.getD (2 * i + 1) 0).toNat

/-- The accumulator save record, with what a started MMAS on it adds. -/
def accRecord (a : Acc) (op : Option EmeOp) : List Word :=
  let work := match op with | some o => o.work | none => []
  let tsum := match op with | some o => o.tsum.toNat | none => 0
  let draws := match op with | some o => o.draws | none => []
  elemWords a.elems ++ [twoHalves a.var.toNat a.status.toNat, 0] ++ elemWords work ++ [twoHalves tsum draws.length, 0] ++
    (upFrom 0 256).map fun i =>
      match draws[i]? with
      | some d => twoHalves (d.1 + d.2.1 * 2 ^ 16) d.2.2.toNat
      | none => 0

/-- The command record. -/
def commandRecord (o : EmeOp) : List Word :=
  let flags := (if o.ran then 1 else 0) + (if o.followon then 2 else 0) + (if o.drawn then 4 else 0) + (if o.exactRun then 8 else 0)
  let sampled := decide (o.kind = .mmas)
  [twoHalves (setBits o.word 31 30 o.prio).toNat (o.k % 4096), if sampled then o.samp else 0, if sampled then o.seed else 0,
   if sampled then o.tcoord else 0, twoHalves o.actid.toNat (min 3 (o.wait / 4096) + flags * 2 ^ 16),
   twoHalves o.kpos (o.pc.toNat % 2 ^ 32), 0, 0]

/-- Operations in their issue order. -/
def insertOp (o : EmeOp) : List EmeOp → List EmeOp
  | [] => [o]
  | p :: r => if o.id ≤ p.id then o :: p :: r else p :: insertOp o r

/-- The records of the saved contexts of a group: the granted accumulators, then the operations in issue order (R300). -/
def groupRecords (vs : List SavedCtx) : List Word :=
  let started := fun (v : SavedCtx) (i : Nat) => v.ops.find? fun o => decide (o.kind = .mmas) && o.accRel == i && o.ran
  (vs.flatMap fun v => ((upFrom 0 v.accs.length).zip v.accs).flatMap fun a => accRecord a.2 (started v a.1)) ++
    ((vs.flatMap (·.ops)).foldr insertOp []).flatMap commandRecord

/-- Words written to a chain of blocks from a byte position on; no rule says where in the pool the records stand (log 65). -/
def chainWrite (s : State) (chain : List Nat) (pos : Nat) : List Word → State
  | [] => s
  | w :: r =>
    match chain[pos / 65536]? with
    | some b => chainWrite (poolWrite s (blockPa s b + pos % 65536) [w]) chain (pos + 8) r
    | none => s

/-! ## The start of an eviction (R382) -/

/-- A launch holds groups here. -/
def isResident (l : Launch) : Bool := !l.reserved && l.groups.any fun g => !g.2.retired

/-- Later EFFDL, then lower PRIO, then higher slot. -/
def betterVictim (a b : Nat × Launch) : Bool :=
  b.2.effdl.toNat < a.2.effdl.toNat || (a.2.effdl == b.2.effdl && (a.2.packet.prio < b.2.packet.prio ||
    (a.2.packet.prio == b.2.packet.prio && b.1 < a.1)))

def victim (s : State) (l : Launch) : Option (Nat × Launch) :=
  s.hub.launches.foldl (fun best o =>
    if isResident o.2 && !o.2.evicting && !o.2.cancelled && l.effdl.toNat < o.2.effdl.toNat then
      match best with
      | some b => if betterVictim o b then some o else best
      | none => some o
    else best) none

/-- The most bytes that the records of a launch's groups here can take: the queue of an EME holds 32 operations (R290). -/
def recordBytes (l : Launch) : Nat :=
  ((l.groups.filter fun g => !g.2.retired).map fun _ => l.packet.actors * l.packet.accs * 18464 + 32 * 64).sum

/-- A launch's eviction begins with blocks of the pool for all that is to be saved; none while the pool has not as many (R383). -/
def beginEviction (s : State) (ls : Nat) (l : Launch) : Option State :=
  let need := recordBytes l / 65536 + 1 + (Config.saveBlocks s.freeCtr).toNat
  (poolTake s need).map fun p =>
    bumpFree (modLaunch p.2 ls fun x =>
      { x with evicting := true, evictions := x.evictions + 1, saveBlocks := x.saveBlocks + need, saveChain := p.1, moving := none })

/-- EVICTION_START: one victim at a time; a gang's other members are asked to evict it too. -/
def startEviction (s : State) (l : Launch) : Option State :=
  if s.hub.launches.any (·.2.evicting) then none
  else
    match victim s l with
    | none => none
    | some (v, x) =>
      (beginEviction s v x).map fun t =>
        match x.gang with
        | some g => tellGang t g (.evict x.packet.gangid)
        | none => t

/-- What follows when a launch has no room: an eviction, if it is the head of the served order. -/
def wantRoom (s : State) (e : Nat × Launch) : Option State := if isHeadServed s e then startEviction s e.2 else none

/-! ## Batches (R377, R379) -/

/-- The die and cluster whose banks a group waits for, unless the cluster has been marked out since. -/
def waitsAt (s : State) (l : Launch) : Option (Nat × Nat) := l.moving.filter fun m => !s.hub.outClusters.contains m.2

/-- A batch goes to the die whose turn it is; a group that waits for the banks of its cluster goes there. -/
def batchMove (s : State) (ls : Nat) (l : Launch) (die : Nat) (choices : List PlaceChoice)
    (one : State → Nat → PlaceChoice → State) : Option State :=
  match waitsAt s l with
  | some (d, cl) =>
    if d ≠ die || !unplaced l || switching s l cl || choices.length ≠ 1 then none
    else placeBatch (modLaunch s ls fun k => { k with moving := none }) ls l die one ([cl].zip choices)
  | none =>
    if !mayServe s (ls, l) then none
    else
      match nextDie s l with
      | none => wantRoom s (ls, l)
      | some (d, f) =>
        if d ≠ die || choices.isEmpty || f.length < choices.length then none
        else (placeBatch s ls l die one (f.zip choices)).map fun t => modHub t fun h => { h with rotation := (die + 1) % 4 }

/-! ## Contexts stop (R383) -/

/-- Operations and transfers that belong to a context's actor. -/
def opOf (c : CtxId) (x : Ctx) (o : EmeOp) : Bool := decide (o.owner = c) && o.actid.toNat == actidOf x.ident.root
def xferOf (c : CtxId) (x : Ctx) (t : Transfer) : Bool := decide (t.ctx = c) && decide (t.ident = x.ident)

/-- Operations that MQDRAIN has removed from the array leave at the boundary at which the eviction stops them (R319). -/
def dropDrained (s : State) (c : CtxId) : State :=
  let cl := clusterOf c.cell
  dropOps s cl ((getCluster s cl).eme.filter fun o => o.stop && opOf c (getCtx s c) o)

/-- What is saved of a context, its engine work taken from the engines. `rest_` is the state it goes on in. -/
def saveCtx (s : State) (c : CtxId) (group member : Nat) (rest_ : RunState) : SavedCtx :=
  let x := getCtx s c
  let k := getCluster s (clusterOf c.cell)
  { group := group, member := member, ctx := { x with state := rest_ },
    frame := readBytes s.mem (storeKey (ownModule s) (clusterOf c.cell) x.grants.frameOff) x.grants.frameSize,
    accs := x.grants.accs.map fun a => tget k.accs Acc.zero a, ops := k.eme.filter (opOf c x),
    transfers := k.transfers.filter (xferOf c x) }

/-- The engines no longer hold the context's work. -/
def clearEngines (s : State) (c : CtxId) : State :=
  let x := getCtx s c
  modCluster s (clusterOf c.cell) fun k =>
    let gone := fun n => k.eme.any fun o => o.id == n && opOf c x o
    { k with eme := k.eme.filter fun o => !opOf c x o, transfers := k.transfers.filter fun t => !xferOf c x t,
             running := match k.running with | some n => if gone n then none else some n | none => none }

/-- The context may stop: no handler of it runs. -/
def stoppable (x : Ctx) : Bool := decide (x.state = .idle) || decide (x.state = .ready) || decide (x.state = .faulted)

/-- An actor of the launch that has stopped is saved and becomes EVICTED. -/
def evictContext (s : State) (c : CtxId) : Option State :=
  let x := getCtx s c
  let ls := x.ident.lslot.toNat
  match launchAt s ls with
  | none => none
  | some l =>
    if !l.evicting || isStrand c || !stoppable x then none
    else
      let ai := aindexOf (actidOf x.ident.root)
      let a := max 1 l.packet.actors
      let s0 := dropDrained s c
      let sv := saveCtx s0 c (ai / a) (ai % a) (if x.state = .faulted then .faulted else .idle)
      let s1 := modCtx (clearEngines s0 c) c fun y => { y with state := .evicted }
      let s2 := modLaunch s1 ls fun l => { l with saved := l.saved ++ [sv] }
      some (modActor s2 ls ai fun a => { a with place := .evicted })

/-- Another module's dispatcher evicts a gang of this module (R382). -/
def evictGang (s : State) (ls : Nat) : Option State :=
  match launchAt s ls with
  | none => none
  | some l =>
    match l.gang with
    | none => none
    | some g => if !g.committed || l.reserved || l.evicting || l.evicted || l.cancelled then none else beginEviction s ls l

/-- CONTEXT_EVICTION. -/
def execContextEviction (src : EvictSrc) (s : State) : Host.Outcome State Fault Refusal :=
  match src with
  | .ctx c => move (evictContext s c) s
  | .request lslot => move (evictGang s lslot) s

/-! ## The shared save (R383, R367, R402) -/

/-- A word lies in the share of another member of the gang (R400). -/
def inPeerShare (g : Gang) (a : Nat) : Bool :=
  (g.modules.zip g.slots).any fun p => a / 2 ^ 21 == shareKey p.1 p.2 0 / 2 ^ 21

/-- A window request of this member is under way (R402). -/
def shareUnderWay (s : State) (g : Gang) : Bool :=
  s.cells.any (fun k => k.2.regq.any fun e => inPeerShare g e.store.addr) ||
  s.gwq.any fun q => q.2.any fun e => match e with
    | .share r => inPeerShare g r.addr
    | .shareReply r _ => inPeerShare g r.addr
    | _ => false

/-- Every context of the launch here has stopped, and no window request of it is under way. -/
def launchStopped (s : State) (ls : Nat) (l : Launch) : Bool :=
  l.groups.all (fun g => g.2.retired || g.2.ctxs.all fun c =>
    decide ((getCtx s c).state = .evicted) || decide ((getCtx s c).state = .ended)) &&
  !s.ctxs.any (fun p => 16 ≤ p.1 % 32 && decide (p.2.state = .running) && p.2.ident.lslot.toNat == ls) &&
  !(l.gang.any (shareUnderWay s))

/-- A CACHE bank gives up its lines at once; `n` bounds them. -/
def emptyBank (s : State) (cl bank : Nat) : Nat → State
  | 0 => s
  | n + 1 =>
    match bankLine (getCluster s cl) bank with
    | some l => emptyBank (emptyLine s cl bank l.1 l.2) cl bank n
    | none => s

/-- A cluster that holds no group returns to the default layout (R75). -/
def defaultBank (cl : Nat) (s : State) (b : Nat) : State :=
  let k := getCluster s cl
  let s1 := if bankMode k.modes b = 0 && bankMode 0xAA555500 b ≠ 0 then emptyBank s cl b k.dcache.length else s
  setBank s1 cl b (bankMode 0xAA555500 b)

def defaultLayout (s : State) (cl : Nat) : State :=
  if (groupsOn s cl).isEmpty then
    (upFrom 0 16).foldl (defaultBank cl) (modCluster s cl fun k => { k with csmode := 0xAA555500 })
  else s

/-- The saved contexts of a group as they stand at the shared save: ENDED actors join, bindings and parities are taken now. -/
def settleSaved (s : State) (gi : Nat) (g : Group) (saved : List SavedCtx) : List SavedCtx :=
  ((upFrom 0 g.ctxs.length).zip g.ctxs).foldl (fun sv m =>
    if sv.any (fun v => v.group == gi && v.member == m.1) then
      sv.map fun v => if v.group = gi && v.member = m.1 then { v with ctx := { v.ctx with grid := (getCtx s m.2).grid } } else v
    else sv ++ [saveCtx s m.2 gi m.1 .ended]) saved

/-- The barriers of a group. -/
def isGroupBarrier (ls gi : Nat) (k : Nat) : Bool := k / 16 == groupBarrierKey ls gi 0 / 16

/-- The cluster forgets a group's barriers: a later group starts at generation 0 (R129). -/
def dropBarriers (s : State) (cl ls gi : Nat) : State :=
  modCluster s cl fun k => { k with barriers := k.barriers.filter fun b => !isGroupBarrier ls gi b.1 }

/-- The strips that the agent holds for the owners of a group, by member. -/
def groupStrips (k : Cluster) (g : Group) : List (Nat × HeldStrip) :=
  k.strips.filterMap fun h => (findAt (fun c => decide (c = h.owner)) g.ctxs).map fun m => (m, h)

/-- Bytes of the records that the groups saved so far take. -/
def savedBytes (l : Launch) : Nat :=
  (l.savedGroups.map fun g => 8 * (groupRecords (l.saved.filter fun v => v.group == g.group)).length).sum

/-- One group's shared state and its records are saved, and its resources are freed. -/
def saveGroup (ls : Nat) (s9 : State) (e : Nat × Group) : State :=
  let g := e.2
  let s := g.ctxs.foldl dropDrained s9
  match launchAt s ls with
  | none => s
  | some l =>
    let k := getCluster s g.cluster
    let saved := settleSaved s e.1 g l.saved
    let sg : SavedGroup :=
      { group := e.1, scratch := readBytes s.mem (storeKey (ownModule s) g.cluster g.scratchOff) l.packet.scratch,
        strips := groupStrips k g, barriers := k.barriers.filter fun b => isGroupBarrier ls e.1 b.1 }
    let s0 := chainWrite s l.saveChain (savedBytes l) (groupRecords (saved.filter fun v => v.group == e.1))
    let s1 := modLaunch s0 ls fun l =>
      { l with saved := saved, savedGroups := l.savedGroups ++ [sg], groups := tdel l.groups e.1 }
    let s2 := g.ctxs.foldl (fun s c => freeSlot (clearEngines s c) c) s1
    let s3 := modCluster s2 g.cluster fun k => { k with strips := k.strips.filter fun h => !g.ctxs.contains h.owner }
    defaultLayout (dropBarriers s3 g.cluster ls e.1) g.cluster

/-- Strands go to their launch's mooring queue in their order; none when the pool has no room. -/
def moorAll : List StrandMsg → State → Option State
  | [], s => some s
  | m :: r, s => (moorStrand s m).bind (moorAll r)

/-- The launch's strands in a cell's return entries and arrival queue, faulted ones apart (R112). -/
def queuedStrands (s : State) (ls cell : Nat) : List StrandMsg :=
  let k := getCell s cell
  (k.returns.filter fun m => !m.faulted && strandLslot s m.msg == ls) ++ k.arrivals.filter fun m => strandLslot s m.msg == ls

def dropQueued (s : State) (ls cell : Nat) : State :=
  modCell s cell fun k =>
    { k with returns := k.returns.filter fun m => m.faulted || strandLslot s m.msg != ls,
             arrivals := k.arrivals.filter fun m => strandLslot s m.msg != ls }

/-- A cell's queued strands are moored, also those of slots that then find a return entry (R112, R384). -/
def moorCell (s : State) (ls cell : Nat) : Nat → Option State
  | 0 => some s
  | n + 1 =>
    (moorAll (queuedStrands s ls cell) (dropQueued s ls cell)).bind fun s1 =>
      if (getCell s1 cell).returnWait.isEmpty then some s1 else moorCell (takeReturnWait s1 cell) ls cell n

def moorCells (ls : Nat) : List Nat → State → Option State
  | [], s => some s
  | c :: r, s => (moorCell s ls c ((getCell s c).returnWait.length + 1)).bind (moorCells ls r)

/-- The strands of the launch's overflow ring. -/
def ringStrands (s : State) (ls : Nat) : List StrandMsg :=
  match launchAt s ls with
  | some l => l.sov.filterMap fun e => (sovRead s l e).map (·.1)
  | none => []

/-- Queued and then overflowed strands go to the launch's strand mooring queue; other launches' overflowed strands take the places that
become free (R124, R384). -/
def moorStrands (s : State) (ls : Nat) : Option State :=
  let cells := s.cells.map (·.1)
  (moorCells ls cells s).bind fun s1 =>
    (moorAll (ringStrands s1 ls) s1).map fun s2 => cells.foldl refillStrands (modLaunch s2 ls fun l => { l with sov := [] })

/-- A launch or group has retired or been evicted: coordinators elsewhere that wait for it are told, and a gang of this coordinator may
try again (R381). -/
def tellFreed (s : State) : State :=
  let s1 := s.hub.gangWaits.foldl (fun s w => sendCtl s w.1 (.answer w.2.1 w.2.2 .freed)) s
  modHub s1 fun h =>
    { h with gangWaits := [],
             launches := h.launches.map fun l => (l.1, { l.2 with gang := l.2.gang.map fun g => { g with blocked := g.blocked && !inTable g } }) }

/-- Every other member that takes part has stopped. -/
def othersStopped (g : Gang) (stopped : List Nat) : Bool :=
  (upFrom 0 g.modules.length).all fun m => m == g.member || g.departed.contains m || stopped.contains m

/-- The launch's groups here are saved and freed. -/
def saveLaunch (s : State) (ls : Nat) : Option State :=
  (moorStrands s ls).bind fun s1 =>
    (launchAt s1 ls).map fun l =>
      let s2 := (l.groups.filter fun g => !g.2.retired).foldl (saveGroup ls) s1
      tellFreed (modLaunch s2 ls fun l =>
        { l with evicting := false, evicted := true,
                 gang := l.gang.map fun g => { g with told := false, asked := false, answers := [] } })

/-- The other modules of a gang are told once that this member has stopped. -/
def tellStopped (s : State) (ls : Nat) (l : Launch) (g : Gang) : Option State :=
  if g.told then none
  else
    some (modLaunch (tellGang s g (.stopped l.packet.gangid g.member)) ls fun l => { l with gang := some { g with told := true } })

/-- EVICTION_SHARED_SAVE; `stopped` are the other members that have said that they have stopped. -/
def sharedSave (s : State) (ls : Nat) (stopped : List Nat) : Option State :=
  match launchAt s ls with
  | none => none
  | some l =>
    if !l.evicting || !launchStopped s ls l then none
    else
      match l.gang with
      | none => saveLaunch s ls
      | some g =>
        if othersStopped g stopped then saveLaunch ((tellStopped s ls l g).getD s) ls else tellStopped s ls l g

/-- EVICTION_SHARED_SAVE. -/
def execEvictionSharedSave (lslot : Nat) (stopped : List Nat) (s : State) : Host.Outcome State Fault Refusal :=
  move (sharedSave s lslot stopped) s

/-! ## Re-placement (R301, R321, R341, R367, R386) -/

/-- How a group's saved operation numbers move: from a lowest one to those of the cluster it returns to, so that every number keeps its
distance from every other. -/
structure Renumber where
  lo : Nat
  base : Nat

def renumber (r : Renumber) (n : Nat) : Nat := r.base + n - r.lo

/-- The operation numbers that a saved context names: of operations, of reservations, and from which on a fault drops. -/
def namedOps (v : SavedCtx) : List Nat :=
  v.ops.map (·.id) ++ (v.ctx.rings.toList.flatMap fun r => r.reservations.map (·.opId)) ++ v.accs.map (·.faultAt)

/-- The lowest number of operations and reservations; faults may name lower ones, which no operation has. -/
def lowestOp (vs : List SavedCtx) : Nat :=
  let ns := vs.flatMap fun v => v.ops.map (·.id) ++ v.ctx.rings.toList.flatMap fun r => r.reservations.map (·.opId)
  ns.foldl min (ns.headD 0)

/-- The next number of the cluster once the group's are taken. -/
def nextAfter (r : Renumber) (vs : List SavedCtx) : Nat :=
  ((vs.flatMap namedOps).map fun n => renumber r n + 1).foldl max r.base

/-- A ring with its reservations under the new numbers. -/
def renumberRing (n : Renumber) (r : Ring) : Ring :=
  { r with reservations := r.reservations.map fun v => { v with opId := renumber n v.opId } }

/-- The command record holds the wait in units of 4,096 cycles, saturating at 3 (Table 15.8). -/
def restoredWait (n : Nat) : Nat := min 3 (n / 4096) * 4096

/-- One member's context, frame, accumulators and transfers are restored. -/
def restoreMember (s : State) (ls : Nat) (l : Launch) (v : SavedCtx) (c : CtxId) (g : Grants) (n : Renumber) : State :=
  let cl := clusterOf c.cell
  let x := { v.ctx with grants := g, nextId := max v.ctx.nextId (getCtx s c).nextId, rings := vmap v.ctx.rings (renumberRing n) }
  let y := if x.state = .idle then rest x else x
  let s1 := { setCtx s c y with mem := writeBytes s.mem (storeKey (ownModule s) cl g.frameOff) v.frame }
  let s2 := modCluster s1 cl fun k =>
    { k with accs := (g.accs.zip v.accs).foldl (fun t a => tput t a.1 { a.2 with faultAt := renumber n a.2.faultAt }) k.accs,
             transfers := k.transfers ++ v.transfers.map fun t => { t with ctx := c } }
  let s3 := modLaunch s2 ls fun l => { l with movedTids := l.movedTids ++ v.transfers.map (·.tid) }
  if y.state = .ended then s3 else standAt s3 ls (v.group * l.packet.actors + v.member) c

/-- The saved operations of a group re-enter the queue in their order, under their new owner and accumulators. -/
def restoredOps (vs : List (SavedCtx × CtxId × Grants)) (n : Renumber) : List EmeOp :=
  let ops := vs.flatMap fun v => v.1.ops.map fun o =>
    { o with id := renumber n o.id, owner := v.2.1, acc := v.2.2.accs.getD o.accRel o.acc, wait := restoredWait o.wait }
  ops.foldr insertOp []

/-- A RESUME notice, if its class is bound, behind what was replayed (R386). -/
def resumeNotice (s : State) (ls ai : Nat) (c : CtxId) : State :=
  let x := getCtx s c
  if bit x.routines[1] 0 && x.state ≠ .ended then
    let dest := ownAddr s ls ai
    match deliverNotice s { dest := dest, asid := x.ident.asid, msg := mkNotice s dest 1 [], cell := c.cell, held := none, die := none } with
    | some t => t
    | none => postNotice s dest x.ident.asid c.cell (mkNotice s dest 1 [])
  else s

/-- Strips of a saved group under their owners' new contexts, to be sent again in their order (R367). -/
def restoredStrips (sg : SavedGroup) (cs : List CtxId) : List HeldStrip :=
  sg.strips.map fun h => { h.2 with held := none, owner := cs.getD h.1 h.2.owner }

/-- A saved group is placed anew on a cluster, in contexts that stand free or are held for it. -/
def restoreGroup (s : State) (ls : Nat) (sg : SavedGroup) (cl : Nat) (cs : List CtxId) (ch : PlaceChoice) : State :=
  match launchAt s ls with
  | none => s
  | some l =>
    let p := l.packet
    let accs := freeAccs s cl
    let off := if p.scratch = 0 then 0 else ch.scratchOff
    let vs := l.saved.filterMap fun v =>
      if v.group = sg.group then (cs[v.member]?).map fun c => (v, c, memberGrants p ch accs v.member) else none
    let n : Renumber := { lo := lowestOp (vs.map (·.1)), base := (getCluster s cl).nextOp }
    let fifo := fifoTake (groupFifo l) (fifoFree s cl)
    let s1 := listGroup { s with mem := writeBytes s.mem (storeKey (ownModule s) cl off) sg.scratch } ls sg.group cl off cs fifo
    let s2 := modLaunch s1 ls fun l =>
      { l with saved := l.saved.filter fun v => v.group != sg.group,
               savedGroups := l.savedGroups.filter fun g => g.group != sg.group }
    let s3 := vs.foldl (fun s v => restoreMember s ls l v.1 v.2.1 v.2.2 n) s2
    let s4 := modCluster s3 cl fun k =>
      { k with eme := k.eme ++ restoredOps vs n, nextOp := nextAfter n (vs.map (·.1)),
               strips := k.strips ++ restoredStrips sg cs,
               barriers := sg.barriers.foldl (fun t b => tput t b.1 b.2) k.barriers }
    let owners := vs.map fun v => (v.1, v.2.1)
    let s5 := owners.foldl (fun s o => replayMoored s ls (sg.group * p.actors + o.1.member) o.2) (notePlaced s4 cl)
    owners.foldl (fun s o => resumeNotice s ls (sg.group * p.actors + o.1.member) o.2) s5

/-- When the last saved group is back, the launch is no longer evicted: its blocks return and its strands replay. -/
def endEviction (s : State) (ls : Nat) : State :=
  match launchAt s ls with
  | none => s
  | some l =>
    if l.savedGroups.isEmpty then
      let s1 := poolGive (modLaunch s ls fun l => { l with evicted := false, saveBlocks := 0, saveChain := [] }) l.saveChain
      replayStrandsOf s1 ls l.strandMooring.length
    else s

/-- The saved groups of a batch go back in their order. -/
def placeSaved (ls : Nat) (s : State) (cl : Nat) (ch : PlaceChoice) : State :=
  match launchAt s ls with
  | some l =>
    match l.savedGroups with
    | sg :: _ => restoreGroup s ls sg cl (pickCtxs (heldCtxs s cl) cl 0 l.packet.actors) ch
    | [] => s
  | none => s

end Sys2Proof.Machine
end

