-- ==== Sys2Proof/Machine/Gang.lean ====
section
/-! DEFINITION. Gangs (R381, R386), the placement moves of launches and gangs (R377, R386), retirement (R24, R25, R75, R372) and
cancellation (R388). -/

namespace Sys2Proof.Machine

/-! ## Reservations (R381) -/

/-- The indices of the groups that a launch has still to place here. -/
def dueGroups (l : Launch) : List Nat :=
  if l.evicted then l.savedGroups.map (·.group) else upFrom l.nextGroup (l.packet.groups - l.nextGroup)

/-- Hold the capacity of a group: its contexts, and the switch of an empty cluster that needs one. -/
def holdGroup (ls : Nat) (s : State) (e : Nat × Nat) : State :=
  match launchAt s ls with
  | some l =>
    let s1 := if needsSwitch (getCluster s e.2) l.packet then switchCluster s l.packet e.2 else s
    listGroup s1 ls e.1 e.2 0 (pickCtxs (heldCtxs s e.2) e.2 0 l.packet.actors) []
  | none => s

def holdGroups (s : State) (ls : Nat) (l : Launch) : Option State :=
  (fitAll s l (dieOrder s) (groupsDue l)).map fun f =>
    modLaunch (((dueGroups l).zip f).foldl (holdGroup ls) s) ls fun l => { l with reserved := true }

/-- The groups that a reservation holds, by index. -/
def heldGroups (l : Launch) : List (Nat × Group) := l.groups.filter fun g => !g.2.retired

/-- What was held is free again. -/
def dropHeld (s : State) (ls : Nat) : State :=
  match launchAt s ls with
  | some l =>
    if l.reserved then
      (heldGroups l).foldl (fun s g => defaultLayout s g.2.cluster)
        (modLaunch s ls fun l => { l with reserved := false, groups := l.groups.filter fun g => g.2.retired })
    else s
  | none => s

/-! ## What a reserve request carries -/

/-- A packet as its 16 words (Table 20.1). -/
def packetWords (p : Packet) : List Word :=
  let pack := fun (fs : List (Nat × Nat)) => BitVec.ofNat 64 (fs.map fun f => f.1 * 2 ^ f.2).sum
  [pack [(p.asid.toNat, 0), (p.prio, 16), (p.flags.toNat, 24), (p.actors, 32), (p.accs, 40), (p.rings, 48)],
   p.deadline, p.codebase, p.rtab, p.const, p.args, pack [(p.groups, 0), (p.frame, 32), (p.wdog, 48)],
   pack [(p.scratch, 0), (p.spawnlim.toNat, 32), (p.sovlog, 48), (p.waitn, 56)], pack [(p.csmode.toNat, 0), (p.gangid, 32)],
   pack [(p.gangn, 0), (p.kshare, 16)], p.gangtab, p.mbdecl, p.spill, p.waittab, p.compl, p.sovbase]

/-- A mailbox declaration as its two words (Table 5.6). -/
def boxWords (b : Mailbox) : List Word :=
  [BitVec.ofNat 64 (b.cls + b.typ.toNat * 2 ^ 8 + (b.cap - 1) * 2 ^ 16 + (if b.valid then 2 ^ 24 else 0) + b.ovflog * 2 ^ 32), b.ovfbase]

/-- The request to a member: packet, declarations, routine table, constant image, EFFDL and gang table (log 71). -/
def gangRequest (s : State) (l : Launch) (g : Gang) (m : Nat) : GangRequest :=
  { coordinator := ownModule s, gangId := l.packet.gangid, asid := l.packet.asid.toNat, member := m, groups := l.packet.groups,
    packet := packetWords l.packet ++ l.mailboxes.toList.flatMap boxWords ++ l.routines.toList ++ l.consts.toList ++ [l.effdl] ++
      (upFrom 0 ((g.modules.length + 1) / 2)).map fun i => twoHalves (g.modules.getD (2 * i) 0) (g.modules.getD (2 * i + 1) 0) }

/-- The launch that a reserve request describes. -/
def requestLaunch (s : State) (slot : Nat) (req : GangRequest) : Launch :=
  let ws := req.packet
  let p := { parsePacket (ws.take 16) with asid := BitVec.ofNat 16 req.asid }
  let t : Tables :=
    { boxes := parseBoxes ((ws.drop 16).take 16), routines := vecOfList 64 0 ((ws.drop 32).take 64),
      consts := vecOfList 64 0 ((ws.drop 96).take 64),
      members := (upFrom 0 p.gangn).map fun i => bits (ws.getD (161 + i / 2) 0) (32 * (i % 2) + 7) (32 * (i % 2)) }
  let l := newLaunch s slot 64 p t s.dtc (ws.getD 160 0) false
  { l with gang := some { newGang s slot t.members false with member := req.member, chief := req.coordinator } }

/-- A request that names a gang of this module under its own packet. -/
def requestOk (s : State) (req : GangRequest) : Bool :=
  let p := parsePacket (req.packet.take 16)
  let l := requestLaunch s 0 req
  isGang p && p.gangid == req.gangId && p.groups == req.groups &&
  match l.gang with
  | some g => (g.modules[req.member]?) == some (ownModule s)
  | none => false

/-- A no: the coordinator is told, and told again at the next retirement or eviction here. -/
def answerNo (s : State) (req : GangRequest) : State :=
  modHub (sendCtl s req.coordinator (.answer req.gangId req.member .no)) fun h =>
    { h with gangWaits := h.gangWaits ++ [(req.coordinator, req.gangId, req.member)] }

/-- A member holds the capacity of all groups under a slot and answers yes; else it holds nothing and answers no. -/
def tryReserve (s0 s : State) (ls : Nat) (l : Launch) (req : GangRequest) : State :=
  match holdGroups s ls l with
  | some t => sendCtl t req.coordinator (.answer req.gangId req.member (.yes ls))
  | none => answerNo s0 req

/-- The launch of a gang that this module holds already. -/
def gangLaunch (s : State) (req : GangRequest) : Option (Nat × Launch) :=
  s.hub.launches.find? fun l => l.2.gang.isSome && l.2.packet.gangid == req.gangId && l.2.packet.asid.toNat == req.asid

/-- GANG_RESERVE: under a free slot, or, of an evicted gang, under the slot that it has kept (R386). -/
def reserveMove (s : State) (req : GangRequest) : Option State :=
  if !requestOk s req then none
  else
    match gangLaunch s req with
    | some (n, l) => some (if l.evicted && !l.reserved && !l.cancelled then tryReserve s s n l req else answerNo s req)
    | none =>
      match freeLaunchSlot s with
      | none => some (answerNo s req)
      | some n =>
        let l := requestLaunch s n req
        some (tryReserve s (modHub s fun h => { h with launches := tput h.launches n l }) n l req)

/-- GANG_RESERVE. -/
def execGangReserve (req : GangRequest) (s : State) : Host.Outcome State Fault Refusal := move (reserveMove s req) s

/-! ## The coordinator (R381) -/

/-- Members other than the coordinator's own that have not departed. -/
def otherMembers (g : Gang) : List Nat := (upFrom 0 g.modules.length).filter fun m => m != g.member && !g.departed.contains m

/-- What every other member's dispatcher is told. -/
def tellMembers (s : State) (g : Gang) (w : Nat → CtlMsg) : State :=
  (otherMembers g).foldl (fun s m => sendCtl s (g.modules.getD m 0) (w m)) s

/-- Once every member has answered, the coordinator commits, or abandons and frees what it held. -/
def decideGang (s : State) (ls : Nat) : State :=
  match launchAt s ls with
  | some l =>
    match l.gang with
    | some g =>
      if (upFrom 0 g.modules.length).all fun m => g.departed.contains m || g.answers.any fun a => a.1 == m then
        if g.answers.all (·.2) then
          tellMembers (modLaunch s ls fun l => { l with gang := some { g with committed := true, asked := false } }) g fun _ =>
            .commit l.packet.gangid g.slots
        else
          tellMembers (modLaunch (dropHeld s ls) ls fun l =>
            { l with gang := some { g with answers := [], asked := false, blocked := true } }) g fun _ => .abandon l.packet.gangid
      else s
    | none => s
  | none => s

/-- An attempt of a gang whose turn it is: the coordinator holds its own groups and asks the other members; without room it may
evict. -/
def askGang (s : State) (ls : Nat) (l : Launch) (g : Gang) : Option State :=
  if !mayServe s (ls, l) then none
  else
    let held := if inTable g then holdGroups s ls l else some s
    match held with
    | none => wantRoom s (ls, l)
    | some s1 =>
      let own := if inTable g then [(g.member, true)] else []
      let g1 := { g with asked := true, answers := own, slots := setAt g.slots g.member ls }
      let s2 := modLaunch s1 ls fun l => { l with gang := some g1 }
      some (decideGang (tellMembers s2 g1 fun m => .reserve (gangRequest s l g m)) ls)

/-- A member's answer is noted. -/
def noteAnswer (s : State) (ls : Nat) (g : Gang) (member : Nat) (yes : Bool) (slot : Nat) : State :=
  modLaunch s ls fun l =>
    { l with gang := some { g with answers := g.answers ++ [(member, yes)],
                                   slots := if yes then setAt g.slots member slot else g.slots } }

/-- GANG_RESERVE_ANSWER. -/
def answerMove (s : State) (ls member : Nat) (a : GangAnswer) : Option State :=
  match launchAt s ls with
  | some l =>
    match l.gang with
    | some g =>
      if !g.coordinator || l.cancelled || !(otherMembers g).contains member then none
      else
        let open_ := g.asked && !g.answers.any fun x => x.1 == member
        match a with
        | .yes slot => if open_ then some (decideGang (noteAnswer s ls g member true slot) ls) else none
        | .no => if open_ then some (decideGang (noteAnswer s ls g member false 0) ls) else none
        | .freed => some (modLaunch s ls fun l => { l with gang := some { g with blocked := false } })
    | none => none
  | none => none

/-- GANG_RESERVE_ANSWER. -/
def execGangReserveAnswer (lslot member : Nat) (answer : GangAnswer) (s : State) : Host.Outcome State Fault Refusal :=
  move (answerMove s lslot member answer) s

/-! ## Commit and abandon (R381) -/

/-- A held group is placed with its choice: for the first time, or with what an eviction saved. -/
def placeHeld (ls : Nat) (s : State) (l : Launch) (gi : Nat) (g : Group) (ch : PlaceChoice) : State :=
  match l.savedGroups.find? fun sg => sg.group == gi with
  | some sg => restoreGroup s ls sg g.cluster g.ctxs ch
  | none => setupGroup s ls gi g.cluster g.ctxs ch

/-- The held groups are placed with their choices, in increasing index. -/
def commitGroups (ls : Nat) : List ((Nat × Group) × PlaceChoice) → State → Option State
  | [], s => some s
  | (g, ch) :: r, s =>
    match launchAt s ls with
    | none => none
    | some l => if choiceOk s l.packet g.2.cluster ch then commitGroups ls r (placeHeld ls s l g.1 g.2 ch) else none

/-- A member writes its slot into its gang-table entry (Table 20.3); a coordinator outside its own table has none. The write waits for a
walk's miss entry (none), and where it fails it is counted and reported at once, as a completion record's is (log 17). -/
def storeGangSlot (s : State) (ls : Nat) (l : Launch) (g : Gang) : Option State :=
  let va := l.packet.gangtab + BitVec.ofNat 64 (4 * g.member + 1)
  let lost := fun (code cause : Nat) =>
    some (bumpFree (dispatcherFault s l.packet.asid (Config.freeWord (s.freeCtr + 4)) va kWrite code cause))
  if !inTable g then some s
  else
    match hubPlace s l.packet.asid va kWrite with
    | .ok (a, s1) => some (hubByte s1 a ls)
    | .error .wait => none
    | .error (.stall _ code cause) => lost code cause
    | .error (.fatal _ code cause) => lost code cause

/-- The coordinator's decision, or another member's reservation, stands. -/
def commitReady (l : Launch) (g : Gang) : Bool := if g.coordinator then decided g && (l.reserved || !inTable g) else l.reserved

/-- The gang as its commit leaves it: of a first placement the window is ACTIVE, if it has one. -/
def committedGang (l : Launch) (g : Gang) (ls : Nat) (slots : List Nat) : Gang :=
  { g with committed := true, answers := [], state := if l.evicted then g.state else if l.packet.kshare = 0 then 0 else 1,
           slots := if g.coordinator then g.slots else setAt slots g.member ls }

/-- The die after the one that took the last group is offered the next batch. -/
def turnAfter (s : State) (gs : List (Nat × Group)) : State :=
  match gs.getLast? with
  | some e => modHub s fun h => { h with rotation := (e.2.cluster / 128 + 1) % 4 }
  | none => s

/-- GANG_COMMIT: all groups are placed at once and the slot is written. -/
def commitMove (s : State) (ls : Nat) (slots : List Nat) (choices : List PlaceChoice) : Option State :=
  match launchAt s ls with
  | none => none
  | some l =>
    match l.gang with
    | none => none
    | some g =>
      let gs := if l.reserved then heldGroups l else []
      let moving := l.packet.csmode != 0 && gs.any fun e => banksPending (getCluster s e.2.cluster)
      if !commitReady l g || choices.length ≠ gs.length || moving then none
      else
        let s1 := modLaunch s ls fun k => { k with reserved := false, gang := some (committedGang l g ls slots) }
        (storeGangSlot s1 ls l g).bind fun s2 =>
          (commitGroups ls (gs.zip choices) s2).map fun t => turnAfter (if l.evicted then endEviction t ls else t) gs

/-- GANG_COMMIT. -/
def execGangCommit (lslot : Nat) (slots : List Nat) (choices : List PlaceChoice) (s : State) : Host.Outcome State Fault Refusal :=
  move (commitMove s lslot slots choices) s

/-- GANG_ABANDON: a member frees what it held, keeps no slot for a gang that has never been placed, and tells the coordinator of the next
retirement or eviction here. -/
def abandonMove (s : State) (ls : Nat) : Option State :=
  match launchAt s ls with
  | some l =>
    match l.gang with
    | some g =>
      if !l.reserved || g.coordinator then none
      else
        some (modHub (dropHeld s ls) fun h =>
          { h with launches := if l.evicted then h.launches else tdel h.launches ls,
                   gangWaits := h.gangWaits ++ [(g.chief, l.packet.gangid, g.member)] })
    | none => none
  | none => none

/-- GANG_ABANDON. -/
def execGangAbandon (lslot : Nat) (s : State) : Host.Outcome State Fault Refusal := move (abandonMove s lslot) s

/-! ## The placement moves (R377, R386) -/

/-- GROUP_PLACEMENT: a batch, or a gang's attempt. -/
def placementMove (s : State) (ls die : Nat) (choices : List PlaceChoice) : Option State :=
  match launchAt s ls with
  | some l =>
    if l.evicted then none
    else
      match l.gang with
      | none => batchMove s ls l die choices (placeNew ls)
      | some g => askGang s ls l g
  | none => none

/-- GROUP_PLACEMENT. -/
def execGroupPlacement (lslot : Nat) (die : Fin 4) (choices : List PlaceChoice) (s : State) :
    Host.Outcome State Fault Refusal := move (placementMove s lslot die.val choices) s

/-- RE_PLACEMENT: a batch of saved groups, or an attempt of an evicted gang's coordinator. -/
def rePlacementMove (s : State) (ls die : Nat) (choices : List PlaceChoice) : Option State :=
  match launchAt s ls with
  | some l =>
    if !l.evicted then none
    else
      match l.gang with
      | none => (batchMove s ls l die choices (placeSaved ls)).map fun t => endEviction t ls
      | some g => askGang s ls l g
  | none => none

/-- RE_PLACEMENT. -/
def execRePlacement (lslot : Nat) (die : Fin 4) (choices : List PlaceChoice) (s : State) : Host.Outcome State Fault Refusal :=
  move (rePlacementMove s lslot die.val choices) s

/-! ## Retirement (R24, R25, R372) -/

/-- The context whose transfer a transfer identifier names (Table 17.4). -/
def tidCtx (tid : Word) : CtxId :=
  let n := bits tid 25 21
  ⟨bits tid 63 32 * 4 + n / 32, n % 32⟩

/-- A store is one of a transfer that the context launched, or of one that an eviction moved. -/
def launchedBy (c : CtxId) (moved : List Word) : Origin → Bool
  | .xfer tid => decide (tidCtx tid = c) || moved.contains tid
  | _ => false

/-- No registration of a store of the context, or of a transfer that it launched, is outstanding (R25). -/
def storesSettled (s : State) (c : CtxId) : Bool :=
  let moved := match launchAt s (getCtx s c).ident.lslot.toNat with | some l => l.movedTids | none => []
  !unpropagated s c.cell (.ctx c) && !s.cells.any (fun k => k.2.regq.any fun e => launchedBy c moved e.origin) &&
  !s.gwq.any fun q => q.2.any fun e => (entryOrigin e).any (launchedBy c moved)

/-- Nothing of an ENDED actor is left to be done. -/
def memberDone (s : State) (c : CtxId) : Bool :=
  let x := getCtx s c
  let k := getCluster s (clusterOf c.cell)
  decide (x.state = .ended) && x.sec.buffer.isEmpty && !k.eme.any (opOf c x) && !k.transfers.any (xferOf c x) && storesSettled s c

/-- Every member of the gang has detached, or has departed (R24, R403). -/
def gangReleased (l : Launch) : Bool :=
  match l.gang with
  | some g => allDetached g
  | none => true

/-- What the control channel reports of peer members. -/
def noteMembers (s : State) (ls : Nat) (detached : List Nat) (reports : List MemberReport) : State :=
  modLaunch s ls fun l =>
    match l.gang with
    | none => l
    | some g =>
      let ok := fun m => m < g.modules.length && m != g.member
      let d := (detached.filter ok).foldl (fun b m => b ||| BitVec.ofNat 256 (2 ^ m)) g.detached
      let new := reports.filter fun r => ok r.member && !g.retired.any fun q => q.member == r.member
      let g1 := { g with detached := d, retired := g.retired ++ new }
      { l with gang := some (if allDetached g1 && g1.state = 1 then { g1 with state := 2 } else g1) }

/-- The group's contexts and grants are freed, and its barriers forgotten. -/
def freeGroup (s : State) (ls gi : Nat) (g : Group) : State :=
  let s1 := g.ctxs.foldl freeSlot s
  let s2 := modLaunch s1 ls fun l => { l with groups := tput l.groups gi { g with retired := true } }
  tellFreed (defaultLayout (dropBarriers s2 g.cluster ls gi) g.cluster)

/-- Every group of the launch here has retired, and none is to be placed. -/
def launchDone (l : Launch) : Bool :=
  let due := match l.gang with | some g => if inTable g then l.packet.groups else 0 | none => l.packet.groups
  l.savedGroups.isEmpty && l.groups.all (·.2.retired) && (l.cancelled || due ≤ l.nextGroup) &&
  match l.gang with
  | some g => g.committed || l.cancelled
  | none => true

/-- A coordinator of a committed gang waits for every other member; another member's slot is released at once (R381). -/
def membersRetired (g : Gang) : Bool :=
  !g.coordinator || !g.committed ||
  (upFrom 0 g.modules.length).all fun m => m == g.member || g.departed.contains m || g.retired.any fun r => r.member == m

/-- The slot is released: the pool's blocks return, and the queue's next INORDER packet may go. -/
def releaseSlot (s : State) (ls : Nat) (l : Launch) : State :=
  let blocks := (l.actors.flatMap fun a => a.2.chain) ++ l.strandChain ++ l.saveChain
  let s1 := tellFreed (poolGive (modHub s fun h => { h with launches := tdel h.launches ls }) blocks)
  if l.queue < 64 && (queueOf s l.queue).last == some ls then setQueue s1 l.queue fun q => { q with last := none } else s1

/-- The earliest of the first placements that are known; 0 if there was none. -/
def firstStart (ts : List Word) : Word := (ts.filter (· ≠ 0)).foldl (fun a t => if a = 0 || t.toNat < a.toNat then t else a) 0

/-- What the launch's record says; of a gang, over its members (R372). -/
def launchCompletion (ls : Nat) (l : Launch) : Completion :=
  let reports := match l.gang with | some g => g.retired | none => []
  { status := if l.cancelled then 5 else if l.late then 2 else 1, reason := 0, lslot := ls, arrival := l.arrival,
    start := firstStart (l.start :: reports.map (·.start)), effdl := l.effdl, evictions := l.evictions,
    faulted := l.faultedEnded + (reports.map (·.faulted)).sum }

/-- The launch's record is written and its slot released; the record may have to wait for a walk's miss entry (R84). -/
def recordLaunch (s : State) (ls : Nat) (l : Launch) : State :=
  if completionWaits s l.packet then s else releaseSlot (writeCompletion s l.packet (launchCompletion ls l)) ls l

/-- A member that is not the coordinator reports to it (R381). -/
def reportMember (s : State) (l : Launch) (g : Gang) : State :=
  if g.committed then
    sendCtl s g.chief (.retired l.packet.gangid { member := g.member, faulted := l.faultedEnded, start := l.start })
  else s

/-- LAUNCH_RETIREMENT, once the launch is done. -/
def retireLaunch (s : State) (ls : Nat) : State :=
  match launchAt s ls with
  | none => s
  | some l =>
    if !launchDone l then s
    else
      match l.gang with
      | some g =>
        if !membersRetired g then s
        else if g.coordinator then recordLaunch s ls l
        else releaseSlot (reportMember s l g) ls l
      | none => recordLaunch s ls l

/-- Members' reports are taken, or a launch that is done retires. -/
def laterRetirement (s : State) (ls : Nat) (noted : Bool) : Option State :=
  let t := retireLaunch s ls
  if noted || (launchAt t ls).isNone then some t else none

/-- GROUP_RETIREMENT: a finished group frees its grants; the launch's last one retires the launch. -/
def retirementMove (s : State) (ls gi : Nat) (detached : List Nat) (reports : List MemberReport) : Option State :=
  let s1 := noteMembers s ls detached reports
  let noted := !detached.isEmpty || !reports.isEmpty
  match launchAt s1 ls with
  | none => none
  | some l =>
    match tfind l.groups gi with
    | some g =>
      if !g.retired && !l.reserved && gangReleased l && g.ctxs.all (memberDone s1) then some (retireLaunch (freeGroup s1 ls gi g) ls)
      else laterRetirement s1 ls noted
    | none => laterRetirement s1 ls noted

/-- GROUP_RETIREMENT. -/
def execGroupRetirement (lslot group : Nat) (detached : List Nat) (reports : List MemberReport) (s : State) :
    Host.Outcome State Fault Refusal := move (retirementMove s lslot group detached reports) s

/-! ## LCANCEL (R388) -/

/-- What waits for an actor that is ENDED without a context: messages rejected with reason 5, notices counted, by the cell that it stood
on last; of one that has not been placed no cell counts (log 60). -/
def endMail (s : State) (home : Option Nat) (asid : BitVec 16) (mail : List (Option Message)) (notices : List Message) : State :=
  let reject := fun (s : State) (m : Option Message) =>
    match m, home with
    | some m, _ => rejectMessage s home asid m 5
    | none, some n => modCell s n fun x => { x with rejected := x.rejected + 1 }
    | none, none => s
  let s1 := mail.foldl reject s
  match home with
  | some n => notices.foldl (fun s m => countLost s n m) s1
  | none => s1

/-- A moored actor becomes ENDED. -/
def endMoored (ls : Nat) (asid : BitVec 16) (s : State) (e : Nat × Actor) : State :=
  let s1 := endMail s e.2.home asid ((mooredMail e.2.mooring).map some) (mooredNotices e.2.mooring)
  modActor (poolGive s1 e.2.chain) ls e.1 fun a => { a with place := .ended, mooring := [], taken := 0, chain := [] }

/-- Mail saved with an evicted actor, its overflow rings' among it. -/
def endSaved (l : Launch) (s : State) (v : SavedCtx) : State :=
  let home := (actorOf l (v.group * l.packet.actors + v.member)).home
  let die := match home with | some n => dieOf n | none => 0
  endMail s home l.packet.asid (v.ctx.mailboxes.toList.flatMap (mailboxMail s die l.packet.asid)) (v.ctx.notices.map (·.msg))

/-- A context that an unfinished eviction has stopped ends in its place. -/
def endStopped (s : State) (c : CtxId) : State :=
  if (getCtx s c).state = .evicted then modCtx s c fun x => { x with state := .ended, notices := [], trigger := none } else s

/-- A TERMINATE notice to an actor. -/
def terminate (ls : Nat) (asid : BitVec 16) (s : State) (e : Nat × Actor) : State :=
  match e.2.place with
  | .at c => postNotice s (ownAddr s ls e.1) asid c.cell (mkNotice s (ownAddr s ls e.1) 63 [])
  | _ => s

/-- A gang that is cancelled before its commit frees what its members hold; later its window collapses, of which this hub tells the
others (R404). -/
def cancelGang (s : State) (ls : Nat) (l : Launch) (g : Gang) : State :=
  if !g.committed then
    if g.coordinator && (g.asked || decided g) then tellMembers s g fun _ => .abandon l.packet.gangid else s
  else if g.state = 2 then s
  else breakWindow s ls g.member 2

/-- What LCANCEL does to a launch. -/
def cancelLaunch (s : State) (ls : Nat) (l : Launch) : State :=
  let s1 := modLaunch (dropHeld s ls) ls fun l =>
    { l with cancelled := true, evicting := false, evicted := false, saveBlocks := 0, saveChain := [], saved := [], savedGroups := [],
             moving := none }
  let s2 := l.saved.foldl (endSaved l) (poolGive s1 l.saveChain)
  let s3 := (l.actors.filter fun a => decide (a.2.place = .evicted) || decide (a.2.place = .unplaced)).foldl
    (endMoored ls l.packet.asid) s2
  let s4 := (l.groups.flatMap fun g => g.2.ctxs).foldl endStopped s3
  let s5 := l.actors.foldl (terminate ls l.packet.asid) s4
  let s6 := match l.gang with
    | some g => cancelGang s5 ls l g
    | none => s5
  let s7 := l.groups.foldl (fun s g => (upFrom 0 16).foldl (fun s n => releaseGroupBarrier s g.2.cluster ls g.1 n) s) s6
  let s8 := (upFrom 0 16).foldl (fun s n => releaseReduction (releaseLaunchBarrier s ls n) ls n []) s7
  retireLaunch s8 ls

/-- LCANCEL. -/
def execLcancel (core : Fin 4) (asid lslot : Nat) (s : State) : Host.Outcome State Fault Refusal :=
  let miss := modHub s fun h => { h with lcancelSt := setBits h.lcancelSt 0 0 1 }
  match launchAt s lslot with
  | some l => if l.packet.asid.toNat = asid then ifOwned s core asid (cancelLaunch s lslot l) miss else .next miss
  | none => .next miss

end Sys2Proof.Machine
end

