-- ==== Sys2Proof/Machine/Schedule.lean ====
section
/-! DEFINITION. What the next step does (log 1): the move at the head of the agenda, the passing of time (R387, R422, R118,
R291, R88; log 12), or the current context's next instruction, with the breakpoint match of R416. -/

namespace Sys2Proof.Machine

/-! ## Time -/

/-- A transfer of the context's tag is suspended and not yet answered (R335). -/
def tagSuspended (s : State) (c : CtxId) (tag : Nat) : Bool :=
  (getCluster s (clusterOf c.cell)).transfers.any fun t => decide (t.ctx = c) && t.tag == tag && t.suspended

/-- The cycle counts against the watchdog (R335, R387). -/
def watchdogCounts (s : State) (c : CtxId) (x : Ctx) : Bool :=
  decide (x.state = .running) && !x.dbg.halted &&
  (match x.wait with
   | .xlate _ _ => false
   | .tags mask _ =>
     !((upFrom 0 64).all fun n => !(bit mask n && !bit x.tag.tags n) || tagSuspended s c n)
   | _ => true)

def tickCtx (s : State) (cycles : Nat) (k : Nat) (x : Ctx) : Ctx :=
  if watchdogCounts s ⟨k / 32, k % 32⟩ x then
    let n := BitVec.ofNat 64 cycles
    let stall := if x.wait = .full then x.counters.stallcyc + n else x.counters.stallcyc
    { x with wdog := x.wdog - cycles,
             counters := { x.counters with activecyc := x.counters.activecyc + n, stallcyc := stall } }
  else x

/-- A backoff runs down (R118). -/
def tickHeld (cycles : Nat) : Option (Nat × Nat) → Option (Nat × Nat)
  | some (delay, left) => some (delay, left - cycles)
  | none => none

def tickCell (cycles : Nat) (x : Cell) : Cell :=
  { x with outq := x.outq.map fun o => { o with held := tickHeld cycles o.held } }

/-- Waits of queued operations that have not yet run (R291). -/
def tickCluster (cycles : Nat) (x : Cluster) : Cluster :=
  { x with eme := x.eme.map (fun o => if o.ran then o else { o with wait := o.wait + cycles }),
           strips := x.strips.map fun h => { h with held := tickHeld cycles h.held } }

/-- The channel counters of a die beside its bursts (R88; how much ACT, ROWCONF and REFSTALL rise is a free value, log 11). -/
def tickDie (ctr : Nat) (die : Nat) (d : Die) : Die :=
  if d.cntEn then
    { d with hbm := (upFrom 0 64).foldl (fun t ch => (upFrom 2 3).foldl (fun t k =>
        tput t (ch * 8 + k) (tget t 0 (ch * 8 + k) + Config.hbmCount ctr die ch k)) t) d.hbm }
  else d

def mapTbl {α : Type} (f : Nat → α → α) (t : Tbl α) : Tbl α := t.map fun p => (p.1, f p.1 p.2)

/-- The misses and write-backs of a cluster's slice go on; a line written back is a burst on its channel (R84, R88). -/
def tickSlice (s : State) (cl : Nat) : State :=
  let r := sliceTime (Config.sliceDone s.freeCtr cl) (lineCtl s.hub.outMem) (getCluster s cl)
  r.2.foldl (fun s l => hbmBurst s 1 (l * 64)) (modCluster s cl fun _ => r.1)

/-- Cell-clock cycles and DTC nanoseconds pass. -/
def tickAll (s : State) (cycles ns : Nat) : State :=
  let s0 := (s.clusters.map (·.1)).foldl tickSlice s
  let s1 := bumpFree { s0 with dtc := s.dtc + BitVec.ofNat 64 ns, ctxs := mapTbl (tickCtx s cycles) s.ctxs,
                               cells := mapTbl (fun _ => tickCell cycles) s.cells,
                               clusters := mapTbl (fun _ => tickCluster cycles) s0.clusters }
  let s2 := (upFrom 0 4).foldl (fun s d => modDie s d (tickDie s.freeCtr d)) s1
  modHub s2 fun h => { h with notices := h.notices.map fun n => { n with held := tickHeld cycles n.held } }

/-! ## Breakpoints (R416) -/

def bpMatches (x : Ctx) (strand : Bool) (b : BpUnit) : Bool :=
  bit b.addr 0 && bits b.addr 54 1 * 2 == x.pc.toNat % 2 ^ 55 && bits b.ctl 31 16 == x.ident.asid.toNat &&
  (match bits b.ctl 1 0 with
   | 0 => true
   | 1 => !strand && actidOf x.ident.root == b.id.toNat % 2 ^ 32
   | 2 => strand && decide (x.ident.gtid = b.id)
   | _ => false)

/-- The lowest unit of the cell that matches the context about to execute at its pc. -/
def bpUnit (s : State) (c : CtxId) : Option Nat :=
  let x := getCtx s c
  let dbg := match launchAt s x.ident.lslot.toNat with | some l => bit l.packet.flags 4 | none => false
  if dbg && !x.dbg.pass then findAt (bpMatches x (isStrand c)) s.hub.cellBps.toList else none

/-! ## The next step -/

inductive Pick where
  | run (i : Instr) (s : State)
  | act (o : Host.Outcome State Fault Refusal)
  | idle (s : State)

/-- The current context's next instruction, or what stands in its way: a commit or an emptying buffer goes on before anything is
fetched (R51, R181). -/
def pickIssue (s : State) : Pick :=
  let c := s.cur
  let x := getCtx s c
  if x.state = .ready then .run (.handlerEntry c) s
  else if x.state = .running && !x.dbg.halted && windowLost s c && !releasing x then .idle (collapseTrap s c)
  else if !canIssue x then .idle s
  else if x.wdog = 0 && !x.sec.heldExpiry then .run (.watchdogExpiry c) s
  else if x.sec.commit.isSome then .act (goOnCommit s c)
  else if x.sec.irrevocable && !x.sec.buffer.isEmpty then .act (move (releaseMove s c) s)
  else if (bpUnit s c).isSome then .run (.breakpointHalt c) s
  else
    match (fetchX c).run s with
    | .ok (i, s1) => .run i s1
    | .error (.trap t s1) => .idle (takeTrap s1 c t)
    | .error (.stall w s1) => .idle (modCtx s1 c fun x => { x with wait := w })

/-- The next move of the agenda, else the current context's; with the power off only POWER_ON does anything. -/
def pick (s : State) : Pick :=
  if !s.power then
    match s.agenda with
    | .event .powerOn :: r => .run .powerOn { s with agenda := r }
    | _ :: r => .idle { s with agenda := r }
    | [] => .idle s
  else
    match s.agenda with
    | .event i :: r => .run i { s with agenda := r }
    | .tick cycles ns :: r => .idle (tickAll { s with agenda := r } cycles ns)
    | .issue c late walk :: r => pickIssue { s with agenda := r, cur := c, lateLoads := late, lateWalks := walk }
    | [] => pickIssue s

end Sys2Proof.Machine
end

