-- ==== Sys2Proof/Machine/System.lean ====
section
/-! DEFINITION. System instructions: NOP, TRAP, BRK, system registers, TMARK, WAITC and the fences (R41, R157, R158,
R164 to R169), and the instruction issue's own traps (R28, R36 to R39, R387, R416). -/

namespace Sys2Proof.Machine

/-- NOP (R164). -/
def execNop (s : State) : Host.Outcome State Fault Refusal := issueOp s 4 (pure ())

/-- TRAP raises BREAK with its code (R165). -/
def execTrap (code : BitVec 16) (s : State) : Host.Outcome State Fault Refusal :=
  issueOp s 4 (trapWith { code := cBREAK, cursor := BitVec.ofNat 64 code.toNat })

/-- The context's launch is under debug (R371, R416). -/
def underDebug (s : State) (c : CtxId) : Bool :=
  match launchAt s (getCtx s c).ident.lslot.toNat with
  | some l => bit l.packet.flags 4
  | none => false

/-- A stop before the instruction at the pc completes (R165, R416). -/
def issueHalt (s : State) (reason detail : Nat) : Host.Outcome State Fault Refusal :=
  let x := getCtx s s.cur
  if !canIssue x || x.sec.commit.isSome then .next s
  else if x.sec.heldExpiry && (x.sec.buffer.isEmpty || !x.sec.irrevocable) then .next (heldTrap s s.cur)
  else .next (haltCtx s s.cur reason detail)

/-- BRK: a debug stop under debug, else BREAK with source 1 (R165). -/
def execBrk (code : BitVec 16) (s : State) : Host.Outcome State Fault Refusal :=
  if underDebug s s.cur then issueHalt s 2 code.toNat
  else issueOp s 4 (trapWith { code := cBREAK, cursor := BitVec.ofNat 64 (code.toNat + 2 ^ 16) })

/-! ## System registers (Table 2.14) -/

/-- LAUNCH (Table 20.6), with the root actor's slot and member. -/
def csrLaunch (s : State) (x : Ctx) : Word :=
  let ls := lslotOf (actidOf x.ident.root)
  let member := match launchAt s x.ident.lslot.toNat with
    | some l => match l.gang with
      | some g => (findAt (fun m => m == moduleOfAddr x.ident.root) g.modules).getD 0
      | none => 0
    | none => 0
  BitVec.ofNat 64 (ls % 256 + member % 256 * 2 ^ 8 + x.ident.asid.toNat * 2 ^ 16)

/-- GROUP (Table 20.6), of the root actor. -/
def csrGroup (s : State) (x : Ctx) : Word :=
  let ai := aindexOf (actidOf x.ident.root)
  let actors := match launchAt s x.ident.lslot.toNat with | some l => max 1 l.packet.actors | none => 1
  BitVec.ofNat 64 (ai / actors % 2 ^ 24 + ai % actors % 16 * 2 ^ 24)

/-- CELLXY (Table 11.4). -/
def cellXY (s : State) (cell : Nat) : Word :=
  let cl := cell / 4 % 128
  BitVec.ofNat 64 (cell % 4 + cl % 16 * 2 ^ 2 + cl / 16 * 2 ^ 6 + dieOf cell % 4 * 2 ^ 9 + cell % 2048 * 2 ^ 16 +
    s.hub.modCol.toNat * 2 ^ 32 + s.hub.modRow.toNat * 2 ^ 36)

/-- The system register MBSTAT (Table 7.6). -/
def csrMbstat (x : Ctx) : Word :=
  let bitsOf := fun (f : Mailbox → Bool) =>
    ((upFrom 0 8).map fun n => if f (x.mailboxes.toList.getD n Mailbox.none) then 2 ^ n else 0).sum
  BitVec.ofNat 64 (bitsOf (fun b => !b.fifo.isEmpty || !b.ovf.isEmpty) + bitsOf (·.valid) * 2 ^ 8 +
    x.notices.length % 16 * 2 ^ 16)

/-- Performance counters (Table 22.13); an unlisted number of their range reads 0. -/
def csrCounter (s : State) (c : CtxId) (n : Nat) : Word :=
  let k := (getCtx s c).counters
  let g := getCell s c.cell
  match n with
  | 0x100 => k.activecyc
  | 0x101 => k.retired
  | 0x102 => k.commits
  | 0x103 => k.aborts
  | 0x104 => k.sent
  | 0x105 => k.stallcyc
  | 0x140 => g.discarded
  | 0x141 => g.rejected
  | 0x142 => g.refused
  | _ => 0

/-- The value of a system register (R166); none when the number is not listed (R41). -/
def csrRead (s : State) (c : CtxId) (n : Nat) : Option Word :=
  let x := getCtx s c
  match n with
  | 0x000 => some (BitVec.ofNat 64 x.ident.root.toNat)
  | 0x001 => some (csrLaunch s x)
  | 0x002 => some (csrGroup s x)
  | 0x003 => some (cellXY s c.cell)
  | 0x004 => some s.dtc
  | 0x010 => some (BitVec.ofNat 64 x.fstat.toNat)
  | 0x011 => some (BitVec.ofNat 64 x.frm.toNat)
  | 0x020 => some x.tag.tags
  | 0x030 => some (BitVec.ofNat 64 (x.wdog % 2 ^ 26))
  | 0x031 => some (if isStrand c then 0 else BitVec.ofNat 64 x.spawnlim.toNat)
  | 0x032 => some x.ident.gtid
  | 0x040 => some (vspill s c)
  | 0x041 => some (BitVec.ofNat 64 (kbase (launchAt s x.ident.lslot.toNat)))
  | 0x042 => some (if isStrand c then 0 else csrMbstat x)
  | n =>
    if 0x100 ≤ n ∧ n < 0x180 then some (csrCounter s c n)
    else if 0x400 ≤ n ∧ n < 0x440 then some (x.regs.c.toList.getD (n - 0x400) 0)
    else none

/-- A write of a system register (R166); RO registers ignore it (R6). -/
def csrWrite (c : CtxId) (n : Nat) (v : Word) (x : Ctx) : Ctx :=
  match n with
  | 0x010 => { x with fstat := BitVec.ofNat 6 v.toNat }
  | 0x011 => { x with frm := BitVec.ofNat 2 v.toNat }
  | 0x031 => if isStrand c then x else { x with spawnlim := BitVec.ofNat 16 v.toNat }
  | _ => x

/-- CSRR (R166). -/
def execCsrr (d : Reg) (csr : BitVec 12) (s : State) : Host.Outcome State Fault Refusal :=
  issueOp s 4 do
    match csrRead (← get) s.cur csr.toNat with
    | some v => putX s.cur d v
    | none => illegal

/-- CSRW (R166). -/
def execCsrw (csr : BitVec 12) (r : Reg) (s : State) : Host.Outcome State Fault Refusal :=
  issueOp s 4 do
    if (csrRead (← get) s.cur csr.toNat).isNone then illegal
    let v ← getX s.cur r
    updCtx s.cur (csrWrite s.cur csr.toNat v)

/-- TMARK (R168). -/
def execTmark (code : BitVec 16) (s : State) : Host.Outcome State Fault Refusal :=
  issueOp s 4 do modify fun t => traceAppend t s.cur 1 (triggerClass (getCtx t s.cur)) code.toNat

/-! ## WAITC (R169) -/

/-- Loads, gathers and atomics whose values have not returned; the lanes of one gather, which its register names, count once (R169,
R365). -/
def loadCount (x : Ctx) : Nat :=
  (x.loads.filter fun p => match p.dest with | .lane _ _ _ => false | _ => true).length +
  (x.loads.filterMap fun p => match p.dest with | .lane w _ _ => some w | _ => none).eraseDups.length

/-- Transfers of the context whose tags are not yet set. -/
def copyCount (x : Ctx) : Nat := 64 - ((upFrom 0 64).filter fun i => bit x.tag.tags i).length

/-- Matrix operations of the context that have not retired. -/
def matrixCount (s : State) (c : CtxId) : Nat :=
  let id := BitVec.ofNat 32 (actidOf (getCtx s c).ident.root)
  ((getCluster s (clusterOf c.cell)).eme.filter fun o => decide (o.owner = c) && decide (o.actid = id)).length

/-- A count within its immediate; 15 places no limit. -/
def countOk (n : Nat) (lim : Fin 16) : Bool := lim.val == 15 || n ≤ lim.val

/-- WAITC (R169). -/
def execWaitc (nl ns nc nm : Fin 16) (s : State) : Host.Outcome State Fault Refusal :=
  issueOp s 4 do
    let t ← get
    let x := getCtx t s.cur
    if !(countOk (loadCount x) nl && countOk (unpropagatedCount t s.cur) ns && countOk (copyCount x) nc &&
        countOk (matrixCount t s.cur) nm) then stallWith .other

/-! ## Fences (R58, R59, R158) -/

/-- FENCE (R58). -/
def execFence (s : State) : Host.Outcome State Fault Refusal :=
  issueOp s 4 do
    waitPropagated s.cur
    acquire s.cur

def isUpdate : GwEntry → Bool
  | .update _ _ _ _ => true
  | .ack _ _ => true
  | _ => false

/-- Every store registered at a home has propagated: no update entry or acknowledgement is on its way (R53, R59, R396). -/
def allPropagated (s : State) : Bool := !s.gwq.any fun q => q.2.any isUpdate

/-- FENCE.SC (R59). The context's loads before it have their values when it takes its point: without that, loads on the two sides of
the fence could still see two registrations in an order that it forbids (R62). -/
def execFenceSc (s : State) : Host.Outcome State Fault Refusal :=
  issueOp s 4 do
    immediate s.cur
    waitPropagated s.cur
    if !allPropagated (← get) || (← ctx s.cur).loads.any (·.value.isNone) then stallWith .other
    modify fun t => { t with fenceOrder := s.cur :: t.fenceOrder }
    acquire s.cur

/-- ICSYNC (R158). -/
def execIcsync (s : State) : Host.Outcome State Fault Refusal :=
  issueOp s 4 do modify fun t => modCell t s.cur.cell fun k => { k with iview := [] }

/-! ## Traps and stops of the issue itself -/

/-- An encoding that the tables do not assign raises ILLEGAL_OP at its own pc (R28, R32, R36 to R39). -/
def execReservedEncoding (_bits : Nat) (s : State) : Host.Outcome State Fault Refusal := issueOp s 4 illegal

/-- HANDLER_ENTRY (R105, R120). -/
def execHandlerEntry (c : CtxId) (s : State) : Host.Outcome State Fault Refusal := .next (handlerEntry s c)

/-- WATCHDOG_EXPIRY (R387, R181): while effects are being released the expiry is held. -/
def watchdogExpiry (s : State) (c : CtxId) : Option State :=
  let x := getCtx s c
  if x.state ≠ .running || x.dbg.halted || x.wdog ≠ 0 then none
  else if releasing x then
    if x.sec.heldExpiry then none else some (modCtx s c fun y => { y with sec := { y.sec with heldExpiry := true } })
  else some (takeTrap s c { code := cWATCHDOG })

/-- WATCHDOG_EXPIRY. -/
def execWatchdogExpiry (c : CtxId) (s : State) : Host.Outcome State Fault Refusal := move (watchdogExpiry s c) s

/-- BREAKPOINT_HALT: the context halts before the instruction at its pc, with the lowest matching unit (R416). -/
def execBreakpointHalt (c : CtxId) (s : State) : Host.Outcome State Fault Refusal :=
  let x := getCtx s c
  match bpUnit s c with
  | some n => if x.state = .running && !x.dbg.halted then .next (haltCtx s c 1 n) else .next s
  | none => .next s

end Sys2Proof.Machine
end

