-- ==== Sys2Proof/Machine/ServiceCore.lean ====
section
/-! DEFINITION. What service cores do through the management registers (R6, R98): context control (R131), FAULT notices (R132),
copy control (R340), debug control (R415, R417), timing dumps (R421), the delivery of fault records (R411 to R414), memory
errors (R285, R340, R411) and plain register writes. -/

namespace Sys2Proof.Machine

/-! ## Units that a physical address reaches -/

/-- Words written by a unit at physical addresses; where no memory is, nothing is written and the error is reported (R425). -/
def physWrite (s : State) (pa : Nat) (ws : List Word) : State :=
  if populated s pa (8 * ws.length) then homeWriteWords s (physKey s pa) ws else strayError s

/-! ## ACTCTL (Table 5.11) -/

def cellOf (die : Fin 4) (cellInDie : Fin 512) : Nat := die.val * 512 + cellInDie.val

def actctlMiss (s : State) (die : Fin 4) : State :=
  modDie s die.val fun d => { d with actctlSt := setBits d.actctlSt 0 0 1 }

/-- The actor context of a cell with an ACTID. -/
def actorOn (s : State) (cell : Nat) (id : Word) : Option CtxId :=
  ((upFrom 0 16).map fun k => (⟨cell, k⟩ : CtxId)).find? fun c =>
    let x := getCtx s c
    decide (x.state ≠ .free) && actidOf x.ident.root == id.toNat % 2 ^ 32

/-- The head of a source queue is consumed. -/
def dropHead (x : Ctx) : TrigSource → Ctx
  | .notice => { x with notices := x.notices.drop 1 }
  | .mailbox n =>
    { x with mailboxes := x.mailboxes.set n.val { x.mailboxes[n] with fifo := x.mailboxes[n].fifo.drop 1 } n.isLt }
  | .strand => x

/-- A returned trigger is consumed without a REJECT notice (R131). -/
def consumeReturned (s : State) (c : CtxId) : State :=
  match (getCtx s c).resumeFrom with
  | some src => sourceFreed (modCtx s c fun x => { dropHead x src with resumeFrom := none }) c src
  | none => s

/-- ACTION 0: the next handler runs on a returned trigger, else the ordinary choice. -/
def resumeActor (s : State) (c : CtxId) : State := modCtx s c rest

/-- ACTION 1. -/
def skipActor (s : State) (c : CtxId) : State := modCtx (consumeReturned s c) c rest

/-- ACTION 2: the actor ends as by EXIT; a gang's window collapses if the actor had not detached (R404). -/
def endFaulted (s : State) (c : CtxId) : State :=
  let x := getCtx s c
  let ls := x.ident.lslot.toNat
  let s1 := endActor (consumeReturned s c) c
  let s2 := modLaunch s1 ls fun l => { l with faultedEnded := l.faultedEnded + 1 }
  match (launchAt s ls).bind (·.gang) with
  | some g => if x.detached then s2 else breakWindow s2 ls g.member 1
  | none => s2

/-- ACTCTL on an actor. -/
def actctlActor (s : State) (core die : Fin 4) (cell : Nat) (act : State → CtxId → State) : Host.Outcome State Fault Refusal :=
  match actorOn s cell (getDie s die.val).actctlId with
  | some c =>
    let x := getCtx s c
    if x.state = .faulted then ifOwned s core x.ident.asid.toNat (act s c) (actctlMiss s die) else .next (actctlMiss s die)
  | none => .next (actctlMiss s die)

/-- Where a faulted strand message stands: a return entry, or a slot that waits for one. -/
inductive StrandSpot where
  | entry (i : Nat) (m : StrandMsg)
  | slot (i : Nat) (slot : Nat) (m : StrandMsg)

def strandSpot (k : Cell) (id : Word) : Option StrandSpot :=
  match findAt (fun (m : StrandMsg) => m.faulted && decide (m.msg.gtid = id)) k.returns with
  | some i => (k.returns[i]?).map (.entry i)
  | none =>
    match findAt (fun (w : Nat × StrandMsg) => decide (w.2.msg.gtid = id)) k.returnWait with
    | some i => (k.returnWait[i]?).map fun w => .slot i w.1 w.2
    | none => none

def spotMsg : StrandSpot → StrandMsg
  | .entry _ m => m
  | .slot _ _ m => m

/-- ACTION 0: the message loses its mark and enters a slot: its own, or the next that STRAND_RESUMPTION gives it (R112). -/
def resumeStrand (s : State) (cell : Nat) : StrandSpot → State
  | .entry i m => modCell s cell fun k => { k with returns := setAt k.returns i { m with faulted := false } }
  | .slot i n m =>
    enterStrand (modCell s cell fun k => { k with returnWait := dropAt k.returnWait i }) ⟨cell, n⟩ { m with faulted := false }

/-- ACTIONs 1 and 2: the message is discarded and the strand counts as SDONE (R125). -/
def discardStrand (s : State) (cell : Nat) (spot : StrandSpot) : State :=
  let s1 := match spot with
    | .entry i _ => takeReturnWait (modCell s cell fun k => { k with returns := dropAt k.returns i }) cell
    | .slot i n _ => freeSlot (modCell s cell fun k => { k with returnWait := dropAt k.returnWait i }) ⟨cell, n⟩
  postDecrement s1 (spotMsg spot).msg.sender

/-- ACTCTL on a strand. -/
def actctlStrand (s : State) (core die : Fin 4) (cell : Nat) (act : State → Nat → StrandSpot → State) :
    Host.Outcome State Fault Refusal :=
  match strandSpot (getCell s cell) (getDie s die.val).actctlId with
  | some p => ifOwned s core (spotMsg p).asid.toNat (act s cell p) (actctlMiss s die)
  | none => .next (actctlMiss s die)

/-- ACTCTL with ACTION 0. -/
def execActctlResume (core die : Fin 4) (cellInDie : Fin 512) (strand : Bool) (s : State) : Host.Outcome State Fault Refusal :=
  if strand then actctlStrand s core die (cellOf die cellInDie) resumeStrand
  else actctlActor s core die (cellOf die cellInDie) resumeActor

/-- ACTCTL with ACTION 1. -/
def execActctlSkip (core die : Fin 4) (cellInDie : Fin 512) (strand : Bool) (s : State) : Host.Outcome State Fault Refusal :=
  if strand then actctlStrand s core die (cellOf die cellInDie) discardStrand
  else actctlActor s core die (cellOf die cellInDie) skipActor

/-- ACTCTL with ACTION 2. -/
def execActctlEnd (core die : Fin 4) (cellInDie : Fin 512) (strand : Bool) (s : State) : Host.Outcome State Fault Refusal :=
  if strand then actctlStrand s core die (cellOf die cellInDie) discardStrand
  else actctlActor s core die (cellOf die cellInDie) endFaulted

/-! ## NOTECTL (Table 5.12) -/

def noteMiss (s : State) (die : Fin 4) : State :=
  modDie s die.val fun d => { d with noteSt := setBits d.noteSt 0 0 1 }

/-- The notice of a NOTECTL write. -/
def faultNotice (s : State) (die : Fin 4) (cell : Nat) (asid : BitVec 16) : NoticeMsg :=
  let d := getDie s die.val
  let dest := BitVec.ofNat 40 (ownModule s * 2 ^ 32 + d.noteId.toNat % 2 ^ 32)
  { dest := dest, asid := asid, msg := mkNotice s dest 5 [d.noteM0, d.noteM1], cell := cell, held := none, die := some die.val }

/-- It is delivered or moored; else the die holds it and reads BUSY. -/
def sendFault (s : State) (die : Fin 4) (n : NoticeMsg) : State :=
  match deliverNotice s n with
  | some t => t
  | none =>
    let s1 := modHub s fun h => { h with notices := h.notices ++ [{ n with held := some (128, 128) }] }
    modDie s1 die.val fun d => { d with noteSt := setBits d.noteSt 1 1 1 }

/-- The launch and place of the actor that NOTEID names. -/
def noteTarget (s : State) (die : Fin 4) : Option (Launch × Place) :=
  let id := (getDie s die.val).noteId.toNat % 2 ^ 32
  match launchAt s (lslotOf id) with
  | some l => if aindexOf id < memberActors l then some (l, (actorOf l (aindexOf id)).place) else none
  | none => none

/-- NOTECTL. -/
def execNotectl (core die : Fin 4) (cellInDie : Fin 512) (s : State) : Host.Outcome State Fault Refusal :=
  let cell := cellOf die cellInDie
  if bit (getDie s die.val).noteSt 1 then .next (noteMiss s die)
  else
    match noteTarget s die with
    | none => .next (noteMiss s die)
    | some (l, p) =>
      let here := match p with | .at c => c.cell == cell | .ended => false | _ => true
      if here then
        ifOwned s core l.packet.asid.toNat (sendFault s die (faultNotice s die cell l.packet.asid)) (noteMiss s die)
      else .next (noteMiss s die)

/-! ## CPCTL (Table 17.9) -/

def cpctlMiss (s : State) (die : Fin 4) : State :=
  modDie s die.val fun d => { d with cpctlSt := setBits d.cpctlSt 0 0 1 }

/-- The suspended transfer of the die that CPCTLID names, with its cluster. -/
def suspendedXfer (s : State) (die : Fin 4) : Option (Nat × Transfer) :=
  s.clusters.findSome? fun k =>
    if k.1 / 128 = die.val then
      (k.2.transfers.find? fun t => t.suspended && decide (t.tid = (getDie s die.val).cpctlId)).map fun t => (k.1, t)
    else none

def cpctl (s : State) (core die : Fin 4) (act : State → Nat → Transfer → State) : Host.Outcome State Fault Refusal :=
  match suspendedXfer s die with
  | some (cl, t) => ifOwned s core t.ident.asid.toNat (act s cl t) (cpctlMiss s die)
  | none => .next (cpctlMiss s die)

/-- CPCTL with ACTION 0: the transfer goes on from its cursor. -/
def execCpctlReplay (core die : Fin 4) (s : State) : Host.Outcome State Fault Refusal :=
  cpctl s core die fun s cl t => modXfer s cl t.tid fun u => { u with suspended := false }

/-- CPCTL with ACTION 1: the transfer completes with CODE and places no follow-on. -/
def execCpctlComplete (core die : Fin 4) (code : Byte) (s : State) : Host.Outcome State Fault Refusal :=
  cpctl s core die fun s cl t =>
    modXfer (deadLanes s t) cl t.tid fun u =>
      { u with suspended := false, written := true, code := code, placed := true, folHeld := false }

/-! ## DBGCTL (Table 22.7) -/

def dbgctlMiss (s : State) (die : Fin 4) : State :=
  modDie s die.val fun d => { d with dbgctlSt := setBits d.dbgctlSt 0 0 1 }

/-- The context that DBGCTLID names on a cell. -/
def dbgTarget (s : State) (die : Fin 4) (cell : Nat) (strand : Bool) : Option CtxId :=
  let id := (getDie s die.val).dbgctlId
  if strand then
    ((upFrom 16 16).map fun k => (⟨cell, k⟩ : CtxId)).find? fun c =>
      decide ((getCtx s c).state = .running) && decide ((getCtx s c).ident.gtid = id)
  else actorOn s cell id

/-- An action on a context that satisfies a test. -/
def dbgctl (s : State) (core die : Fin 4) (cell : Nat) (strand : Bool) (ok : CtxId → Ctx → Bool) (act : State → CtxId → State) :
    Host.Outcome State Fault Refusal :=
  match dbgTarget s die cell strand with
  | some c =>
    let x := getCtx s c
    if ok c x then ifOwned s core x.ident.asid.toNat (act s c) (dbgctlMiss s die) else .next (dbgctlMiss s die)
  | none => .next (dbgctlMiss s die)

/-- A halt ends. A stop at BRK completes the BRK (R165); any other halted instruction executes once without matching (R417). -/
def leaveHalt (x : Ctx) : Ctx :=
  if x.dbg.reason = 2 then
    { x with pc := x.pc + 4, counters := { x.counters with retired := x.counters.retired + 1 },
             dbg := { x.dbg with halted := false } }
  else { x with dbg := { x.dbg with halted := false, pass := true } }

/-- A single step: one instruction, then a halt with reason 3; the stop of a BRK has that instruction behind it. -/
def stepHalted (s : State) (c : CtxId) : State :=
  let brk := (getCtx s c).dbg.reason = 2
  let s1 := modCtx s c fun x => { leaveHalt x with dbg := { (leaveHalt x).dbg with step := true } }
  if brk then boundary s1 c else s1

/-- DBGCTL with ACTION 0. -/
def execDbgctlResume (core die : Fin 4) (cellInDie : Fin 512) (strand : Bool) (s : State) : Host.Outcome State Fault Refusal :=
  dbgctl s core die (cellOf die cellInDie) strand (fun _ x => x.dbg.halted) fun s c => modCtx s c leaveHalt

/-- DBGCTL with ACTION 1. -/
def execDbgctlStep (core die : Fin 4) (cellInDie : Fin 512) (strand : Bool) (s : State) : Host.Outcome State Fault Refusal :=
  dbgctl s core die (cellOf die cellInDie) strand (fun _ x => x.dbg.halted) stepHalted

/-- A context that a halt request can reach: running, or an actor between handlers, in a launch under debug. -/
def canHalt (s : State) (c : CtxId) (x : Ctx) : Bool :=
  underDebug s c && !x.dbg.halted && (decide (x.state = .running) || decide (x.state = .idle) || decide (x.state = .ready))

/-- DBGCTL with ACTION 2. -/
def execDbgctlHaltRequest (core die : Fin 4) (cellInDie : Fin 512) (strand : Bool) (s : State) :
    Host.Outcome State Fault Refusal :=
  dbgctl s core die (cellOf die cellInDie) strand (canHalt s) fun s c =>
    modCtx s c fun x => { x with dbg := { x.dbg with haltReq := true } }

/-- DBGCTL with ACTION 3: the trap DEBUG_HALT, with the stop's reason in CURSOR (Table 22.6). -/
def execDbgctlAbort (core die : Fin 4) (cellInDie : Fin 512) (strand : Bool) (s : State) : Host.Outcome State Fault Refusal :=
  dbgctl s core die (cellOf die cellInDie) strand (fun _ x => x.dbg.halted) fun s c =>
    let d := (getCtx s c).dbg
    takeTrap s c { code := cDEBUG_HALT, cursor := BitVec.ofNat 64 (d.reason * 2 ^ 16 + d.detail % 2 ^ 16) }

/-! ## Breakpoint broadcast (R415) -/

/-- BPCTL_WRITE: the hub's copy is written and its broadcast starts. -/
def execBpctlWrite (n : Fin 8) (value : Word) (s : State) : Host.Outcome State Fault Refusal :=
  .next (modHub s fun h =>
    { h with bps := h.bps.set n.val { h.bps[n] with ctl := value &&& 0xFFFF0003 } n.isLt, bpBusy := n.val :: h.bpBusy })

/-- The cells' units with the hub's values where a broadcast runs. -/
def broadcastBps (h : Hub) : Vector BpUnit 8 :=
  vecOfList 8 BpUnit.off ((upFrom 0 8).map fun n =>
    if h.bpBusy.contains n then h.bps.toList.getD n BpUnit.off else h.cellBps.toList.getD n BpUnit.off)

/-- BREAKPOINT_BROADCAST_DONE. -/
def execBreakpointBroadcastDone (s : State) : Host.Outcome State Fault Refusal :=
  .next (modHub s fun h => { h with cellBps := broadcastBps h, bpBusy := [] })

/-! ## Timing dumps (R421, Table 22.12) -/

/-- TTDUMP: ignored while a dump runs. -/
def execTtdump (die : Fin 4) (cellInDie : Fin 512) (clear : Bool) (s : State) : Host.Outcome State Fault Refusal :=
  .next (modDie s die.val fun d => if d.ttDump.isSome then d else { d with ttDump := some (cellInDie.val, clear) })

def timingRecord (valid : Bool) (t : Timing) : List Word :=
  [BitVec.ofNat 64 (t.sender.toNat + if valid then 2 ^ 40 else 0), t.count, t.transit, t.qwait, t.run, 0]

/-- The 33 records of a cell's table. -/
def timingRecords (k : Cell) : List Word :=
  ((upFrom 0 32).flatMap fun i => match k.timing[i]? with
    | some t => timingRecord true t
    | none => timingRecord false Timing.zero) ++ timingRecord true k.timingOthers

/-- TIMING_DUMP_DONE. -/
def execTimingDumpDone (die : Fin 4) (s : State) : Host.Outcome State Fault Refusal :=
  let d := getDie s die.val
  match d.ttDump with
  | none => .next s
  | some (n, clear) =>
    let cell := die.val * 512 + n
    let s1 := physWrite s (bits d.ttAddr 51 6 * 64) (timingRecords (getCell s cell))
    let s2 := if clear then modCell s1 cell fun k => { k with timing := [], timingOthers := Timing.zero } else s1
    .next (modDie s2 die.val fun d => { d with ttDump := none })

/-! ## Fault records (R411 to R414) -/

/-- The record's 64 bytes (Table 22.1). -/
def recordWords (r : FaultRecord) : List Word :=
  [BitVec.ofNat 64 (r.code.toNat + r.unit.toNat * 2 ^ 8 + r.unitIdx.toNat * 2 ^ 16 + r.asid.toNat * 2 ^ 32 +
     r.sections.toNat * 2 ^ 48),
   r.ident, r.msgid, r.pc, r.vaddr, r.cursor, BitVec.ofNat 64 (r.lane.toNat + r.flags.toNat * 2 ^ 16), r.dtc]

/-- The core that a record goes to (R413), where the steering table can be read. -/
def recordCore (s : State) (r : FaultRecord) : Option Nat :=
  if r.asid = 0 ∧ r.unit = 5 then some (s.hub.fsteerDef.toNat % 4) else ownerCore s r.asid.toNat

def ringOfCore (s : State) (k : Nat) : FaultRing := s.hub.rings.toList.getD k { base := 0, head := 0, tail := 0 }

/-- The rings with one replaced. -/
def ringsWith (h : Hub) (k : Nat) (g : FaultRing) : Vector FaultRing 4 :=
  vecOfList 4 { base := 0, head := 0, tail := 0 } (setAt h.rings.toList k g)

def setRing (s : State) (k : Nat) (f : FaultRing → FaultRing) : State :=
  let g := f (ringOfCore s k)
  modHub s fun h => { h with rings := ringsWith h k g }

/-- An earlier record of the same source unit waits. -/
def recordBehind (q : List FaultRecord) (idx : Nat) (r : FaultRecord) : Bool :=
  (q.take idx).any fun e => e.unit == r.unit && e.unitIdx == r.unitIdx

/-- A record is appended to the owning core's ring (R414). While the ring is full, or lies where no memory is, its source unit holds it:
no record is ever dropped (log 90). -/
def appendRecord (s : State) (idx k : Nat) (r : FaultRecord) : Option State :=
  let g := ringOfCore s k
  let pa := bits g.base 51 18 * 2 ^ 18 + g.tail.toNat % 4096 * 64
  if 4096 ≤ (g.tail - g.head).toNat || !populated s pa 64 then none
  else
    let s1 := setRing (physWrite s pa (recordWords r)) k fun g => { g with tail := g.tail + 1 }
    some (modHub s1 fun h => { h with records := dropAt h.records idx, irq := h.irq ||| BitVec.ofNat 4 (2 ^ k) })

/-- A record in its unit's order, once its core is known. -/
def recordMove (s : State) (idx : Nat) : Option State :=
  match s.hub.records[idx]? with
  | none => none
  | some r => if recordBehind s.hub.records idx r then none else (recordCore s r).bind fun k => appendRecord s idx k r

/-- FAULT_RECORD_DELIVERY. -/
def execFaultRecordDelivery (idx : Nat) (s : State) : Host.Outcome State Fault Refusal := move (recordMove s idx) s

/-! ## Memory errors (R285, R340, R411) -/

/-- An error in an accumulator sets FAULT; the operation that runs on it reports it, with its k position (Table 16.3). -/
def accError (s : State) (cl n asid : Nat) : State :=
  match (getCluster s cl).eme.find? fun o => o.acc == n && o.ran with
  | some o => engineFault s cl o cMEM_UNCORRECTABLE 0
  | none =>
    bump6 (pushRecord (faultAcc s cl n 0) (strayRecord s 1 cl asid))

/-- An error that a begun transfer's next chunk meets suspends it, with cause 0 (R340). -/
def xferError (s : State) (cl idx : Nat) : Option State :=
  match (getCluster s cl).transfers[idx]? with
  | some t => if xferRuns s t then some (suspendXfer s cl t (walkAddr (shadow t 0) (xferDims t) (srcSteps t) t.cursor, 0) kRead t.cursor) else none
  | none => none

/-- An error that a context's access meets is its trap. -/
def accessError (s : State) (c : CtxId) : Option State :=
  let x := getCtx s c
  if canIssue x && x.sec.commit.isNone then some (takeTrap s c { code := cMEM_UNCORRECTABLE }) else none

/-- UNCORRECTABLE_MEMORY_ERROR. -/
def execUncorrectableMemoryError (die : Fin 5) (controller : Byte) (asid : Nat) (who : ErrorAt) (s : State) :
    Host.Outcome State Fault Refusal :=
  match who with
  | .nobody => .next (bump6 (pushRecord s (strayRecord s 6 (die.val * 256 + controller.toNat) asid)))
  | .access c => move (accessError s c) s
  | .accumulator cl n => .next (accError s cl n asid)
  | .transfer cl idx => move (xferError s cl idx) s
  | .operand cl off => move (operandError s cl off) s

/-! ## REGISTER_WRITE (R6, R7) -/

/-- A W1C bit field: writing 1 clears. -/
def w1c (old : Word) (mask value : Word) : Word := old &&& ~~~(mask &&& value)

/-- Bits hi:lo of a word, kept in place. -/
def keepBits (v : Word) (hi lo : Nat) : Word := BitVec.ofNat 64 (bits v hi lo * 2 ^ lo)

/-- A write in a die's block. ACTION codes that no action has set NOTFOUND (R131, R340, R417). -/
def writeDieReg (d : Die) (offset : Nat) (v : Word) : Die :=
  if offset = 0x030000 then
    { d with cntEn := bit v 0, hbm := if bit v 1 then [] else d.hbm }
  else if offset = 0x040000 then { d with actctlId := v }
  else if offset = 0x040008 then if 3 ≤ bits v 2 0 then { d with actctlSt := setBits d.actctlSt 0 0 1 } else d
  else if offset = 0x040010 then { d with actctlSt := w1c d.actctlSt 1 v }
  else if offset = 0x040020 then { d with noteId := v }
  else if offset = 0x040028 then { d with noteM0 := v }
  else if offset = 0x040030 then { d with noteM1 := v }
  else if offset = 0x040040 then { d with noteSt := w1c d.noteSt 1 v }
  else if offset = 0x050000 then { d with cpctlId := v }
  else if offset = 0x050008 then if 2 ≤ bits v 2 0 then { d with cpctlSt := setBits d.cpctlSt 0 0 1 } else d
  else if offset = 0x050010 then { d with cpctlSt := w1c d.cpctlSt 1 v }
  else if offset = 0x060000 then { d with dbgctlId := v }
  else if offset = 0x060008 then if 4 ≤ bits v 2 0 then { d with dbgctlSt := setBits d.dbgctlSt 0 0 1 } else d
  else if offset = 0x060010 then { d with dbgctlSt := w1c d.dbgctlSt 1 v }
  else if offset = 0x080000 then { d with ttAddr := keepBits v 51 6 }
  else if 0x070000 ≤ offset ∧ offset < 0x070200 then
    let e := (offset - 0x070000) / 16
    let old := d.wf.toList.getD e (0, 0)
    let new := if offset % 16 = 0 then (keepBits v 51 6 ||| keepBits v 2 0, old.2)
      else if offset % 16 = 8 then (old.1, v) else old
    { d with wf := vecOfList 32 (0, 0) (setAt d.wf.toList e new) }
  else d

/-- A launch queue's registers (Table 20.5). -/
def writeQueueReg (q : Queue) (r : Nat) (v : Word) : Queue :=
  match r with
  | 0x00 => { q with qbase := keepBits v 51 7 }
  | 0x08 => { q with qctl := keepBits v 31 14 ||| keepBits v 4 0 }
  | 0x10 => { q with qtailpa := keepBits v 51 3 }
  | 0x18 => { q with qslack := v }
  | 0x28 => { q with qstat := w1c q.qstat 1 v }
  | _ => q

/-- FRBASE and FRHEAD; a head beyond the tail is ignored (R414). -/
def writeRingReg (g : FaultRing) (r : Nat) (v : Word) : FaultRing :=
  match r with
  | 0x00 => { g with base := keepBits v 51 18 }
  | 0x08 =>
    let h : BitVec 32 := BitVec.ofNat 32 v.toNat
    if (h - g.head).toNat ≤ (g.tail - g.head).toNat then { g with head := h } else g
  | _ => g

/-- A core's fault interrupt stays raised while FRHEAD ≠ FRTAIL. -/
def settleIrq (h : Hub) (k : Nat) (g : FaultRing) : BitVec 4 := setBits h.irq k k (if g.head = g.tail then 0 else 1)

/-- A write in the hub's block. A TLBINV write of MODE 3 is one: it is ignored, and sets nothing while BUSY either (DESIGN CHOICE,
log 105). -/
def writeHubReg (h : Hub) (offset : Nat) (v : Word) : Hub :=
  if offset = 0x010008 then { h with tlbinvVa := keepBits v 54 16 }
  else if offset = 0x010018 then { h with tlbinvSt := w1c h.tlbinvSt 2 v }
  else if offset = 0x010020 then { h with asidtab := keepBits v 51 20 }
  else if 0x060000 ≤ offset ∧ offset < 0x061000 then
    let q := (offset - 0x060000) / 64
    let new := writeQueueReg (h.queues.toList.getD q Queue.reset) (offset % 64) v
    { h with queues := vecOfList 64 Queue.reset (setAt h.queues.toList q new) }
  else if offset = 0x070008 then { h with lcancelSt := w1c h.lcancelSt 1 v }
  else if offset = 0x070010 then { h with evpool := keepBits v 51 16 }
  else if offset = 0x070018 then { h with evpoolSz := keepBits v 31 0 }
  else if 0x080000 ≤ offset ∧ offset < 0x080080 then
    let k := (offset - 0x080000) / 32
    let g := writeRingReg (h.rings.toList.getD k { base := 0, head := 0, tail := 0 }) (offset % 32) v
    { h with rings := ringsWith h k g, irq := settleIrq h k g }
  else if offset = 0x080080 then { h with fsteer := keepBits v 51 16 }
  else if offset = 0x080088 then { h with fsteerDef := keepBits v 1 0 }
  else if offset = 0x090000 then { h with trbase := keepBits v 51 16 ||| keepBits v 4 0 }
  else if offset = 0x090008 then { h with trhead := BitVec.ofNat 32 v.toNat }
  else if offset = 0x090018 then { h with trdrop := if bit v 0 then 0 else h.trdrop }
  else if 0x0A0000 ≤ offset ∧ offset < 0x0A0100 then
    let n := (offset - 0x0A0000) / 32
    let b := h.bps.toList.getD n BpUnit.off
    let b' := if offset % 32 = 0 then { b with addr := keepBits v 54 0 } else if offset % 32 = 8 then { b with id := v } else b
    { h with bps := vecOfList 8 BpUnit.off (setAt h.bps.toList n b') }
  else if offset = 0x0B0010 then { h with pwrlim := keepBits v 11 0 }
  else h

/-! ## Register reads (R6, R7) -/

/-- A bit as a register field at bit 0. -/
def flagWord (b : Bool) : Word := if b then 1 else 0

/-- What a read of a die's block returns: write-only registers (TRESP, ACTCTL, NOTECTL, CPCTL, DBGCTL, TTDUMP, HBMCNTCTL.CLEAR) and
reserved places read zero. -/
def readDieReg (s : State) (die offset : Nat) : Word :=
  let d := getDie s die
  if offset < 0x2000 then
    let k := getCluster s (die * 128 + offset / 64)
    if offset % 64 = 0 then BitVec.ofNat 64 k.csmode.toNat else if offset % 64 = 8 then csstat k else 0
  else if 0x020000 ≤ offset ∧ offset < 0x021000 then
    if offset % 64 < 0x28 ∧ offset % 8 = 0 then tget d.hbm 0 ((offset - 0x020000) / 64 * 8 + offset % 64 / 8) else 0
  else if 0x070000 ≤ offset ∧ offset < 0x070200 then
    let w := d.wf.toList.getD ((offset - 0x070000) / 16) (0, 0)
    if offset % 16 = 0 then w.1 else if offset % 16 = 8 then w.2 else 0
  else
    match offset with
    | 0x030000 => flagWord d.cntEn
    | 0x040000 => d.actctlId
    | 0x040010 => d.actctlSt
    | 0x040020 => d.noteId
    | 0x040028 => d.noteM0
    | 0x040030 => d.noteM1
    | 0x040040 => d.noteSt
    | 0x050000 => d.cpctlId
    | 0x050010 => d.cpctlSt
    | 0x060000 => d.dbgctlId
    | 0x060010 => d.dbgctlSt
    | 0x080000 => d.ttAddr
    | 0x080010 => flagWord d.ttDump.isSome
    | _ => 0

/-- A launch queue's registers (Table 20.5). -/
def readQueueReg (q : Queue) (r : Nat) : Word :=
  match r with
  | 0x00 => q.qbase
  | 0x08 => q.qctl
  | 0x10 => q.qtailpa
  | 0x18 => q.qslack
  | 0x20 => BitVec.ofNat 64 q.qhead.toNat
  | 0x28 => q.qstat
  | _ => 0

/-- A fault ring's registers (Table 22.4). -/
def readRingReg (g : FaultRing) (r : Nat) : Word :=
  match r with
  | 0x00 => g.base
  | 0x08 => BitVec.ofNat 64 g.head.toNat
  | 0x10 => BitVec.ofNat 64 g.tail.toNat
  | _ => 0

/-- A breakpoint unit's registers, as the hub holds them (Table 22.5). -/
def readBpReg (b : BpUnit) (r : Nat) : Word :=
  match r with
  | 0x00 => b.addr
  | 0x08 => b.id
  | 0x10 => b.ctl
  | _ => 0

/-- DIESTAT (Table 23.5). -/
def dieStat (s : State) (d : Nat) : Word :=
  if d < 4 then BitVec.ofNat 64 ((getDie s d).freq.toNat + if (getDie s d).throttled then 2 ^ 16 else 0)
  else BitVec.ofNat 64 (s.hub.hubFreq.toNat + if s.hub.hubThrottled then 2 ^ 16 else 0)

/-- What a read of the hub's block returns: TLBINV and LCANCEL, which are write-only, and reserved places read zero. -/
def readHubReg (s : State) (offset : Nat) : Word :=
  let h := s.hub
  if 0x060000 ≤ offset ∧ offset < 0x061000 then
    readQueueReg (h.queues.toList.getD ((offset - 0x060000) / 64) Queue.reset) (offset % 64)
  else if 0x080000 ≤ offset ∧ offset < 0x080080 then
    readRingReg (h.rings.toList.getD ((offset - 0x080000) / 32) { base := 0, head := 0, tail := 0 }) (offset % 32)
  else if 0x0A0000 ≤ offset ∧ offset < 0x0A0100 then
    readBpReg (h.bps.toList.getD ((offset - 0x0A0000) / 32) BpUnit.off) (offset % 32)
  else if 0x0B0020 ≤ offset ∧ offset < 0x0B0048 then
    if offset % 8 = 0 then dieStat s ((offset - 0x0B0020) / 8) else 0
  else
    match offset with
    | 0x010008 => h.tlbinvVa
    | 0x010018 => h.tlbinvSt
    | 0x010020 => h.asidtab
    | 0x070008 => h.lcancelSt
    | 0x070010 => h.evpool
    | 0x070018 => h.evpoolSz
    | 0x070020 => h.evpoolUse
    | 0x080080 => h.fsteer
    | 0x080088 => h.fsteerDef
    | 0x090000 => h.trbase
    | 0x090008 => BitVec.ofNat 64 h.trhead.toNat
    | 0x090010 => BitVec.ofNat 64 h.trtail.toNat
    | 0x090018 => h.trdrop
    | 0x0A0100 => flagWord (!h.bpBusy.isEmpty)
    | 0x0B0000 => h.devid
    | 0x0B0008 => h.beacon
    | 0x0B0010 => h.pwrlim
    | _ => 0

/-- A service core's or host's read of a management register; it changes nothing (log 93). -/
def readReg (s : State) (unit : RegUnit) (offset : Nat) : Word :=
  match unit with
  | .die d => readDieReg s d.val offset
  | .hub => readHubReg s offset

/-- REGISTER_WRITE: registers whose write acts (CSMODE, TRESP, TLBINV, ACTCTL, NOTECTL, CPCTL, DBGCTL, LCANCEL, BPCTL, TTDUMP)
have moves of their own. -/
def execRegisterWrite (unit : RegUnit) (offset : Nat) (value : Word) (s : State) : Host.Outcome State Fault Refusal :=
  match unit with
  | .die d => .next (modDie s d.val fun x => writeDieReg x offset value)
  | .hub => .next (modHub s fun h => writeHubReg h offset value)

end Sys2Proof.Machine
end

