-- ==== Sys2Proof/Machine/Link.lean ====
section
/-! DEFINITION. The Ryoft links of the module (R390 to R399): what a port receives, buffer lending, credits, key switch and key
installation, capability vectors and the loss of a port. -/

namespace Sys2Proof.Machine

/-! ## Loss of a route (R390, R404) -/

/-- Members of a launch's gang that no route reaches any more have departed (R404). -/
def dropUnreachable (s : State) (e : Nat × Launch) : State :=
  match e.2.gang with
  | some g =>
    if g.committed && g.state ≠ 2 then
      ((g.modules.zip (upFrom 0 g.modules.length)).filter fun p => p.2 ≠ g.member && !moduleReachable s p.1).foldl
        (fun s p => breakWindow s e.1 p.2 3) s
    else s
  | none => s

/-- What follows when a port can no longer be used for new routes. -/
def settleRoutes (s : State) : State := s.hub.launches.foldl dropUnreachable s

/-- A port goes down (R390, R398). -/
def portDown (s : State) (p : Nat) : State := settleRoutes (modPort s p fun x => { x with up := false })

/-- RYOFT_LINK_LOSS. -/
def execRyoftLinkLoss (port : Fin 30) (s : State) : Host.Outcome State Fault Refusal :=
  if (getPort s port.val).up then .next (portDown s port.val) else .next s

/-! ## Receiving a unit (R391, R398) -/

/-- The link header. -/
def linkHeader (u : WireUnit) : BitVec 32 :=
  BitVec.ofNat 32 (u.pseq.toNat + u.kind1.val * 2 ^ 27 + u.kind0.val * 2 ^ 29 + if u.sealed then 2 ^ 31 else 0)

/-- The initialisation vector: the salt, then the counter. -/
def linkVector (salt : BitVec 48) (counter : Nat) : BitVec 96 := salt ++ BitVec.ofNat 48 counter

/-- The counter of a key's last pair. -/
def lastPair : Nat := 2 ^ 48 - 2

/-- The data flits of a unit; a control flit is the operand of the move that it brings, idle flits carry nothing. -/
def unitFlits (u : WireUnit) (plain : BitVec 1024) : List (BitVec 512) :=
  (if u.kind0 = 0 then [plain.setWidth 512] else []) ++ (if u.kind1 = 0 then [(plain >>> 512).setWidth 512] else [])

/-- The receiving direction after an accepted pair: the switch flit brings the next key; without one the direction waits. -/
def afterPair (d : LinkDir) : LinkDir :=
  if d.counter ≠ lastPair then { d with counter := d.counter + 2 }
  else match d.nextKey with
    | some k => { d with key := some k.1, salt := k.2, nextKey := none, counter := 0 }
    | none => { d with counter := d.counter + 2, keywait := true }

/-- A unit that authenticates is accepted. -/
def acceptUnit (x : Port) (u : WireUnit) (plain : BitVec 1024) : Port :=
  { x with inn := afterPair x.inn, failures := 0, nak := x.nak.filter (fun n => n ≠ u.pseq),
           received := x.received ++ unitFlits u plain }

/-- Ask for a unit again. -/
def askAgain (x : Port) (n : BitVec 16) : Port := if x.nak.contains n then x else { x with nak := x.nak ++ [n] }

/-- A damaged unit is asked for again; the failure of a unit that was asked for counts. -/
def damagedUnit (s : State) (p : Nat) (n : BitVec 16) : State :=
  let x := getPort s p
  let again := x.nak.contains n
  let s1 := modPort s p fun x => { askAgain x n with failures := if again then x.failures + 1 else x.failures }
  if 64 ≤ (getPort s1 p).failures then portDown s1 p else s1

/-- The PSEQ of the pair that the direction takes next. -/
def dueSeq (d : LinkDir) : BitVec 16 := BitVec.ofNat 16 (d.counter / 2)

/-! ### Packets (R391 to R393) -/

/-- Flits of a channel in the input buffer. -/
def occupancy (x : Port) (channel : Nat) : Nat := ((x.inBuf.filter fun p => p.channel.val == channel).map fun p => p.flits.length).sum
def occupancies (x : Port) : List Nat := (upFrom 0 6).map (occupancy x)

/-- A packet as R391 and R392 allow one to come in: 1 to 4 flits, for this module where no hop is left and else at most three hops from
it, within the channel's share of the buffer. -/
def goodPacket (s : State) (x : Port) (p : RyPacket) : Bool :=
  1 ≤ p.flits.length && p.flits.length ≤ 4 && p.src != ownModule s && p.route.isEmpty == (p.dst == ownModule s) && p.route.length ≤ 3 &&
  occupancy x p.channel.val + p.flits.length ≤ x.announced.getD p.channel.val 0

/-- The packets that the accepted flits make up, one after another. -/
def takePackets (s : State) (port : Nat) : List RyPacket → State
  | [] => s
  | p :: r =>
    let x := getPort s port
    if goodPacket s x p && p.flits.isPrefixOf x.received then
      takePackets (routePacket (modPort s port fun x => { x with received := x.received.drop p.flits.length }) port p) port r
    else s

/-- The partner asks for a unit again: it goes once more, sealed as it was. -/
def resend (x : Port) (n : BitVec 16) : Port :=
  match x.wire.reverse.find? fun u => u.pseq == n with
  | some u => { x with wire := x.wire ++ [u] }
  | none => x

/-- What an accepted unit brings. -/
def noteFlits (s : State) (p : Nat) (u : WireUnit) : FlitNote → State
  | .none => s
  | .packets ps => takePackets s p ps
  | .resend n => if u.kind0 = 1 || u.kind1 = 1 then modPort s p fun x => resend x n else s

/-- A sealed unit: the due one is opened, an earlier one is a repetition and dropped, a later one shows the due one lost. -/
def sealedUnit (s : State) (p : Nat) (u : WireUnit) (note : FlitNote) : State :=
  let x := getPort s p
  match x.inn.key with
  | none => s
  | some k =>
    if !x.up || x.inn.keywait then s
    else if u.pseq = dueSeq x.inn then
      match Config.gcmOpen k (linkVector x.inn.salt x.inn.counter) (linkHeader u) u.cipher u.tag with
      | some plain => noteFlits (modPort s p fun x => acceptUnit x u plain) p u note
      | none => damagedUnit s p u.pseq
    else if (u.pseq - dueSeq x.inn).toNat < 2 ^ 15 then modPort s p fun x => askAgain x (dueSeq x.inn)
    else s

/-- A plain unit carries key-installation control flits and idle flits alone. -/
def plainUnit (s : State) (p : Nat) (u : WireUnit) : State :=
  if (u.kind0 = 1 || u.kind0 = 2) && (u.kind1 = 1 || u.kind1 = 2) && u.tag = 0 then s else damagedUnit s p u.pseq

/-- FLIT_RECEIVE. -/
def execFlitReceive (port : Fin 30) (unit : WireUnit) (note : FlitNote) (s : State) : Host.Outcome State Fault Refusal :=
  if !portUsed s.hub port.val then .next s
  else .next (if unit.sealed then sealedUnit s port.val unit note else plainUnit s port.val unit)

/-! ## Sending control flits -/

/-- The CTL channel's place in Table 21.1; a control flit goes one hop. -/
def ctlChannel : Nat := 3

/-- A control flit may leave: the link runs and has room on CTL. -/
def mayControl (x : Port) : Bool := mayLeave x ctlChannel 1 1

/-- A control flit of its kind is in flight on CTL. -/
def countControl (x : Port) : Port :=
  let key := classKey ctlChannel 1
  { x with inFlight := setAt x.inFlight ctlChannel (x.inFlight.getD ctlChannel 0 + 1),
           inClass := setAt x.inClass key (x.inClass.getD key 0 + 1) }

/-- A control flit leaves, its pair completed with an idle flit; no rule gives its layout. -/
def sendControl (flit : BitVec 512) (x : Port) (f : LinkCtl) : Port :=
  countControl { sendPair x 1 2 flit 0 with ctlSent := x.ctlSent ++ [f] }

/-- A port's move that sends a control flit. -/
def controlMove (s : State) (p : Nat) (f : BitVec 512 → Port → Port) : State :=
  bumpFree (modPort s p (f (Config.packetFlit s.freeCtr 0)))

/-- Packets and credits that a link may carry again go. -/
def restartLink (s : State) (p : Nat) : State :=
  let s1 := bumpFree (modPort s p fun x =>
    x.ctlQ.foldl (sendCredit (Config.packetFlit s.freeCtr 0)) (sendFlits { x with ctlQ := [], cutOff := [] } x.cutOff))
  pump (retryRoutes s1) p

/-! ## Elastic buffer lending (R395) -/

/-- Limits that a receiver may announce: six of at least 8, together at most 256. -/
def goodLimits (l : List Nat) : Bool := decide (l.length = 6) && l.all (8 ≤ ·) && decide (l.sum ≤ 256)

/-- Limits in proportion to the occupancy, with the floor of 8. -/
def proportional (occ : List Nat) : List Nat := occ.map fun o => 8 + 208 * o / max 1 occ.sum

/-- Freed space joins the pool once its LEND is acknowledged and the channel has drained below its new limit. -/
def reclaim (x : Port) (occ : List Nat) : Port :=
  let done := fun (w : LendWait) => w.acked && decide (occ.getD w.channel 0 < w.limit)
  { x with pool := x.pool + ((x.waiting.filter done).map (·.freed)).sum, waiting := x.waiting.filter fun w => !done w }

/-- Channel by channel: a lower target frees flits, a higher one takes from the pool as far as it goes. -/
def lendChannels (seq : Nat) : Nat → List Nat → List Nat → Nat → List Nat × List LendWait × Nat
  | ch, old :: os, new :: ns, pool =>
    if new < old then
      let r := lendChannels seq (ch + 1) os ns pool
      (new :: r.1, { seq := seq, channel := ch, limit := new, freed := old - new, acked := false } :: r.2.1, r.2.2)
    else
      let up := min (new - old) pool
      let r := lendChannels seq (ch + 1) os ns (pool - up)
      ((old + up) :: r.1, r.2)
  | _, _, _, pool => ([], [], pool)

/-- The receiver's LEND for its buffer's occupancy. -/
def lend (flit : BitVec 512) (x0 : Port) : Port :=
  let occ := occupancies x0
  let x := reclaim x0 occ
  let target := if occ.sum = 0 then x.announced else proportional occ
  let r := lendChannels x.lendSeq 0 x.announced target x.pool
  sendControl flit { x with announced := r.1, waiting := x.waiting ++ r.2.1, pool := r.2.2, lendSeq := x.lendSeq + 1 }
    (.lend x.lendSeq r.1)

/-- LEND_PERIOD. -/
def execLendPeriod (port : Fin 30) (s : State) : Host.Outcome State Fault Refusal :=
  if mayControl (getPort s port.val) then .next (controlMove s port.val lend) else .next s

/-- A LEND at the sender: applied unless a newer one has been, acknowledged in any case. -/
def applyLend (seq : Nat) (limits : List Nat) (flit : BitVec 512) (x : Port) : Port :=
  let stale := match x.lendApplied with | some n => decide (seq < n) | none => false
  sendControl flit (if stale then x else { x with limits := limits, lendApplied := some seq }) (.ack seq)

/-- LEND_RECEIVED: with higher limits, packets that wait may go. -/
def execLendReceived (port : Fin 30) (seq : Nat) (limits : List Nat) (s : State) : Host.Outcome State Fault Refusal :=
  if goodLimits limits && mayControl (getPort s port.val) then
    .next (pump (controlMove s port.val (applyLend seq limits)) port.val)
  else .next s

/-- The acknowledgement of a LEND reaches the receiver that sent it. -/
def ackLend (seq : Nat) (x : Port) : Port :=
  reclaim { x with waiting := x.waiting.map fun w => if w.seq = seq then { w with acked := true } else w } (occupancies x)

/-- LEND_ACK_RECEIVED. -/
def execLendAckReceived (port : Fin 30) (seq : Nat) (s : State) : Host.Outcome State Fault Refusal :=
  let x := getPort s port.val
  if x.up && decide (seq < x.lendSeq) then .next (modPort s port.val (ackLend seq)) else .next s

/-- One flit of a channel and class is credited. -/
def takeCredit (channel cls : Nat) (x : Port) : Port :=
  let key := classKey channel (cls + 1)
  { x with inFlight := setAt x.inFlight channel (x.inFlight.getD channel 0 - 1), inClass := setAt x.inClass key (x.inClass.getD key 0 - 1) }

/-- CREDIT_RETURN: a flit of a channel and hop class (one less than its number) has left the partner's buffer. -/
def execCreditReturn (port : Fin 30) (channel : Fin 6) (cls : Fin 4) (s : State) : Host.Outcome State Fault Refusal :=
  let x := getPort s port.val
  if x.up && decide (0 < x.inFlight.getD channel.val 0) && decide (0 < x.inClass.getD (classKey channel.val (cls.val + 1)) 0) then
    .next (pump (modPort s port.val (takeCredit channel.val cls.val)) port.val)
  else .next s

/-! ## Keys (R398, R399, R429) -/

/-- LINK_KEYWAIT's record: R399 gives its code, source, ASID and cursor; the rest is free. -/
def keywaitRecord (s : State) (p : Nat) : FaultRecord :=
  { strayRecord s 5 (s.hub.modRow.toNat * 2 ^ 12 + s.hub.modCol.toNat * 2 ^ 8 + p) 0 with
    code := BitVec.ofNat 8 cLINK_KEYWAIT, cursor := BitVec.ofNat 64 lastPair }

/-- The last pair of a key may go: the direction runs, and CTL has room. -/
def mayEndKey (x : Port) : Bool :=
  x.up && x.out.key.isSome && !x.out.keywait && decide (x.out.counter = lastPair) &&
  decide (x.inFlight.getD ctlChannel 0 < x.limits.getD ctlChannel 0)

/-- The sender's last pair: the switch to the next key, or the end of the key. -/
def lastPairSent (s : State) (p : Nat) : State :=
  match (getPort s p).out.nextKey with
  | some k =>
    restartLink (controlMove s p fun flit x =>
      let y := sendControl flit x .keySwitch
      { y with out := { y.out with key := some k.1, salt := k.2, nextKey := none, counter := 0 } }) p
  | none =>
    let s1 := controlMove s p fun flit x =>
      let y := sendControl flit x (.keyFinal lastPair)
      { y with out := { y.out with keywait := true } }
    settleRoutes (bump6 (pushRecord s1 (keywaitRecord s1 p)))

/-- KEY_SWITCH. -/
def execKeySwitch (port : Fin 30) (s : State) : Host.Outcome State Fault Refusal :=
  if mayEndKey (getPort s port.val) then .next (lastPairSent s port.val) else .next s

/-- A key for one direction: the next key of a direction that runs, otherwise its key from counter 0. -/
def installKey (up : Bool) (d : LinkDir) (key : BitVec 256) (salt : BitVec 48) : LinkDir :=
  if up && d.key.isSome && !d.keywait then { d with nextKey := some (key, salt) }
  else { key := some key, salt := salt, nextKey := none, counter := 0, keywait := false }

/-- LINK_KEY_INSTALL. -/
def execLinkKeyInstall (port : Fin 30) (sending : Bool) (key : BitVec 256) (salt : BitVec 48) (s : State) :
    Host.Outcome State Fault Refusal :=
  if portUsed s.hub port.val && !s.hub.outPorts.contains port.val then
    if sending then .next (restartLink (modPort s port.val fun x => { x with out := installKey x.up x.out key salt }) port.val)
    else .next (modPort s port.val fun x => { x with inn := installKey x.up x.inn key salt })
  else .next s

/-! ## Capability vectors (R397) -/

/-- The bits of Table 21.3 that are not reserved: what a G980 advertises. -/
def capabilityMask : Word32 := 0x03FF1FFF

/-- A module of the domain. -/
def inDomain (h : Hub) (m : Nat) : Bool := decide (m / 16 ≤ h.rowsM1.toNat) && decide (m % 16 ≤ h.colsM1.toNat)

/-- The vectors that this hub holds, its own among them. -/
def knownCaps (s : State) : List (Nat × Word32) := (ownModule s, capabilityMask) :: s.hub.caps

/-- The modules of the ports that work. -/
def partners (s : State) : List Nat :=
  ((upFrom 0 30).filter (portOpen s)).map fun p => let q := partnerOf s.hub p; q.1 * 16 + q.2

/-- A hub relays a vector that is new to it to its partners over CTL. -/
def relayCaps (s : State) (module : Nat) (vec : Word32) : State :=
  if tfind s.hub.caps module = some vec then s
  else tellModules s ((partners s).filter (· ≠ module)) (.capability module vec)

/-- CAPABILITY_RELAY: a vector comes from a partner at training, or over CTL. -/
def execCapabilityRelay (module : Nat) (vec : Word32) (s : State) : Host.Outcome State Fault Refusal :=
  if inDomain s.hub module && module ≠ ownModule s then
    let v := vec &&& capabilityMask
    .next (modHub (relayCaps s module v) fun h => { h with caps := tput h.caps module v })
  else .next s

end Sys2Proof.Machine
end

