-- ==== Sys2Proof/Machine/Device.lean ====
section
/-! DEFINITION. The module as a device: power, bring-up and its journal (R423, R424), marked-out units and the beacon (R425,
R426), firmware verification and attestation (R427, R428), throttling (R430), RDMA writes (R374) and checkpoints (R342). -/

namespace Sys2Proof.Machine

/-! ## The boot journal (R424, Table 23.2) -/

/-- One bit of CRC-32, reflected (IEEE 802.3). -/
def crcBit (c : Nat) : Nat := if c % 2 = 1 then (c / 2) ^^^ 0xEDB88320 else c / 2

def crcByte (c : Nat) (b : Byte) : Nat :=
  (upFrom 0 8).foldl (fun c _ => crcBit c) (c ^^^ b.toNat)

/-- CRC-32 of a byte string. -/
def crc32 (bs : List Byte) : Nat := bs.foldl crcByte 0xFFFFFFFF ^^^ 0xFFFFFFFF

/-- The first n bytes of a bit vector, byte 0 lowest. -/
def bytesOf {w : Nat} (v : BitVec w) (n : Nat) : List Byte := (upFrom 0 n).map fun i => BitVec.ofNat 8 (elemAt v 8 i)

/-- OUTCOME values. -/
def oPASSED : Nat := 0
def oFAILED : Nat := 1
def oSKIPPED : Nat := 2
def oPASSED1 : Nat := 3

def recStep (r : BootRecord) : Nat := bits r 7 0
def recOutcome (r : BootRecord) : Nat := bits r 15 8
def recUnit (r : BootRecord) : Nat := bits r 31 16
def recBoot (r : BootRecord) : Nat := bits r 95 64

/-- The record's CRC matches its bytes 0 to 27. -/
def recValid (r : BootRecord) : Bool := bits r 255 224 == crc32 (bytesOf r 28)

/-- A record. -/
def makeRecord (step outcome unit paramset boot detail : Nat) (time : Word) : BootRecord :=
  let body : BitVec 256 := BitVec.ofNat 256 (step + outcome * 2 ^ 8 + unit * 2 ^ 16 + paramset * 2 ^ 32 + boot * 2 ^ 64 +
    detail * 2 ^ 96 + time.toNat * 2 ^ 128)
  body ||| BitVec.ofNat 256 (crc32 (bytesOf body 28) * 2 ^ 224)

/-- Records that the ring holds. -/
def journalSize : Nat := 32768

/-- A service core writes a record; a full ring loses its oldest. -/
def journalWrite (s : State) (step outcome unit paramset detail : Nat) : State :=
  let r := makeRecord step outcome unit paramset s.hub.bootNo.toNat detail (s.dtc - s.dtcShift)
  modHub s fun h =>
    { h with bootJournal := (if h.bootJournal.length < journalSize then h.bootJournal else h.bootJournal.drop 1) ++ [r] }

/-- The most recent valid record of a unit of a step. -/
def lastRecord (h : Hub) (step unit : Nat) : Option BootRecord :=
  h.bootJournal.reverse.find? fun r => recValid r && recStep r == step && recUnit r == unit

/-- Its OUTCOME. -/
def lastOutcome (h : Hub) (step unit : Nat) : Option Nat := (lastRecord h step unit).map recOutcome

/-- A unit is resolved in this boot: passed, or skipped. -/
def unitResolved (h : Hub) (step unit : Nat) : Bool :=
  match lastRecord h step unit with
  | some r => recBoot r == h.bootNo.toNat && recOutcome r != oFAILED
  | none => false

/-! ## Marked-out units and the beacon (R425, R426) -/

/-- Mark a unit of a step of Table 23.1 out. -/
def markOut (s : State) (step unit : Nat) : State :=
  let add := fun (l : List Nat) => if l.contains unit then l else l ++ [unit]
  modHub s fun h =>
    match step with
    | 3 => { h with outMem := add h.outMem }
    | 4 => { h with outLinks := add h.outLinks }
    | 5 => { h with outEther := add h.outEther }
    | 6 => { h with outPorts := add h.outPorts }
    | 7 => { h with outClusters := add h.outClusters }
    | _ => h

/-- The beacon state of Table 23.3 but FAILED. -/
def beaconState (h : Hub) : Nat :=
  if 16 < h.outClusters.length ∨ h.outMem ≠ [] ∨ h.outLinks ≠ [] ∨ 2 ≤ h.outEther.length ∨ 4 < h.outPorts.length then 2
  else if h.outClusters ≠ [] ∨ h.outEther ≠ [] ∨ h.outPorts ≠ [] then 1
  else 0

/-- BEACON's value: the counts as they are, the state only rising. -/
def beaconWord (h : Hub) (state : Nat) : Word :=
  BitVec.ofNat 64 (max state (bits h.beacon 1 0) + h.outMem.length % 32 * 2 ^ 3 + h.outPorts.length % 256 * 2 ^ 8 +
    h.outClusters.length % 1024 * 2 ^ 16)

/-- BEACON_UPDATE: a new value is published in BEACON and on CTL to every hub of the domain; FAILED only through the host management
path (Table 23.3). -/
def updateBeacon (s : State) (state : Nat) : State :=
  let v := beaconWord s.hub state
  let s1 := modHub s fun h => { h with beacon := v }
  if v = s.hub.beacon ∨ bits v 1 0 = 3 then s1 else tellModules s1 (otherModules s.hub) (.beacon v)

/-- RUNTIME_MARK_OUT: the step of Table 23.1 that a unit belongs to, and its number. -/
def outPlace : OutUnit → Nat × Nat
  | .cluster n => (7, n)
  | .port n => (6, n)

/-- A FAILED record, and the rule of R425 at once. -/
def runtimeMark (s : State) (unit : OutUnit) (detail : Word32) : State :=
  let p := outPlace unit
  let s1 := markOut (journalWrite s p.1 oFAILED p.2 0 detail.toNat) p.1 p.2
  let s2 := match unit with
    | .port n => portDown s1 n
    | .cluster _ => s1
  updateBeacon s2 (beaconState s2.hub)

/-- RUNTIME_MARK_OUT. -/
def execRuntimeMarkOut (unit : OutUnit) (detail : Word32) (s : State) : Host.Outcome State Fault Refusal :=
  if s.hub.bootStep = 9 then .next (runtimeMark s unit detail) else .next s

/-- JOURNAL_ERASE. -/
def execJournalErase (s : State) : Host.Outcome State Fault Refusal := .next (modHub s fun h => { h with bootJournal := [] })

/-! ## Power (R423, R424) -/

/-- What a module keeps without power: its flash, its place in the domain and its key store; all the rest is as after reset. The
model's own agenda and counters go on. -/
def withoutPower (s : State) (journal : List BootRecord) : State :=
  { State.reset with
    power := false, agenda := s.agenda, freeCtr := s.freeCtr
    hub := { Hub.reset with flash := s.hub.flash, bootJournal := journal, bootNo := s.hub.bootNo, modRow := s.hub.modRow,
                            modCol := s.hub.modCol, rowsM1 := s.hub.rowsM1, colsM1 := s.hub.colsM1, devid := s.hub.devid } }

/-- The record being written has a CRC that does not match. -/
def spoilLast (j : List BootRecord) : List BootRecord :=
  setAt j (j.length - 1) (j.getD (j.length - 1) 0 ^^^ BitVec.ofNat 256 (2 ^ 224))

/-- POWER_OFF. -/
def execPowerOff (badCrc : Bool) (s : State) : Host.Outcome State Fault Refusal :=
  .next (withoutPower s (if badCrc then spoilLast s.hub.bootJournal else s.hub.bootJournal))

/-- POWER_ON: step 1 of Table 23.1 begins, with the boot count one higher. -/
def execPowerOn (s : State) : Host.Outcome State Fault Refusal :=
  if s.power then .next s
  else .next { s with power := true, hub := { s.hub with bootNo := s.hub.bootNo + 1, bootStep := 1 } }

/-! ## Firmware verification (R427) -/

/-- Every image of a slot verifies; an entry left empty has nothing to verify, a slot that holds nothing fails. -/
def slotVerifies (h : Hub) (k : Nat) : Bool :=
  match h.flash[k]? with
  | some b => b.images.length == 8 && b.images.all fun i => i.isEmpty || Config.imageVerifies Config.rootKeyDigest i
  | none => false

/-- The digest of an image; 32 zero bytes for an empty one. -/
def imageDigest (i : List Byte) : BitVec 256 := if i.isEmpty then 0 else Config.sha256 i

/-- MEASi ← SHA-256(MEASi ‖ d). -/
def extendMeas (m d : BitVec 256) : BitVec 256 := Config.sha256 (bytesOf m 32 ++ bytesOf d 32)

/-- The measurement registers after a slot has passed. -/
def measured (h : Hub) (k : Nat) : Vector (BitVec 256) 8 :=
  let imgs := match h.flash[k]? with | some b => b.images | none => []
  vecOfList 8 0 ((upFrom 0 8).map fun i => extendMeas (h.meas.toList.getD i 0) (imageDigest (imgs.getD i [])))

/-- The slot that passed. -/
def bootFrom (s : State) (k : Nat) : State := modHub s fun h => { h with bootSlot := some k, meas := measured h k, bootStep := 3 }

/-- Bring-up stops: beacon FAILED, no further step. -/
def stopBoot (s : State) : State := updateBeacon (modHub s fun h => { h with bootStep := 0 }) 3

/-! ## Bring-up steps (Table 23.1) -/

/-- An attempt's report: unit, whether it passed, and the failure code. -/
abbrev Attempt := Nat × Bool × Word32

/-- The failure code reported for a unit. -/
def detailOf (l : List Attempt) (unit : Nat) : Nat :=
  match l.find? fun a => a.1 == unit with
  | some a => a.2.2.toNat
  | none => 0

/-- The units that steps 3 to 7 have on this module: an unused Ryoft port is none. -/
def stepUnits (h : Hub) (step : Nat) : List Nat :=
  match step with
  | 3 => upFrom 0 16
  | 4 => upFrom 0 10
  | 5 => upFrom 0 2
  | 6 => (upFrom 0 30).filter (portUsed h)
  | 7 => upFrom 0 512
  | _ => []

/-- Units that an earlier boot skipped are skipped again and marked out. -/
def skipAgain (step : Nat) (s : State) (unit : Nat) : State :=
  if lastOutcome s.hub step unit = some oSKIPPED ∧ !unitResolved s.hub step unit then
    markOut (journalWrite s step oSKIPPED unit 1 0) step unit
  else s

/-- A port comes up with the keys that step 6 installed; its partner learns this module's capability vector and those that are held here
(R397). -/
def portComesUp (s : State) (p : Nat) : State :=
  let q := partnerOf s.hub p
  let m := q.1 * 16 + q.2
  ((knownCaps s).filter fun e => e.1 ≠ m).foldl (fun s e => sendCtl s m (.capability e.1 e.2))
    (restartLink (modPort s p fun x => { x with up := true }) p)

/-- A unit has passed. -/
def unitPassed (s : State) (step unit paramset : Nat) : State :=
  let s1 := journalWrite s step (if paramset = 0 then oPASSED else oPASSED1) unit paramset 0
  if step = 6 then portComesUp s1 unit else s1

/-- A port's training includes the installation of both keys. -/
def maySucceed (s : State) (step unit : Nat) : Bool :=
  step != 6 || ((getPort s unit).out.key.isSome && (getPort s unit).inn.key.isSome)

/-- One attempt of steps 3 to 7: PARAMSET 1 after a FAILED record, and SKIPPED when that fails as well (R424). -/
def trainUnit (step : Nat) (s : State) (a : Attempt) : State :=
  if !(stepUnits s.hub step).contains a.1 || unitResolved s.hub step a.1 then s
  else
    let paramset := if lastOutcome s.hub step a.1 = some oFAILED then 1 else 0
    if a.2.1 && maySucceed s step a.1 then unitPassed s step a.1 paramset
    else if paramset = 0 then journalWrite s step oFAILED a.1 0 a.2.2.toNat
    else markOut (journalWrite s step oSKIPPED a.1 1 a.2.2.toNat) step a.1

/-- A step of units ends when each of them is resolved. -/
def trainUnits (s : State) (step : Nat) (l : List Attempt) : State :=
  let s1 := (stepUnits s.hub step).foldl (skipAgain step) s
  let s2 := l.foldl (trainUnit step) s1
  let s3 := if (stepUnits s2.hub step).all (unitResolved s2.hub step) then modHub s2 fun h => { h with bootStep := step + 1 } else s2
  updateBeacon s3 (beaconState s3.hub)

/-- DTC is synchronised across the domain as ports of step 6 come up; the nanoseconds since reset go on. -/
def syncDtc (s : State) (t : Word) : State := { s with dtc := t, dtcShift := s.dtcShift + (t - s.dtc) }

/-- Step 2: slot 0, then slot 1. -/
def verifyFirmware (s : State) (l : List Attempt) : State :=
  if slotVerifies s.hub 0 then bootFrom (journalWrite s 2 oPASSED 0 0 0) 0
  else
    let s1 := journalWrite s 2 oFAILED 0 0 (detailOf l 0)
    if slotVerifies s.hub 1 then bootFrom (journalWrite s1 2 oPASSED 1 0 0) 1
    else stopBoot (journalWrite s1 2 oFAILED 1 0 (detailOf l 1))

/-- BRINGUP_STEP: the reports of attempts that a step has made, in order. -/
def bringup (s : State) (l : List Attempt) (sync : Option Word) : State :=
  match s.hub.bootStep with
  | 1 =>
    if l.any fun a => a.1 == 0 && a.2.1 then modHub (journalWrite s 1 oPASSED 0 0 0) fun h => { h with bootStep := 2 }
    else stopBoot (journalWrite s 1 oFAILED 0 0 (detailOf l 0))
  | 2 => verifyFirmware s l
  | 6 =>
    let s1 := trainUnits s 6 l
    match sync with
    | some t => if (upFrom 0 30).any (portOpen s1) then syncDtc s1 t else s1
    | none => s1
  | 8 => modHub (journalWrite s 8 oPASSED 0 0 0) fun h => { h with bootStep := 9 }
  | n => if 3 ≤ n ∧ n ≤ 7 then trainUnits s n l else s

/-- BRINGUP_STEP. -/
def execBringupStep (outcomes : List (Nat × Bool × Word32)) (sync : Option Word) (s : State) : Host.Outcome State Fault Refusal :=
  .next (bringup s outcomes sync)

/-- Bytes that come to memory from outside the cells are written in order at their homes; where no memory is, the access has no effect
and the error has no requester (R411, R425; log 90). -/
def outsideWrite (s : State) (pa : Nat) (bytes : List Byte) : State :=
  if bytes.isEmpty then s
  else if populated s pa bytes.length then homeWriteBytes s (physKey s pa) bytes
  else strayError s

/-! ## Attestation (R428) -/

/-- Bytes 0 to 303 of the quote (Table 23.4). -/
def quoteBody (h : Hub) (nonce : BitVec 256) : List Byte :=
  bytesOf h.devid 8 ++ bytesOf nonce 32 ++ h.meas.toList.flatMap (fun m => bytesOf m 32) ++ bytesOf h.bootNo 4 ++
    bytesOf h.beacon 4

/-- The whole quote. -/
def quoteBytes (h : Hub) (nonce : BitVec 256) : List Byte :=
  quoteBody h nonce ++ bytesOf (Config.identitySign (Config.sha256 (quoteBody h nonce))) 384

/-- ATTESTATION_QUOTE: on firmware that step 2 has started. -/
def execAttestationQuote (nonce : BitVec 256) (pa : Nat) (s : State) : Host.Outcome State Fault Refusal :=
  if s.hub.bootSlot.isNone then .next s
  else .next (outsideWrite s pa (quoteBytes s.hub nonce))

/-! ## Throttling (R430) -/

/-- One step of 100 MHz down, or up again, between 1.2 and 2.7 GHz. -/
def nextFreq (f : BitVec 16) (overLimit : Bool) : BitVec 16 :=
  if overLimit then (if f.toNat < 1300 then 1200 else f - 100) else if 2600 < f.toNat then 2700 else f + 100

/-- PWRLIM's limit in watts: a value above 2,400 acts as 2,400 (Table 23.5). -/
def powerLimit (h : Hub) : Nat := min 2400 (bits h.pwrlim 11 0)

/-- THROTTLE_STEP: the module's power averaged over the last millisecond, and whether the die has reached its temperature limit. -/
def execThrottleStep (die : Fin 5) (watts : Nat) (hot : Bool) (s : State) : Host.Outcome State Fault Refusal :=
  let overLimit := decide (powerLimit s.hub < watts) || hot
  if die.val = 4 then
    .next (modHub s fun h =>
      let f := nextFreq h.hubFreq overLimit
      { h with hubFreq := f, hubThrottled := overLimit || decide (f ≠ 2700) })
  else
    .next (modDie s die.val fun d =>
      let f := nextFreq d.freq overLimit
      { d with freq := f, throttled := overLimit || decide (f ≠ 2700) })

/-! ## Ethernet (R342, R374) -/

/-- An Ethernet port works. -/
def etherPortUp (h : Hub) (p : Nat) : Bool := decide (5 < h.bootStep) && !h.outEther.contains p
def etherUp (h : Hub) : Bool := etherPortUp h 0 || etherPortUp h 1

/-- ETHERNET_RDMA_WRITE: by a host through a port, or as a service core's own store, which its registration here publishes (R192,
R374). -/
def execEthernetRdmaWrite (pa : Nat) (bytes : List Byte) (core : Option (Fin 4)) (s : State) : Host.Outcome State Fault Refusal :=
  if (core.isSome && s.hub.bootSlot.isSome) || (core.isNone && etherUp s.hub) then .next (outsideWrite s pa bytes) else .next s

/-- The module is quiesced: every launch has retired or is evicted. -/
def quiesced (s : State) : Bool := s.hub.launches.all fun e => e.2.evicted

/-- Every committed store has registered and propagated. -/
def storesDone (s : State) : Bool :=
  s.cells.all (fun k => k.2.regq.isEmpty && k.2.amos.isEmpty) && s.gwq.all fun q => q.2.all fun e => (entryOrigin e).isNone

/-- The bytes of one RDMA WRITE of a checkpoint: a path MTU (R342). -/
def checkpointChunk : Nat := 4096

/-- A cluster's engine reads a chunk of memory, and it leaves by an Ethernet port as RDMA WRITE traffic. -/
def streamChunk (s : State) (pa : Nat) (port : Nat) : State :=
  let bytes := readBytes s.mem (physKey s pa) checkpointChunk
  modHub s fun h => { h with checkpoint := h.checkpoint ++ [(port, pa, bytes)] }

/-- CHECKPOINT_STREAM: of a quiesced module, once every store committed before that is in memory; which part a cluster's engine reads is
not given. -/
def execCheckpointStream (cluster pa : Nat) (port : Fin 2) (s : State) : Host.Outcome State Fault Refusal :=
  if quiesced s && storesDone s && s.hub.bootStep = 9 && etherPortUp s.hub port.val && cluster < 512 &&
      !s.hub.outClusters.contains cluster && pa % checkpointChunk = 0 then
    .next (if populated s pa checkpointChunk then streamChunk s pa port.val else strayError s)
  else .next s

end Sys2Proof.Machine
end

