-- ==== Sys2Proof/Machine/Memory.lean ====
section
/-! DEFINITION. Loads and stores (R151 to R153) and prefetch (R156). -/

namespace Sys2Proof.Machine

/-- A load instruction (R152). -/
def loadInstr (base : Reg) (scale : Nat) (off : Imm 9) (dest : Dest) (acq : Bool) (s : State) : Host.Outcome State Fault Refusal :=
  issueOp s (lenImm off) do loadOp s.cur dest acq (← effAddr s.cur base scale off)

/-- A store instruction of the low n bytes of a value (R153). -/
def storeInstr (value : X Word) (base : Reg) (n : Nat) (off : Imm 9) (ord : StOrder) (s : State) :
    Host.Outcome State Fault Refusal :=
  issueOp s (lenImm off) do
    let v ← value
    storeOp s.cur ord n (← effAddr s.cur base n off) v.toNat

/-- LD.B (Table 2.9). -/
def execLdB (d base : Reg) (off : Imm 9) (acq : Bool) (s : State) : Host.Outcome State Fault Refusal :=
  loadInstr base 1 off (.x d 1 true) acq s

/-- LD.H (Table 2.9). -/
def execLdH (d base : Reg) (off : Imm 9) (acq : Bool) (s : State) : Host.Outcome State Fault Refusal :=
  loadInstr base 2 off (.x d 2 true) acq s

/-- LD.W (Table 2.9). -/
def execLdW (d base : Reg) (off : Imm 9) (acq : Bool) (s : State) : Host.Outcome State Fault Refusal :=
  loadInstr base 4 off (.x d 4 true) acq s

/-- LD.D (Table 2.9). -/
def execLdD (d base : Reg) (off : Imm 9) (acq : Bool) (s : State) : Host.Outcome State Fault Refusal :=
  loadInstr base 8 off (.x d 8 false) acq s

/-- LD.BU (Table 2.9). -/
def execLdBu (d base : Reg) (off : Imm 9) (acq : Bool) (s : State) : Host.Outcome State Fault Refusal :=
  loadInstr base 1 off (.x d 1 false) acq s

/-- LD.HU (Table 2.9). -/
def execLdHu (d base : Reg) (off : Imm 9) (acq : Bool) (s : State) : Host.Outcome State Fault Refusal :=
  loadInstr base 2 off (.x d 2 false) acq s

/-- LDF.W (Table 2.9). -/
def execLdfW (d base : Reg) (off : Imm 9) (acq : Bool) (s : State) : Host.Outcome State Fault Refusal :=
  loadInstr base 4 off (.f d 4) acq s

/-- LDF.D (Table 2.9). -/
def execLdfD (d base : Reg) (off : Imm 9) (acq : Bool) (s : State) : Host.Outcome State Fault Refusal :=
  loadInstr base 8 off (.f d 8) acq s

/-- ST.B (Table 2.9). -/
def execStB (r base : Reg) (off : Imm 9) (ord : StOrder) (s : State) : Host.Outcome State Fault Refusal :=
  storeInstr (getX s.cur r) base 1 off ord s

/-- ST.H (Table 2.9). -/
def execStH (r base : Reg) (off : Imm 9) (ord : StOrder) (s : State) : Host.Outcome State Fault Refusal :=
  storeInstr (getX s.cur r) base 2 off ord s

/-- ST.W (Table 2.9). -/
def execStW (r base : Reg) (off : Imm 9) (ord : StOrder) (s : State) : Host.Outcome State Fault Refusal :=
  storeInstr (getX s.cur r) base 4 off ord s

/-- ST.D (Table 2.9). -/
def execStD (r base : Reg) (off : Imm 9) (ord : StOrder) (s : State) : Host.Outcome State Fault Refusal :=
  storeInstr (getX s.cur r) base 8 off ord s

/-- STF.W (Table 2.9). -/
def execStfW (r base : Reg) (off : Imm 9) (ord : StOrder) (s : State) : Host.Outcome State Fault Refusal :=
  storeInstr (getF s.cur r) base 4 off ord s

/-- STF.D (Table 2.9). -/
def execStfD (r base : Reg) (off : Imm 9) (ord : StOrder) (s : State) : Host.Outcome State Fault Refusal :=
  storeInstr (getF s.cur r) base 8 off ord s

/-- The leaf under which a prefetch reads a line: from the TLB, or by a walk that leaves nothing behind (R92, R156). -/
def prefetchLeaf (s : State) (c : CtxId) (va : Word) : Option (Nat × Word) :=
  let asid := (getCtx s c).ident.asid
  if isLocal va || isWindow va then none
  else
    match (if canonical va then tlbFind (getCluster s (clusterOf c.cell)) asid va kRead else none) with
    | some e => some (leafKey s e.pte (leafPa e.pte va e.block), e.pte)
    | none =>
      match walk s asid va kRead with
      | .ok pa e _ _ => some (leafKey s e pa, e)
      | _ => none

/-- The request of Table 6.8: the line's home slice or gateway cache looks it up; hint 0 fills it into the cluster's CACHE banks too;
hint 2 leaves it at RRPV 0, as a look-up that hits does. PREF does not wait for a miss entry, and takes no place from a line of which the
module holds copies, since later loads are to find their source as without it: there it requests nothing (log 32). -/
def prefetchLine (s : State) (c : CtxId) (va : Word) (hint : Fin 3) : State :=
  match prefetchLeaf s c va with
  | none => s
  | some (a, pte) =>
    if keyModule a = ownModule s && foldedAway s.hub.outMem (keyPa a) then s
    else if sliceBusy s a || fabDisplaces s a (pteNoalloc pte) then s
    else
      let cl := clusterOf c.cell
      let once := touchHome s (dieOf c.cell) a 0 (pteNoalloc pte)
      if hint = 0 && !clusterHolds (getCluster s cl) a then fillCluster once cl a (pteNoalloc pte)
      else if hint = 2 && !pteNoalloc pte then touchHome once (dieOf c.cell) a 0 false
      else once

/-- PREF makes no move of the ordering machine; it neither stalls nor faults (R156). The base register is read as it stands, and
no request is made while a load into it is outstanding (log 32). -/
def execPref (a : Reg) (off : Imm 9) (hint : Fin 3) (s : State) : Host.Outcome State Fault Refusal :=
  issueOp s (lenImm off) do
    let x ← ctx s.cur
    if !x.loads.any (pendsX a) then modify fun t => prefetchLine t s.cur (xVal x a + immVal 1 off) hint

end Sys2Proof.Machine
end

