-- ==== Sys2Proof/Machine/Messages.lean ====
section
/-! DEFINITION. Messages, sections, strands, barriers and launches (R170 to R186). -/

namespace Sys2Proof.Machine

/-! ## Messages (R172 to R176) -/

/-- ILLEGAL_OP from a descriptor carries descriptor bits 31:0 (R188). -/
def illegalDesc {α : Type} (desc : Word) : X α :=
  trapWith { code := cILLEGAL_OP, cursor := BitVec.ofNat 64 (bits desc 31 0) }

def descClass (desc : Word) : Nat := bits desc 13 8
def descLen (desc : Word) : Nat := bits desc 7 3

/-- The class check of MSGOP. -/
def checkClass (desc : Word) : X Unit := do
  if descClass desc < 8 ∨ 61 < descClass desc then illegalDesc desc

/-- The trigger of a program class, or ILLEGAL_OP (R173). -/
def programTrigger (c : CtxId) : X Message := do
  match (← ctx c).trigger with
  | some t => if 8 ≤ t.stored.msg.cls ∧ t.stored.msg.cls ≤ 61 then pure t.stored.msg else illegal
  | none => illegal

/-- The destination: descriptor bits 63:24 when the field is 0, else x[a] (R172). -/
def msgDest (c : CtxId) (a : Reg) (desc : Word) : X (BitVec 40) := do
  if a = 0 then pure (BitVec.ofNat 40 (bits desc 63 24)) else pure (BitVec.ofNat 40 (← getX c a).toNat)

/-- A message of the context's own (R104, R172); SEQ and STIME come at release. -/
def ownMessage (x : Ctx) (desc : Word) (dest : BitVec 40) (payload : List Word) : Message :=
  { dest := dest, mb := Fin.ofNat 8 (bits desc 2 0), len := payload.length, cls := descClass desc, full := false,
    typ := BitVec.ofNat 8 (bits desc 23 16), sender := x.ident.root, seq := 0, stime := 0, pcoff := 0, gtid := x.ident.gtid,
    payload := payload }

/-- Payload from x[d] upward (R172). -/
def xPayload (c : CtxId) (d : Reg) (n : Nat) : X (List Word) := mapX (fun i => getX c (Fin.ofNat 32 i)) (upFrom d.val n)

/-- LEN within 16 and the payload registers within x31. -/
def checkLen (desc : Word) (d : Nat) : X Unit := do
  if 16 < descLen desc ∨ 32 < d + descLen desc then illegalDesc desc

/-- SEND (R172). -/
def execSend (now : Bool) (d a : Reg) (b : OpB) (s : State) : Host.Outcome State Fault Refusal :=
  issueOp s (lenB b) do
    let c := s.cur
    let desc ← opInt c b
    checkClass desc
    checkLen desc d.val
    let dest ← msgDest c a desc
    let p ← xPayload c d (descLen desc)
    effect c now (.send (ownMessage (← ctx c) desc dest p))

/-- SENDV (R172): the payload from an unbound w register. -/
def execSendv (now : Bool) (d a : Reg) (b : OpB) (s : State) : Host.Outcome State Fault Refusal :=
  issueOp s (lenB b) do
    let c := s.cur
    let desc ← opInt c b
    checkClass desc
    checkLen desc 0
    if (← ctx c).regs.w[d].bound.isSome then trapWith { code := cSHAPE }
    let dest ← msgDest c a desc
    let w ← readW c d
    effect c now (.send (ownMessage (← ctx c) desc dest ((rowWords w).take (descLen desc))))

/-- REPLY (R172, R173): to the SENDER of the trigger. -/
def execReply (now : Bool) (d : Reg) (b : OpB) (s : State) : Host.Outcome State Fault Refusal :=
  issueOp s (lenB b) do
    let c := s.cur
    let desc ← opInt c b
    let t ← programTrigger c
    checkClass desc
    checkLen desc d.val
    let p ← xPayload c d (descLen desc)
    effect c now (.send (ownMessage (← ctx c) desc t.sender p))

/-- The m registers as a payload of n words. -/
def mPayload (x : Ctx) (n : Nat) : List Word := x.regs.m.toList.take n

/-- FWD (R172, R174): the trigger's payload and identity to a new destination. -/
def execFwd (now : Bool) (a : Reg) (b : OpB) (s : State) : Host.Outcome State Fault Refusal :=
  issueOp s (lenB b) do
    let c := s.cur
    let desc ← opInt c b
    let t ← programTrigger c
    checkClass desc
    let dest ← msgDest c a desc
    let x ← ctx c
    let m := ownMessage x desc dest (mPayload x t.len)
    effect c now (.forward { m with sender := t.sender, seq := t.seq, gtid := t.gtid })

/-- The trigger that DEFER puts back: from a mailbox, and not yet deferred (R176). -/
def deferrable (x : Ctx) : Option Message :=
  match x.trigger with
  | some t =>
    match t.source with
    | .mailbox _ => if t.deferred then none else some t.stored.msg
    | _ => none
  | none => none

/-- DEFER (R176). -/
def execDefer (s : State) : Host.Outcome State Fault Refusal :=
  issueOp s 4 do
    let c := s.cur
    match deferrable (← ctx c) with
    | some m =>
      effect c false (.defer m)
      updCtx c fun x => { x with trigger := x.trigger.map fun t => { t with deferred := true } }
    | none => illegal

/-! ## The trigger and the mailboxes (R177, R178) -/

/-- GETM (R177). -/
def execGetm (d : Reg) (n : Fin 16) (s : State) : Host.Outcome State Fault Refusal :=
  issueOp s 4 do
    let x ← ctx s.cur
    putX s.cur d (if isStrand s.cur then 0 else x.regs.m[n])

/-- The snapshot of a mailbox (Table 7.5). -/
def mailboxStat (b : Mailbox) : Word :=
  if b.valid then
    BitVec.ofNat 64 (b.fifo.length % 512 + b.ovf.length % 2 ^ 21 * 2 ^ 9 + 2 ^ 31 + b.pass % 256 * 2 ^ 32)
  else 0

/-- MBSTAT (R178). -/
def execMbstat (d : Reg) (mb : Fin 8) (s : State) : Host.Outcome State Fault Refusal :=
  issueOp s 4 do
    let x ← ctx s.cur
    putX s.cur d (if isStrand s.cur then 0 else mailboxStat x.mailboxes[mb])

/-! ## Strands (R182 to R184) -/

/-- The home cell and module of an address (R80, R182). -/
def homeOf (c : CtxId) (va : Word) : X (Nat × Nat) := do
  if isLocal va then pure (c.cell, ownModule (← get))
  else
    let (a, _) ← translateX c va kRead 0
    pure (homeCell a, keyModule a)

/-- The home of a SPAWN's address, found once: an instruction that waits after this goes on with it. -/
def homeOnce (c : CtxId) (va : Word) : X (Nat × Nat) := do
  match (← ctx c).place with
  | some l => pure (l.addr, l.member)
  | none =>
    let h ← homeOf c va
    updCtx c fun x => { x with place := some { addr := h.1, kind := .global, pte := 0, member := h.2, leaf := none } }
    pure h

/-- COUNT_REQUEST (R183): an actor looks at its own count; a strand asks its root's cell, over CTL if that is a peer's, and waits for
the answer. -/
def countRequest (c : CtxId) : X Bool := do
  let x ← ctx c
  if !isStrand c then pure (x.strands < x.spawnlim.toNat)
  else
    match x.progress with
    | some p => pure (p.acc == [1])
    | none =>
      match x.wait with
      | .spawn w => stallWith (.spawn w)
      | _ => do
        let away := moduleOfAddr x.ident.root ≠ ownModule (← get)
        modify fun s => modHub s fun h =>
          { h with spawnReqs := h.spawnReqs ++ [{ ctx := c, root := x.ident.root, sent := away, aborted := false }] }
        if away then modify fun s => sendCtl s (moduleOfAddr x.ident.root) (.spawnRequest x.ident.asid.toNat x.ident.root)
        stallWith (.spawn none)

/-- An actor's count rises at issue (R125, R183); a strand's rose when its root's cell answered. -/
def raiseCount (c : CtxId) : X Unit := do
  if isStrand c then updSec c fun k => { k with granted := false }
  else updCtx c fun x => { x with strands := x.strands + 1, sec := { x.sec with spawned := x.sec.spawned + 1 } }

/-- The message of a new strand (R182). -/
def newStrand (x : Ctx) (home : Nat × Nat) (entry : Word) : StrandMsg :=
  let full := bit entry 0
  let regs := (upFrom 1 (if full then 16 else 8)).map fun i => xVal x (Fin.ofNat 32 i)
  let m : Message :=
    { dest := BitVec.ofNat 40 (home.2 * 2 ^ 32 + home.1), mb := 0, len := regs.length, cls := 62, full := full, typ := 0,
      sender := x.ident.root, seq := 0, stime := 0, pcoff := BitVec.ofNat 32 (bits entry 31 1 * 2), gtid := 0,
      payload := regs }
  { msg := m, asid := x.ident.asid, destCell := home.1, fstat := 0, arrival := 0, faulted := false, counted := false }

/-- The registers that a strand carries have no load outstanding. -/
def needCarried (c : CtxId) (n : Nat) : X Unit := forEach (upFrom 1 n) fun i => needX c (Fin.ofNat 32 i)

/-- SPAWN (R182). -/
def execSpawn (now : Bool) (d a : Reg) (b : OpB) (s : State) : Host.Outcome State Fault Refusal :=
  issueOp s (lenB b) do
    let c := s.cur
    needX c d
    let e ← opInt c b
    let va ← getX c a
    needCarried c (if bit e 0 then 16 else 8)
    let home ← homeOnce c va
    if ← countRequest c then
      effect c now (.spawn (newStrand (← ctx c) home e))
      raiseCount c
      putX c d 1
    else putX c d 0

/-- MIGRATE (R184), valid in a strand. -/
def execMigrate (a : Reg) (s : State) : Host.Outcome State Fault Refusal :=
  issueCommit s do
    let c := s.cur
    if !isStrand c then illegal
    let va ← getX c a
    needCarried c (if (← ctx c).ident.full then 16 else 8)
    let h ← homeOf c va
    pure (.migrate h.1 h.2)

/-- SDONE (R179), valid in a strand. -/
def execSdone (s : State) : Host.Outcome State Fault Refusal :=
  issueCommit s do
    if !isStrand s.cur then illegal
    pure .sdone

/-- HCOMMIT (R179, R180): in a strand, the carried registers go into the resumption point. -/
def execHcommit (s : State) : Host.Outcome State Fault Refusal :=
  issueCommit s do
    if isStrand s.cur then needCarried s.cur (if (← ctx s.cur).ident.full then 16 else 8)
    pure .hcommit

/-- HDONE (R179), valid in an actor. -/
def execHdone (s : State) : Host.Outcome State Fault Refusal :=
  issueCommit s do
    if isStrand s.cur then illegal
    pure .hdone

/-- EXIT (R130, R179), valid in an actor. -/
def execExit (s : State) : Host.Outcome State Fault Refusal :=
  issueCommit s do
    if isStrand s.cur then illegal
    pure .exit

/-! ## Barriers and launches (R185, R186) -/

/-- BARR (R185), valid in an actor. -/
def execBarr (launch : Bool) (op : Fin 5) (n : Fin 16) (b : OpB) (s : State) : Host.Outcome State Fault Refusal :=
  issueOp s (lenB b) do
    if isStrand s.cur then illegal
    let v ← opInt s.cur b
    effect s.cur false (.barr launch n.val op.val v)

/-- LAUNCH (R186). -/
def execLaunch (now : Bool) (a : Reg) (b : OpB) (s : State) : Host.Outcome State Fault Refusal :=
  issueOp s (lenB b) do
    let c := s.cur
    let va ← getX c a
    let q ← opInt c b
    if va.toNat % 128 ≠ 0 then trapWith { code := cALIGN, vaddr := va }
    if isLocal va || isWindow va then trapWith { code := cPROT, vaddr := faultVa va kRead 8 }
    let _ ← translateX c va kRead 0
    effect c now (.launch va (bits q 5 0))

end Sys2Proof.Machine
end

