-- ==== Sys2Proof/Machine/Dispatch.lean ====
section
/-! DEFINITION. One arm for each instruction and move: a direct call of its meaning, or a rejection by name. -/

namespace Sys2Proof.Machine

def exec (i : Instr) (s : State) : Host.Outcome State Fault Refusal :=
  match i with
  | .add d a b => Sys2Proof.Machine.execAdd d a b s
  | .sub d a b => Sys2Proof.Machine.execSub d a b s
  | .mul d a b => Sys2Proof.Machine.execMul d a b s
  | .mulh d a b => Sys2Proof.Machine.execMulh d a b s
  | .mulhn d a b => Sys2Proof.Machine.execMulhn d a b s
  | .div d a b => Sys2Proof.Machine.execDiv d a b s
  | .divn d a b => Sys2Proof.Machine.execDivn d a b s
  | .rem d a b => Sys2Proof.Machine.execRem d a b s
  | .remn d a b => Sys2Proof.Machine.execRemn d a b s
  | .and d a b => Sys2Proof.Machine.execAnd d a b s
  | .or d a b => Sys2Proof.Machine.execOr d a b s
  | .xor d a b => Sys2Proof.Machine.execXor d a b s
  | .andn d a b => Sys2Proof.Machine.execAndn d a b s
  | .shl d a b => Sys2Proof.Machine.execShl d a b s
  | .shr d a b => Sys2Proof.Machine.execShr d a b s
  | .sra d a b => Sys2Proof.Machine.execSra d a b s
  | .rol d a b => Sys2Proof.Machine.execRol d a b s
  | .ror d a b => Sys2Proof.Machine.execRor d a b s
  | .min d a b => Sys2Proof.Machine.execMin d a b s
  | .max d a b => Sys2Proof.Machine.execMax d a b s
  | .minn d a b => Sys2Proof.Machine.execMinn d a b s
  | .maxn d a b => Sys2Proof.Machine.execMaxn d a b s
  | .slt d a b => Sys2Proof.Machine.execSlt d a b s
  | .sltn d a b => Sys2Proof.Machine.execSltn d a b s
  | .seq d a b => Sys2Proof.Machine.execSeq d a b s
  | .clz d a => Sys2Proof.Machine.execClz d a s
  | .ctz d a => Sys2Proof.Machine.execCtz d a s
  | .popc d a => Sys2Proof.Machine.execPopc d a s
  | .bfx d a b => Sys2Proof.Machine.execBfx d a b s
  | .bfi d a b => Sys2Proof.Machine.execBfi d a b s
  | .brev d a => Sys2Proof.Machine.execBrev d a s
  | .bswap d a => Sys2Proof.Machine.execBswap d a s
  | .addi d a i0 => Sys2Proof.Machine.execAddi d a i0 s
  | .andi d a i0 => Sys2Proof.Machine.execAndi d a i0 s
  | .ori d a i0 => Sys2Proof.Machine.execOri d a i0 s
  | .xori d a i0 => Sys2Proof.Machine.execXori d a i0 s
  | .slti d a i0 => Sys2Proof.Machine.execSlti d a i0 s
  | .lui d i0 => Sys2Proof.Machine.execLui d i0 s
  | .addpc d i0 => Sys2Proof.Machine.execAddpc d i0 s
  | .beq a b off => Sys2Proof.Machine.execBeq a b off s
  | .bne a b off => Sys2Proof.Machine.execBne a b off s
  | .blt a b off => Sys2Proof.Machine.execBlt a b off s
  | .bge a b off => Sys2Proof.Machine.execBge a b off s
  | .bltn a b off => Sys2Proof.Machine.execBltn a b off s
  | .bgen a b off => Sys2Proof.Machine.execBgen a b off s
  | .j off => Sys2Proof.Machine.execJ off s
  | .jal off => Sys2Proof.Machine.execJal off s
  | .jalr d a i0 => Sys2Proof.Machine.execJalr d a i0 s
  | .ldB d base off acq => Sys2Proof.Machine.execLdB d base off acq s
  | .ldH d base off acq => Sys2Proof.Machine.execLdH d base off acq s
  | .ldW d base off acq => Sys2Proof.Machine.execLdW d base off acq s
  | .ldD d base off acq => Sys2Proof.Machine.execLdD d base off acq s
  | .ldBu d base off acq => Sys2Proof.Machine.execLdBu d base off acq s
  | .ldHu d base off acq => Sys2Proof.Machine.execLdHu d base off acq s
  | .ldfW d base off acq => Sys2Proof.Machine.execLdfW d base off acq s
  | .ldfD d base off acq => Sys2Proof.Machine.execLdfD d base off acq s
  | .stB s0 base off ord => Sys2Proof.Machine.execStB s0 base off ord s
  | .stH s0 base off ord => Sys2Proof.Machine.execStH s0 base off ord s
  | .stW s0 base off ord => Sys2Proof.Machine.execStW s0 base off ord s
  | .stD s0 base off ord => Sys2Proof.Machine.execStD s0 base off ord s
  | .stfW s0 base off ord => Sys2Proof.Machine.execStfW s0 base off ord s
  | .stfD s0 base off ord => Sys2Proof.Machine.execStfD s0 base off ord s
  | .amoadd dbl ord d a b => Sys2Proof.Machine.execAmoadd dbl ord d a b s
  | .amoand dbl ord d a b => Sys2Proof.Machine.execAmoand dbl ord d a b s
  | .amoor dbl ord d a b => Sys2Proof.Machine.execAmoor dbl ord d a b s
  | .amoxor dbl ord d a b => Sys2Proof.Machine.execAmoxor dbl ord d a b s
  | .amomin dbl ord d a b => Sys2Proof.Machine.execAmomin dbl ord d a b s
  | .amomax dbl ord d a b => Sys2Proof.Machine.execAmomax dbl ord d a b s
  | .amominn dbl ord d a b => Sys2Proof.Machine.execAmominn dbl ord d a b s
  | .amomaxn dbl ord d a b => Sys2Proof.Machine.execAmomaxn dbl ord d a b s
  | .amoswap dbl ord d a b => Sys2Proof.Machine.execAmoswap dbl ord d a b s
  | .amocas dbl ord d a b => Sys2Proof.Machine.execAmocas dbl ord d a b s
  | .amofaddF32 ord d a b => Sys2Proof.Machine.execAmofaddF32 ord d a b s
  | .amofminF32 ord d a b => Sys2Proof.Machine.execAmofminF32 ord d a b s
  | .amofmaxF32 ord d a b => Sys2Proof.Machine.execAmofmaxF32 ord d a b s
  | .fadd p rm d a b => Sys2Proof.Machine.execFadd p rm d a b s
  | .fsub p rm d a b => Sys2Proof.Machine.execFsub p rm d a b s
  | .fmul p rm d a b => Sys2Proof.Machine.execFmul p rm d a b s
  | .fdiv p rm d a b => Sys2Proof.Machine.execFdiv p rm d a b s
  | .fsqrt p rm d a => Sys2Proof.Machine.execFsqrt p rm d a s
  | .fmin p d a b => Sys2Proof.Machine.execFmin p d a b s
  | .fmax p d a b => Sys2Proof.Machine.execFmax p d a b s
  | .fabs p d a => Sys2Proof.Machine.execFabs p d a s
  | .fneg p d a => Sys2Proof.Machine.execFneg p d a s
  | .feq p d a b => Sys2Proof.Machine.execFeq p d a b s
  | .flt p d a b => Sys2Proof.Machine.execFlt p d a b s
  | .fle p d a b => Sys2Proof.Machine.execFle p d a b s
  | .fclass p d a => Sys2Proof.Machine.execFclass p d a s
  | .fcvt rm code d a => Sys2Proof.Machine.execFcvt rm code d a s
  | .fmvx p d a => Sys2Proof.Machine.execFmvx p d a s
  | .fmvf p d a => Sys2Proof.Machine.execFmvf p d a s
  | .frcpA p d a => Sys2Proof.Machine.execFrcpA p d a s
  | .frsqA p d a => Sys2Proof.Machine.execFrsqA p d a s
  | .fli fd v => Sys2Proof.Machine.execFli fd v s
  | .fma p d a b c => Sys2Proof.Machine.execFma p d a b c s
  | .fms p d a b c => Sys2Proof.Machine.execFms p d a b c s
  | .fnma p d a b c => Sys2Proof.Machine.execFnma p d a b c s
  | .fnms p d a b c => Sys2Proof.Machine.execFnms p d a b c s
  | .nop => Sys2Proof.Machine.execNop s
  | .trap code => Sys2Proof.Machine.execTrap code s
  | .brk code => Sys2Proof.Machine.execBrk code s
  | .csrr d csr => Sys2Proof.Machine.execCsrr d csr s
  | .csrw csr s0 => Sys2Proof.Machine.execCsrw csr s0 s
  | .tmark code => Sys2Proof.Machine.execTmark code s
  | .waitc nl ns nc nm => Sys2Proof.Machine.execWaitc nl ns nc nm s
  | .fence => Sys2Proof.Machine.execFence s
  | .fenceSc => Sys2Proof.Machine.execFenceSc s
  | .icsync => Sys2Proof.Machine.execIcsync s
  | .pref a off hint => Sys2Proof.Machine.execPref a off hint s
  | .cLd d b off => Sys2Proof.Machine.execCLd d b off s
  | .cSt s0 b off => Sys2Proof.Machine.execCSt s0 b off s
  | .cLw d b off => Sys2Proof.Machine.execCLw d b off s
  | .cSw s0 b off => Sys2Proof.Machine.execCSw s0 b off s
  | .cLdfD d b off => Sys2Proof.Machine.execCLdfD d b off s
  | .cStfD s0 b off => Sys2Proof.Machine.execCStfD s0 b off s
  | .cLdfW d b off => Sys2Proof.Machine.execCLdfW d b off s
  | .cStfW s0 b off => Sys2Proof.Machine.execCStfW s0 b off s
  | .cAddi d i0 => Sys2Proof.Machine.execCAddi d i0 s
  | .cLi d i0 => Sys2Proof.Machine.execCLi d i0 s
  | .cMv d a => Sys2Proof.Machine.execCMv d a s
  | .cAdd d a => Sys2Proof.Machine.execCAdd d a s
  | .cSub d a => Sys2Proof.Machine.execCSub d a s
  | .cAnd d a => Sys2Proof.Machine.execCAnd d a s
  | .cOr d a => Sys2Proof.Machine.execCOr d a s
  | .cXor d a => Sys2Proof.Machine.execCXor d a s
  | .cJ off => Sys2Proof.Machine.execCJ off s
  | .cBeqz a off => Sys2Proof.Machine.execCBeqz a off s
  | .cBnez a off => Sys2Proof.Machine.execCBnez a off s
  | .cJr a => Sys2Proof.Machine.execCJr a s
  | .cFaddW d a => Sys2Proof.Machine.execCFaddW d a s
  | .cFmulW d a => Sys2Proof.Machine.execCFmulW d a s
  | .cFmaW d a b => Sys2Proof.Machine.execCFmaW d a b s
  | .cNop => Sys2Proof.Machine.execCNop s
  | .send now d a b => Sys2Proof.Machine.execSend now d a b s
  | .sendv now d a b => Sys2Proof.Machine.execSendv now d a b s
  | .reply now d b => Sys2Proof.Machine.execReply now d b s
  | .fwd now a b => Sys2Proof.Machine.execFwd now a b s
  | .defer => Sys2Proof.Machine.execDefer s
  | .spawn now d a b => Sys2Proof.Machine.execSpawn now d a b s
  | .migrate a => Sys2Proof.Machine.execMigrate a s
  | .sdone => Sys2Proof.Machine.execSdone s
  | .hcommit => Sys2Proof.Machine.execHcommit s
  | .hdone => Sys2Proof.Machine.execHdone s
  | .exit => Sys2Proof.Machine.execExit s
  | .barr launch op n b => Sys2Proof.Machine.execBarr launch op n b s
  | .launch now a b => Sys2Proof.Machine.execLaunch now a b s
  | .getm d n => Sys2Proof.Machine.execGetm d n s
  | .mbstat d mb => Sys2Proof.Machine.execMbstat d mb s
  | .vadd t d a b => Sys2Proof.Machine.execVadd t d a b s
  | .vsub t d a b => Sys2Proof.Machine.execVsub t d a b s
  | .vmul t d a b => Sys2Proof.Machine.execVmul t d a b s
  | .vfma t d a b => Sys2Proof.Machine.execVfma t d a b s
  | .vfms t d a b => Sys2Proof.Machine.execVfms t d a b s
  | .vmin t d a b => Sys2Proof.Machine.execVmin t d a b s
  | .vmax t d a b => Sys2Proof.Machine.execVmax t d a b s
  | .vabs t d a => Sys2Proof.Machine.execVabs t d a s
  | .vneg t d a => Sys2Proof.Machine.execVneg t d a s
  | .vand t d a b => Sys2Proof.Machine.execVand t d a b s
  | .vor t d a b => Sys2Proof.Machine.execVor t d a b s
  | .vxor t d a b => Sys2Proof.Machine.execVxor t d a b s
  | .vshl t d a b => Sys2Proof.Machine.execVshl t d a b s
  | .vshr t d a b => Sys2Proof.Machine.execVshr t d a b s
  | .vsra t d a b => Sys2Proof.Machine.execVsra t d a b s
  | .vcmp t cond kd a b => Sys2Proof.Machine.execVcmp t cond kd a b s
  | .vsel t d a kb => Sys2Proof.Machine.execVsel t d a kb s
  | .vkopAnd d a b => Sys2Proof.Machine.execVkopAnd d a b s
  | .vkopOr d a b => Sys2Proof.Machine.execVkopOr d a b s
  | .vkopXor d a b => Sys2Proof.Machine.execVkopXor d a b s
  | .vkopAndn d a b => Sys2Proof.Machine.execVkopAndn d a b s
  | .vkopNot d a => Sys2Proof.Machine.execVkopNot d a s
  | .vkopPopc d a => Sys2Proof.Machine.execVkopPopc d a s
  | .vkopSplat d a => Sys2Proof.Machine.execVkopSplat d a s
  | .vkopFromx d a => Sys2Proof.Machine.execVkopFromx d a s
  | .view td a => Sys2Proof.Machine.execView td a s
  | .views td a => Sys2Proof.Machine.execViews td a s
  | .vmkv t td a b => Sys2Proof.Machine.execVmkv t td a b s
  | .vpart src td ta b => Sys2Proof.Machine.execVpart src td ta b s
  | .vbind d ta => Sys2Proof.Machine.execVbind d ta s
  | .vunbind d => Sys2Proof.Machine.execVunbind d s
  | .vld d ta b => Sys2Proof.Machine.execVld d ta b s
  | .vst s0 ta b => Sys2Proof.Machine.execVst s0 ta b s
  | .vmov t d a => Sys2Proof.Machine.execVmov t d a s
  | .vbcast t d v => Sys2Proof.Machine.execVbcast t d v s
  | .vgather t d a => Sys2Proof.Machine.execVgather t d a s
  | .vscatter t wa ws => Sys2Proof.Machine.execVscatter t wa ws s
  | .vaccrd t d acc b => Sys2Proof.Machine.execVaccrd t d acc b s
  | .vaccrdPeek t d acc b => Sys2Proof.Machine.execVaccrdPeek t d acc b s
  | .vaccwr t s0 acc b => Sys2Proof.Machine.execVaccwr t s0 acc b s
  | .rpush n ring a b => Sys2Proof.Machine.execRpush n ring a b s
  | .vcvt t dst sat d a => Sys2Proof.Machine.execVcvt t dst sat d a s
  | .vcvtSr t d a b => Sys2Proof.Machine.execVcvtSr t d a b s
  | .vqmx d a => Sys2Proof.Machine.execVqmx d a s
  | .vdq d a => Sys2Proof.Machine.execVdq d a s
  | .vrcpA t d a => Sys2Proof.Machine.execVrcpA t d a s
  | .vrsqA t d a => Sys2Proof.Machine.execVrsqA t d a s
  | .vrsq t d a => Sys2Proof.Machine.execVrsq t d a s
  | .vsqrt t d a => Sys2Proof.Machine.execVsqrt t d a s
  | .vdiv t d a b => Sys2Proof.Machine.execVdiv t d a b s
  | .vexp2 t d a => Sys2Proof.Machine.execVexp2 t d a s
  | .vlog2 t d a => Sys2Proof.Machine.execVlog2 t d a s
  | .vtanh t d a => Sys2Proof.Machine.execVtanh t d a s
  | .vred t op d a => Sys2Proof.Machine.execVred t op d a s
  | .vscan t op d a => Sys2Proof.Machine.execVscan t op d a s
  | .vnorm t w d a => Sys2Proof.Machine.execVnorm t w d a s
  | .vtopk t d a b => Sys2Proof.Machine.execVtopk t d a b s
  | .vrand t d b => Sys2Proof.Machine.execVrand t d b s
  | .rndk d a b => Sys2Proof.Machine.execRndk d a b s
  | .mma pri sp pair k ringB ringA acc => Sys2Proof.Machine.execMma pri sp pair k ringB ringA acc s
  | .mmas pri x sp pair k ringB ringA acc => Sys2Proof.Machine.execMmas pri x sp pair k ringB ringA acc s
  | .accz acc => Sys2Proof.Machine.execAccz acc s
  | .accstat d acc => Sys2Proof.Machine.execAccstat d acc s
  | .ringcfg ring b => Sys2Proof.Machine.execRingcfg ring b s
  | .ringst d ring code => Sys2Proof.Machine.execRingst d ring code s
  | .rpop ring b => Sys2Proof.Machine.execRpop ring b s
  | .mqpri d acc b => Sys2Proof.Machine.execMqpri d acc b s
  | .mqdrain d acc code => Sys2Proof.Machine.execMqdrain d acc code s
  | .cpset sh b => Sys2Proof.Machine.execCpset sh b s
  | .cpget d sh => Sys2Proof.Machine.execCpget d sh s
  | .cpgo d b => Sys2Proof.Machine.execCpgo d b s
  | .cpfol b => Sys2Proof.Machine.execCpfol b s
  | .wtagAll d b => Sys2Proof.Machine.execWtagAll d b s
  | .wtagAny d b => Sys2Proof.Machine.execWtagAny d b s
  | .ffr d b => Sys2Proof.Machine.execFfr d b s
  | .tagst d b => Sys2Proof.Machine.execTagst d b s
  | .cpcan d a => Sys2Proof.Machine.execCpcan d a s
  | .gdecl g a => Sys2Proof.Machine.execGdecl g a s
  | .gldW d a b => Sys2Proof.Machine.execGldW d a b s
  | .gldF d a b => Sys2Proof.Machine.execGldF d a b s
  | .gst s0 a => Sys2Proof.Machine.execGst s0 a s
  | .hstep g b => Sys2Proof.Machine.execHstep g b s
  | .hrel g b => Sys2Proof.Machine.execHrel g b s
  | .hwait g b => Sys2Proof.Machine.execHwait g b s
  | .gqry d g code => Sys2Proof.Machine.execGqry d g code s
  | .ggather d a g => Sys2Proof.Machine.execGgather d a g s
  | .gscat op wa ws g => Sys2Proof.Machine.execGscat op wa ws g s
  | .kdetach => Sys2Proof.Machine.execKdetach s
  | .kstat d code => Sys2Proof.Machine.execKstat d code s
  | .nred op typ a b => Sys2Proof.Machine.execNred op typ a b s
  | .nredNd op typ a b => Sys2Proof.Machine.execNredNd op typ a b s
  | .nstat d code => Sys2Proof.Machine.execNstat d code s
  | .reservedEncoding bits => Sys2Proof.Machine.execReservedEncoding bits s
  | .handlerEntry c => Sys2Proof.Machine.execHandlerEntry c s
  | .watchdogExpiry c => Sys2Proof.Machine.execWatchdogExpiry c s
  | .breakpointHalt c => Sys2Proof.Machine.execBreakpointHalt c s
  | .registrationMove cell idx => Sys2Proof.Machine.execRegistrationMove cell idx s
  | .gatewayQueueDelivery q peer => Sys2Proof.Machine.execGatewayQueueDelivery q peer s
  | .loadValueReturn c idx => Sys2Proof.Machine.execLoadValueReturn c idx s
  | .releasePerformed c => Sys2Proof.Machine.execReleasePerformed c s
  | .atomicAtHome c => Sys2Proof.Machine.execAtomicAtHome c s
  | .translationWalk cluster asid va kind => Sys2Proof.Machine.execTranslationWalk cluster asid va kind s
  | .tlbInvalidationDone => Sys2Proof.Machine.execTlbInvalidationDone s
  | .bankModeMove cluster bank => Sys2Proof.Machine.execBankModeMove cluster bank s
  | .vectorRowFill c w => Sys2Proof.Machine.execVectorRowFill c w s
  | .messageArrival src => Sys2Proof.Machine.execMessageArrival src s
  | .refusedMessageRetry cell idx => Sys2Proof.Machine.execRefusedMessageRetry cell idx s
  | .noticeArrival src => Sys2Proof.Machine.execNoticeArrival src s
  | .strandArrival src => Sys2Proof.Machine.execStrandArrival src s
  | .strandResumption c => Sys2Proof.Machine.execStrandResumption c s
  | .sectionCommitComplete c => Sys2Proof.Machine.execSectionCommitComplete c s
  | .machineCheck c => Sys2Proof.Machine.execMachineCheck c s
  | .spawnCountRequest idx peer => Sys2Proof.Machine.execSpawnCountRequest idx peer s
  | .spawnCountAnswer c => Sys2Proof.Machine.execSpawnCountAnswer c s
  | .spawnDecrementArrival idx peer => Sys2Proof.Machine.execSpawnDecrementArrival idx peer s
  | .barrierArrival idx peer => Sys2Proof.Machine.execBarrierArrival idx peer s
  | .emeOperationStart cluster idx => Sys2Proof.Machine.execEmeOperationStart cluster idx s
  | .emeKStep cluster => Sys2Proof.Machine.execEmeKStep cluster s
  | .acczRun cluster idx => Sys2Proof.Machine.execAcczRun cluster idx s
  | .rpopRetire cluster idx => Sys2Proof.Machine.execRpopRetire cluster idx s
  | .copyChunk cluster idx => Sys2Proof.Machine.execCopyChunk cluster idx s
  | .ringTilePush cluster idx => Sys2Proof.Machine.execRingTilePush cluster idx s
  | .demandSliceFetch cluster idx => Sys2Proof.Machine.execDemandSliceFetch cluster idx s
  | .copyTransferCompletion cluster idx => Sys2Proof.Machine.execCopyTransferCompletion cluster idx s
  | .haloStripArrival cluster src => Sys2Proof.Machine.execHaloStripArrival cluster src s
  | .haloStripRetry cluster idx => Sys2Proof.Machine.execHaloStripRetry cluster idx s
  | .gridActiveMessage cluster src => Sys2Proof.Machine.execGridActiveMessage cluster src s
  | .gatherLaneReturn c lane => Sys2Proof.Machine.execGatherLaneReturn c lane s
  | .queueTailObservation q => Sys2Proof.Machine.execQueueTailObservation q s
  | .launchSelection => Sys2Proof.Machine.execLaunchSelection s
  | .launchRequestAppend idx => Sys2Proof.Machine.execLaunchRequestAppend idx s
  | .groupPlacement lslot die choices => Sys2Proof.Machine.execGroupPlacement lslot die choices s
  | .gangReserve req => Sys2Proof.Machine.execGangReserve req s
  | .gangReserveAnswer lslot member answer => Sys2Proof.Machine.execGangReserveAnswer lslot member answer s
  | .gangCommit lslot slots choices => Sys2Proof.Machine.execGangCommit lslot slots choices s
  | .gangAbandon lslot => Sys2Proof.Machine.execGangAbandon lslot s
  | .contextEviction src => Sys2Proof.Machine.execContextEviction src s
  | .evictionSharedSave lslot stopped => Sys2Proof.Machine.execEvictionSharedSave lslot stopped s
  | .rePlacement lslot die choices => Sys2Proof.Machine.execRePlacement lslot die choices s
  | .groupRetirement lslot group detached reports => Sys2Proof.Machine.execGroupRetirement lslot group detached reports s
  | .faultRecordDelivery idx => Sys2Proof.Machine.execFaultRecordDelivery idx s
  | .breakpointBroadcastDone => Sys2Proof.Machine.execBreakpointBroadcastDone s
  | .timingDumpDone die => Sys2Proof.Machine.execTimingDumpDone die s
  | .flitReceive port unit note => Sys2Proof.Machine.execFlitReceive port unit note s
  | .lendPeriod port => Sys2Proof.Machine.execLendPeriod port s
  | .lendReceived port seq limits => Sys2Proof.Machine.execLendReceived port seq limits s
  | .lendAckReceived port seq => Sys2Proof.Machine.execLendAckReceived port seq s
  | .creditReturn port channel cls => Sys2Proof.Machine.execCreditReturn port channel cls s
  | .keySwitch port => Sys2Proof.Machine.execKeySwitch port s
  | .linkKeyInstall port sending key salt => Sys2Proof.Machine.execLinkKeyInstall port sending key salt s
  | .capabilityRelay module vec => Sys2Proof.Machine.execCapabilityRelay module vec s
  | .keystoneRequestServe q peer => Sys2Proof.Machine.execKeystoneRequestServe q peer s
  | .windowCollapse lslot departed cause => Sys2Proof.Machine.execWindowCollapse lslot departed cause s
  | .nredContributionArrival idx peer plan => Sys2Proof.Machine.execNredContributionArrival idx peer plan s
  | .ethernetRdmaWrite pa bytes core => Sys2Proof.Machine.execEthernetRdmaWrite pa bytes core s
  | .checkpointStream cluster pa port => Sys2Proof.Machine.execCheckpointStream cluster pa port s
  | .powerOn => Sys2Proof.Machine.execPowerOn s
  | .bringupStep outcomes ns => Sys2Proof.Machine.execBringupStep outcomes ns s
  | .runtimeMarkOut unit detail => Sys2Proof.Machine.execRuntimeMarkOut unit detail s
  | .journalErase => Sys2Proof.Machine.execJournalErase s
  | .attestationQuote nonce pa => Sys2Proof.Machine.execAttestationQuote nonce pa s
  | .throttleStep die watts hot => Sys2Proof.Machine.execThrottleStep die watts hot s
  | .csmodeWrite cluster value => Sys2Proof.Machine.execCsmodeWrite cluster value s
  | .trespRetry core die token => Sys2Proof.Machine.execTrespRetry core die token s
  | .trespFatal core die token => Sys2Proof.Machine.execTrespFatal core die token s
  | .hbmCounterClear die => Sys2Proof.Machine.execHbmCounterClear die s
  | .tlbinvAll => Sys2Proof.Machine.execTlbinvAll s
  | .tlbinvAsid asid => Sys2Proof.Machine.execTlbinvAsid asid s
  | .tlbinvPage asid => Sys2Proof.Machine.execTlbinvPage asid s
  | .actctlResume core die cellInDie strand => Sys2Proof.Machine.execActctlResume core die cellInDie strand s
  | .actctlSkip core die cellInDie strand => Sys2Proof.Machine.execActctlSkip core die cellInDie strand s
  | .actctlEnd core die cellInDie strand => Sys2Proof.Machine.execActctlEnd core die cellInDie strand s
  | .notectl core die cellInDie => Sys2Proof.Machine.execNotectl core die cellInDie s
  | .heldNoticeSend idx => Sys2Proof.Machine.execHeldNoticeSend idx s
  | .cpctlReplay core die => Sys2Proof.Machine.execCpctlReplay core die s
  | .cpctlComplete core die code => Sys2Proof.Machine.execCpctlComplete core die code s
  | .lcancel core asid lslot => Sys2Proof.Machine.execLcancel core asid lslot s
  | .bpctlWrite n value => Sys2Proof.Machine.execBpctlWrite n value s
  | .dbgctlResume core die cellInDie strand => Sys2Proof.Machine.execDbgctlResume core die cellInDie strand s
  | .dbgctlStep core die cellInDie strand => Sys2Proof.Machine.execDbgctlStep core die cellInDie strand s
  | .dbgctlHaltRequest core die cellInDie strand => Sys2Proof.Machine.execDbgctlHaltRequest core die cellInDie strand s
  | .dbgctlAbort core die cellInDie strand => Sys2Proof.Machine.execDbgctlAbort core die cellInDie strand s
  | .ttdump die cellInDie clear => Sys2Proof.Machine.execTtdump die cellInDie clear s
  | .registerWrite unit offset value => Sys2Proof.Machine.execRegisterWrite unit offset value s
  | .powerOff badCrc => Sys2Proof.Machine.execPowerOff badCrc s
  | .ryoftLinkLoss port => Sys2Proof.Machine.execRyoftLinkLoss port s
  | .uncorrectableMemoryError die controller asid who => Sys2Proof.Machine.execUncorrectableMemoryError die controller asid who s

end Sys2Proof.Machine
end

