-- ==== Sys2Proof/Machine/Step.lean ====
section
/-! DEFINITION. One step of the machine, and the placing of an instruction where the next step fetches. -/

namespace Sys2Proof.Machine

/-- One move of the run (R45): what `pick` chooses, carried out by `exec`. -/
def step (s : State) : Host.Outcome State Fault Refusal :=
  match pick s with
  | .run i s1 => exec i s1
  | .act o => o
  | .idle s1 => .next s1

/-- Where `withFetchWord` puts its code: VA and PA 0x1_0000, homed on Q0. -/
def codeVa : Nat := 0x10000

/-- A running actor of cell 0 whose pc is at the code (log 20). -/
def codeCtx (s : State) : Ctx :=
  startSection { Ctx.free with state := .running, pc := BitVec.ofNat 64 codeVa, wdogBudget := 1024 * 1024,
                               ident := { Ident.none with root := ownAddr s 0 0 } } 0

/-- The state with an instruction stored where the next step fetches: launch slot 0 active with one actor, running on cell 0,
its code page in the TLB, the instruction's 8 bytes in memory. It stands for the load of a program (log 20). -/
def State.withFetchWord (s : State) (nbits w : Nat) : State :=
  let c : CtxId := { cell := 0, slot := 0 }
  let l : Launch := { Launch.zero with
    groups := [(0, { cluster := 0, scratchOff := 0, ctxs := [c], retired := false })]
    actors := [(0, { place := .at c, mooring := [], taken := 0 })], nextGroup := 1 }
  let e : TlbEntry := { asid := 0, vpn := codeVa / 65536, block := false, pte := BitVec.ofNat 64 (codeVa + 0x3F) }
  let s1 := setCtx { s with cur := c, agenda := [], power := true } c (codeCtx s)
  let s2 := modCell s1 0 fun x => { x with iview := [] }
  let s3 := modCluster s2 0 fun x => { x with tlbPages := e :: x.tlbPages }
  let s4 := modHub s3 fun h => { h with launches := tput h.launches 0 l }
  { s4 with mem := writeLE s4.mem (memKey (ownModule s) 0 codeVa) 8 (w % 2 ^ nbits) }

end Sys2Proof.Machine
end

