-- ==== Sys2Proof/Certificates/Slice0/Obligations.lean ====
section
/-! DEFINITION. The statements about the machine. What they are said in stands in the namespace Sys2Proof.Claims: short forms of the
manual's tables and of what a state holds, written apart from the machine's own operations where that says more, and the parts of
statements that join several. -/

namespace Sys2Proof.Claims

open Sys2Proof.Machine

/-! ## What the statements are said in -/

/-- The current context is about to issue an instruction and nothing else of it is due first: it runs, is not halted, waits
for no translation and no acquire, is not inside a commit, no held watchdog expiry, single step or halt request strikes, and the
instruction has not stalled part way before: it has found no place yet and holds no vector row. -/
def Issues (s : State) : Prop :=
  canIssue (getCtx s s.cur) = true ∧ (getCtx s s.cur).sec.commit = none ∧ (getCtx s s.cur).sec.heldExpiry = false ∧
    (getCtx s s.cur).dbg.step = false ∧ (getCtx s s.cur).dbg.haltReq = false ∧ (getCtx s s.cur).place = none ∧
    (getCtx s s.cur).inUse = []

/-- The same with no load outstanding (R122). -/
def Quiet (s : State) : Prop := Issues s ∧ (getCtx s s.cur).loads = []

/-- The instruction completes: the pc moves on by its length (R27) and it counts as retired (R422). -/
def advance (s : State) (len : Nat) : State :=
  modCtx s s.cur fun x =>
    { x with pc := x.pc + BitVec.ofNat 64 len, wait := .none, progress := none, place := none, inUse := [],
             counters := { x.counters with retired := x.counters.retired + 1 }, dbg := { x.dbg with pass := false } }

/-- x0 reads zero (Table 2.13). -/
def xAt (x : Ctx) (r : Reg) : Word := if r = 0 then 0 else x.regs.x[r]

/-- The current context with a register written; a write to x0 is discarded (R135). -/
def withX (s : State) (d : Reg) (v : Word) : State :=
  if d = 0 then s else modCtx s s.cur fun x => { x with regs := { x.regs with x := x.regs.x.set d.val v d.isLt } }

def withF (s : State) (d : Reg) (v : Word) : State :=
  modCtx s s.cur fun x => { x with regs := { x.regs with f := x.regs.f.set d.val v d.isLt } }

/-- FSTAT bits are added (R209). -/
def withFlags (s : State) (f : FFlags) : State := modCtx s s.cur fun x => { x with fstat := x.fstat ||| f }

/-- OPB(INT) of R134. -/
def intB (x : Ctx) : OpB → Word
  | .reg r => xAt x r
  | .bank k => x.regs.c.toList.getD k.val 0
  | .lit v => v.signExtend 64

/-- MASK(n): n low ones (R137). -/
def lowOnes (n : Nat) : Word := (1 <<< n) - 1

/-- lenE of R137. -/
def fieldLength (b : Word) : Nat := min (b.toNat / 2 ^ 8 % 128) (64 - b.toNat % 64)

/-- BFX of R137, line by line. -/
def extractField (x b : Word) : Word :=
  let n := fieldLength b
  let f := (x >>> (b.toNat % 64)) &&& lowOnes n
  if n = 0 then 0
  else if b.getLsbD 15 = true ∧ f.getLsbD (n - 1) = true then f ||| ~~~lowOnes n else f

/-- BFI of R137, line by line. -/
def insertField (d x b : Word) : Word :=
  let m := lowOnes (fieldLength b) <<< (b.toNat % 64)
  (d &&& ~~~m) ||| ((x <<< (b.toNat % 64)) &&& m)

/-! ## Integer instructions -/

/-- Table 6.1 and R137: the destination and what it gets, for the forms with an operand b. -/
def integerRow (x : Ctx) : Instr → Option (Reg × Word)
  | .add d a b => some (d, xAt x a + intB x b)
  | .sub d a b => some (d, xAt x a - intB x b)
  | .mul d a b => some (d, xAt x a * intB x b)
  | .mulh d a b => some (d, BitVec.ofInt 64 ((xAt x a).toInt * (intB x b).toInt / 2 ^ 64))
  | .mulhn d a b => some (d, BitVec.ofNat 64 ((xAt x a).toNat * (intB x b).toNat / 2 ^ 64))
  | .div d a b => some (d, if intB x b = 0 then BitVec.allOnes 64 else (xAt x a).sdiv (intB x b))
  | .divn d a b => some (d, if intB x b = 0 then BitVec.allOnes 64 else xAt x a / intB x b)
  | .rem d a b => some (d, if intB x b = 0 then xAt x a else (xAt x a).srem (intB x b))
  | .remn d a b => some (d, if intB x b = 0 then xAt x a else xAt x a % intB x b)
  | .and d a b => some (d, xAt x a &&& intB x b)
  | .or d a b => some (d, xAt x a ||| intB x b)
  | .xor d a b => some (d, xAt x a ^^^ intB x b)
  | .andn d a b => some (d, xAt x a &&& ~~~intB x b)
  | .shl d a b => some (d, xAt x a <<< ((intB x b).toNat % 64))
  | .shr d a b => some (d, xAt x a >>> ((intB x b).toNat % 64))
  | .sra d a b => some (d, (xAt x a).sshiftRight ((intB x b).toNat % 64))
  | .rol d a b => some (d, (xAt x a).rotateLeft ((intB x b).toNat % 64))
  | .ror d a b => some (d, (xAt x a).rotateRight ((intB x b).toNat % 64))
  | .min d a b => some (d, if (xAt x a).slt (intB x b) then xAt x a else intB x b)
  | .max d a b => some (d, if (xAt x a).slt (intB x b) then intB x b else xAt x a)
  | .minn d a b => some (d, if (xAt x a).ult (intB x b) then xAt x a else intB x b)
  | .maxn d a b => some (d, if (xAt x a).ult (intB x b) then intB x b else xAt x a)
  | .slt d a b => some (d, if (xAt x a).slt (intB x b) then 1 else 0)
  | .sltn d a b => some (d, if (xAt x a).ult (intB x b) then 1 else 0)
  | .seq d a b => some (d, if xAt x a = intB x b then 1 else 0)
  | .bfx d a b => some (d, extractField (xAt x a) (intB x b))
  | .bfi d a b => some (d, insertField (xAt x d) (xAt x a) (intB x b))
  | _ => none

/-- The instruction writes `v` to `d`, moves on, and changes nothing else. -/
def writesX (s : State) (i : Instr) (d : Reg) (v : Word) : Prop := exec i s = .next (advance (withX s d v) i.bytes)

end Sys2Proof.Claims

/-- Table 6.1 (but for CLZ, CTZ, POPC, BREV, BSWAP) and R137: ADD, SUB, MUL, MULH, MULHN, DIV, DIVN, REM, REMN, AND, OR, XOR,
ANDN, SHL, SHR, SRA, ROL, ROR, MIN, MAX, MINN, MAXN, SLT, SLTN, SEQ, BFX and BFI complete with the value of the table in xd,
whatever register, bank entry or literal operand b is; a destination x0 is discarded; no flag, no other register and no byte of
memory changes. -/
def Sys2Proof.Claims.IntegerFormsWriteTheTablesValue : Prop :=
  ∀ (s : Sys2Proof.Machine.State) (i : Sys2Proof.Instr) (d : Sys2Proof.Reg) (v : Sys2Proof.Word),
    Sys2Proof.Claims.Quiet s →
    Sys2Proof.Claims.integerRow (Sys2Proof.Machine.getCtx s s.cur) i = some (d, v) →
    Sys2Proof.Claims.writesX s i d v

/-- The rest of Table 6.1: CLZ, CTZ, POPC, BREV and BSWAP complete with, in xd, the number of leading zeros, of trailing zeros,
of ones, the bits in reverse and the bytes in reverse. -/
def Sys2Proof.Claims.BitCountsAndReversals : Prop :=
  ∀ (s : Sys2Proof.Machine.State) (d a : Sys2Proof.Reg), Sys2Proof.Claims.Quiet s →
    let x := Sys2Proof.Claims.xAt (Sys2Proof.Machine.getCtx s s.cur) a
    (∃ n : Nat, n ≤ 64 ∧ (∀ k, 64 - n ≤ k → x.getLsbD k = false) ∧ (n < 64 → x.getLsbD (63 - n) = true) ∧
      Sys2Proof.Claims.writesX s (.clz d a) d (BitVec.ofNat 64 n)) ∧
    (∃ n : Nat, n ≤ 64 ∧ (∀ k, k < n → x.getLsbD k = false) ∧ (n < 64 → x.getLsbD n = true) ∧
      Sys2Proof.Claims.writesX s (.ctz d a) d (BitVec.ofNat 64 n)) ∧
    Sys2Proof.Claims.writesX s (.popc d a) d (BitVec.ofNat 64 ((List.range 64).countP fun k => x.getLsbD k)) ∧
    (∃ r : Sys2Proof.Word, (∀ k, k < 64 → r.getLsbD k = x.getLsbD (63 - k)) ∧ Sys2Proof.Claims.writesX s (.brev d a) d r) ∧
    (∃ r : Sys2Proof.Word, (∀ k, k < 8 → r.extractLsb' (8 * k) 8 = x.extractLsb' (8 * (7 - k)) 8) ∧
      Sys2Proof.Claims.writesX s (.bswap d a) d r)

namespace Sys2Proof.Claims
open Sys2Proof.Machine

/-- SEXT of an immediate field, or of the literal in its place (R138, Table 2.1). -/
def signed {n : Nat} : Imm n → Word
  | .imm v => v.signExtend 64
  | .lit v => v.signExtend 64

/-- The value of a U-format operand: the field × 2^13, a literal unshifted (R138). -/
def upper : Imm 19 → Word
  | .imm v => v.signExtend 64 <<< 13
  | .lit v => v.signExtend 64

/-- A compact register field names x8 to x15 (R35). -/
def x8 (r : Fin 8) : Reg := ⟨8 + r.val, by omega⟩

/-- Table 6.2, and the compact forms of Table 2.4 that write an x register from x registers and their immediate. -/
def immediateRow (x : Ctx) : Instr → Option (Reg × Word)
  | .addi d a i => some (d, xAt x a + signed i)
  | .andi d a i => some (d, xAt x a &&& signed i)
  | .ori d a i => some (d, xAt x a ||| signed i)
  | .xori d a i => some (d, xAt x a ^^^ signed i)
  | .slti d a i => some (d, if (xAt x a).slt (signed i) then 1 else 0)
  | .lui d i => some (d, upper i)
  | .addpc d i => some (d, x.pc + upper i)
  | .cAddi d i => some (x8 d, xAt x (x8 d) + i.signExtend 64)
  | .cLi d i => some (x8 d, i.signExtend 64)
  | .cMv d a => some (x8 d, xAt x (x8 a))
  | .cAdd d a => some (x8 d, xAt x (x8 d) + xAt x (x8 a))
  | .cSub d a => some (x8 d, xAt x (x8 d) - xAt x (x8 a))
  | .cAnd d a => some (x8 d, xAt x (x8 d) &&& xAt x (x8 a))
  | .cOr d a => some (x8 d, xAt x (x8 d) ||| xAt x (x8 a))
  | .cXor d a => some (x8 d, xAt x (x8 d) ^^^ xAt x (x8 a))
  | _ => none

end Sys2Proof.Claims

/-- Table 6.2: ADDI, ANDI, ORI, XORI, SLTI, LUI and ADDPC complete with the value of the table in xd, with the immediate field or
its literal, and so do C.ADDI, C.LI, C.MV, C.ADD, C.SUB, C.AND, C.OR and C.XOR (R35); nothing else changes. -/
def Sys2Proof.Claims.ImmediateFormsWriteTheTablesValue : Prop :=
  ∀ (s : Sys2Proof.Machine.State) (i : Sys2Proof.Instr) (d : Sys2Proof.Reg) (v : Sys2Proof.Word),
    Sys2Proof.Claims.Quiet s →
    Sys2Proof.Claims.immediateRow (Sys2Proof.Machine.getCtx s s.cur) i = some (d, v) →
    Sys2Proof.Claims.writesX s i d v

/-- Tables 6.1 and 6.2, R134 to R138, R35: every integer, immediate and upper instruction, and every compact one of them, completes with the table's value in xd and changes nothing else. -/
def Obligations.IntegerInstructionsWriteTheTablesValue : Prop :=
  Sys2Proof.Claims.IntegerFormsWriteTheTablesValue ∧
  Sys2Proof.Claims.BitCountsAndReversals ∧
  Sys2Proof.Claims.ImmediateFormsWriteTheTablesValue

namespace Sys2Proof.Claims
open Sys2Proof.Machine

/-- The block of code at an address is at hand: the page is in the cluster's TLB with leave to execute, in no window, and the
cell's instruction view holds the four words of the block (R70, R92, R94); `blk` is the block as a number. -/
def CodeAtHand (s : State) (va : Word) (blk : Nat) : Prop :=
  isLocal va = false ∧ isWindow va = false ∧ canonical va = true ∧
  ∃ e v0 v1 v2 v3, tlbFind (getCluster s (clusterOf s.cur.cell)) (getCtx s s.cur).ident.asid va kFetch = some e ∧
    let a := leafKey s e.pte (leafPa e.pte va e.block) / 32 * 32
    let view := (getCell s s.cur.cell).iview
    tfind view a = some v0 ∧ tfind view (a + 8) = some v1 ∧ tfind view (a + 16) = some v2 ∧ tfind view (a + 24) = some v3 ∧
    blk = v0.toNat + v1.toNat * 2 ^ 64 + v2.toNat * 2 ^ 128 + v3.toNat * 2 ^ 192

/-- Parcel `k` of a block starts an instruction: the starts are parcel 0 and what follows each instruction (R29). -/
inductive MarkedStart (blk : Nat) : Nat → Prop
  | first : MarkedStart blk 0
  | after (k : Nat) : MarkedStart blk k → MarkedStart blk (k + parcelCount (blk / 65536 ^ k % 65536))

/-- The checks of R142 pass at a target without a stall. -/
def TargetAtHand (s : State) (va : Word) : Prop :=
  va.toNat % 2 = 0 ∧ ∃ blk, CodeAtHand s va blk ∧ MarkedStart blk (va.toNat / 2 % 16)

/-- A signed offset in parcels, from the field or the literal (R139, R140). -/
def parcels2 {n : Nat} : Imm n → Word
  | .imm v => v.signExtend 64 <<< 1
  | .lit v => v.signExtend 64 <<< 1

/-- Conditional branches: whether taken and where to (Table 6.3, Table 2.4). -/
def branchRow (x : Ctx) : Instr → Option (Bool × Word)
  | .beq a b off => some (xAt x a == xAt x b, x.pc + parcels2 off)
  | .bne a b off => some (xAt x a != xAt x b, x.pc + parcels2 off)
  | .blt a b off => some ((xAt x a).slt (xAt x b), x.pc + parcels2 off)
  | .bge a b off => some (!(xAt x a).slt (xAt x b), x.pc + parcels2 off)
  | .bltn a b off => some ((xAt x a).ult (xAt x b), x.pc + parcels2 off)
  | .bgen a b off => some (!(xAt x a).ult (xAt x b), x.pc + parcels2 off)
  | .cBeqz a off => some (xAt x (x8 a) == 0, x.pc + off.signExtend 64 <<< 1)
  | .cBnez a off => some (xAt x (x8 a) != 0, x.pc + off.signExtend 64 <<< 1)
  | _ => none

/-- Jumps: the link register (x0 for none) and the target (R140, R141, Table 2.4). -/
def jumpRow (x : Ctx) : Instr → Option (Reg × Word)
  | .j off => some (0, x.pc + parcels2 off)
  | .jal off => some (1, x.pc + parcels2 off)
  | .jalr d a i => some (d, xAt x a + signed i)
  | .cJ off => some (0, x.pc + off.signExtend 64 <<< 1)
  | .cJr a => some (0, xAt x (x8 a))
  | _ => none

/-- The context goes on at `va` as after any completed instruction. -/
def goesTo (s : State) (va : Word) : State :=
  modCtx s s.cur fun x =>
    { x with pc := va, wait := .none, progress := none, place := none, inUse := [],
             counters := { x.counters with retired := x.counters.retired + 1 },
             dbg := { x.dbg with pass := false } }

end Sys2Proof.Claims

/-- R139 and Table 6.3: a conditional branch (BEQ, BNE, BLT, BGE, BLTN, BGEN, C.BEQZ, C.BNEZ) that is not taken goes on at the next
instruction and checks nothing; one that is taken goes to PC + 2 × offset when the checks of R142 pass there. No register,
no flag and no byte of memory changes. -/
def Sys2Proof.Claims.BranchesGoWhereTheConditionSays : Prop :=
  ∀ (s : Sys2Proof.Machine.State) (i : Sys2Proof.Instr) (taken : Bool) (va : Sys2Proof.Word),
    Sys2Proof.Claims.Quiet s →
    Sys2Proof.Claims.branchRow (Sys2Proof.Machine.getCtx s s.cur) i = some (taken, va) →
    (taken = false → Sys2Proof.Machine.exec i s = .next (Sys2Proof.Claims.advance s i.bytes)) ∧
    (taken = true → Sys2Proof.Claims.TargetAtHand s va →
      Sys2Proof.Machine.exec i s = .next (Sys2Proof.Claims.goesTo s va))

/-- R140, R141: J, JAL, JALR, C.J and C.JR go to their target when the checks of R142 pass there, and write the address of the next
instruction to the link register, x1 for JAL and xd for JALR; T is computed from the registers before the link is written. -/
def Sys2Proof.Claims.JumpsGoAndLink : Prop :=
  ∀ (s : Sys2Proof.Machine.State) (i : Sys2Proof.Instr) (d : Sys2Proof.Reg) (va : Sys2Proof.Word),
    Sys2Proof.Claims.Quiet s →
    Sys2Proof.Claims.jumpRow (Sys2Proof.Machine.getCtx s s.cur) i = some (d, va) →
    Sys2Proof.Claims.TargetAtHand s va →
    Sys2Proof.Machine.exec i s = .next (Sys2Proof.Claims.goesTo
      (Sys2Proof.Claims.withX s d ((Sys2Proof.Machine.getCtx s s.cur).pc + BitVec.ofNat 64 i.bytes)) va)

/-- R142 and R30: a taken branch or a jump to an odd address, or to a parcel of a block at hand that is no marked start, raises
BAD_TARGET: the trap's record has the target as its PC and the transferring instruction's address as its VADDR. -/
def Sys2Proof.Claims.BadTargetsTrap : Prop :=
  ∀ (s : Sys2Proof.Machine.State) (i : Sys2Proof.Instr) (va : Sys2Proof.Word),
    Sys2Proof.Claims.Quiet s →
    (Sys2Proof.Claims.branchRow (Sys2Proof.Machine.getCtx s s.cur) i = some (true, va) ∨
      ∃ d, Sys2Proof.Claims.jumpRow (Sys2Proof.Machine.getCtx s s.cur) i = some (d, va)) →
    (va.toNat % 2 = 1 ∨ ∃ blk, Sys2Proof.Claims.CodeAtHand s va blk ∧ ¬ Sys2Proof.Claims.MarkedStart blk (va.toNat / 2 % 16)) →
    Sys2Proof.Machine.exec i s = .next (Sys2Proof.Machine.takeTrap s s.cur
      { code := 2, vaddr := (Sys2Proof.Machine.getCtx s s.cur).pc, pc := some va })

/-- R30, R139 to R142: branches go where their condition says, jumps go and link, and a target that is no marked start traps. -/
def Obligations.BranchesAndJumpsGoWhereTheyShould : Prop :=
  Sys2Proof.Claims.BranchesGoWhereTheConditionSays ∧
  Sys2Proof.Claims.JumpsGoAndLink ∧
  Sys2Proof.Claims.BadTargetsTrap

namespace Sys2Proof.Claims
open Sys2Proof.Machine

/-! ## Loads, stores and atomics -/

/-- EA of R151: a field counts in units of the access, a literal in bytes. -/
def effective (x : Ctx) (base : Reg) (n : Nat) : Imm 9 → Word
  | .imm v => xAt x base + BitVec.ofInt 64 (v.toInt * n)
  | .lit v => xAt x base + v.signExtend 64

/-- A load: its address, its size in bytes, whether it sign-extends, whether it goes to an f register, which register, and whether
it is an acquire. -/
structure LoadRow where
  va : Word
  size : Nat
  extends_ : Bool
  toF : Bool
  dest : Reg
  acq : Bool
  deriving DecidableEq, Repr

/-- Table 2.9 and Table 2.4, the loads. -/
def loadRow (x : Ctx) : Instr → Option LoadRow
  | .ldB d b off q => some ⟨effective x b 1 off, 1, true, false, d, q⟩
  | .ldH d b off q => some ⟨effective x b 2 off, 2, true, false, d, q⟩
  | .ldW d b off q => some ⟨effective x b 4 off, 4, true, false, d, q⟩
  | .ldD d b off q => some ⟨effective x b 8 off, 8, false, false, d, q⟩
  | .ldBu d b off q => some ⟨effective x b 1 off, 1, false, false, d, q⟩
  | .ldHu d b off q => some ⟨effective x b 2 off, 2, false, false, d, q⟩
  | .ldfW d b off q => some ⟨effective x b 4 off, 4, false, true, d, q⟩
  | .ldfD d b off q => some ⟨effective x b 8 off, 8, false, true, d, q⟩
  | .cLd d b off => some ⟨xAt x (x8 b) + BitVec.ofNat 64 (8 * off.val), 8, false, false, x8 d, false⟩
  | .cLw d b off => some ⟨xAt x (x8 b) + BitVec.ofNat 64 (4 * off.val), 4, true, false, x8 d, false⟩
  | .cLdfD d b off => some ⟨xAt x (x8 b) + BitVec.ofNat 64 (8 * off.val), 8, false, true, x8 d, false⟩
  | .cLdfW d b off => some ⟨xAt x (x8 b) + BitVec.ofNat 64 (4 * off.val), 4, false, true, x8 d, false⟩
  | _ => none

/-- The number a load reads, as its register takes it (R152). -/
def extended (r : LoadRow) (v : Nat) : Word :=
  if r.extends_ then (BitVec.ofNat (8 * r.size) v).signExtend 64 else BitVec.ofNat 64 v

/-- An acquire discards every COPY entry of the cell's view (R57). -/
def copiesDropped (s : State) : State := modCell s s.cur.cell fun k => { k with view := k.view.filter fun p => p.2.owned }

/-- The state after a load of the number `v`, but for the pc. -/
def loaded (s : State) (r : LoadRow) (v : Nat) : State :=
  let u := if r.acq then copiesDropped s else s
  if r.toF then withF u r.dest (extended r v) else withX u r.dest (extended r v)

/-- Byte k of a number, lowest first (R2). -/
def byteOf (v k : Nat) : Byte := BitVec.ofNat 8 (v / 256 ^ k)

/-- A store: its address, its size in bytes, its value, its order. -/
structure StoreRow where
  va : Word
  size : Nat
  value : Word
  ord : StOrder
  deriving DecidableEq, Repr

/-- Table 2.9 and Table 2.4, the stores. -/
def storeRow (x : Ctx) : Instr → Option StoreRow
  | .stB r b off o => some ⟨effective x b 1 off, 1, xAt x r, o⟩
  | .stH r b off o => some ⟨effective x b 2 off, 2, xAt x r, o⟩
  | .stW r b off o => some ⟨effective x b 4 off, 4, xAt x r, o⟩
  | .stD r b off o => some ⟨effective x b 8 off, 8, xAt x r, o⟩
  | .stfW r b off o => some ⟨effective x b 4 off, 4, x.regs.f[r], o⟩
  | .stfD r b off o => some ⟨effective x b 8 off, 8, x.regs.f[r], o⟩
  | .cSt r b off => some ⟨xAt x (x8 b) + BitVec.ofNat 64 (8 * off.val), 8, xAt x (x8 r), .plain⟩
  | .cSw r b off => some ⟨xAt x (x8 b) + BitVec.ofNat 64 (4 * off.val), 4, xAt x (x8 r), .plain⟩
  | .cStfD r b off => some ⟨xAt x (x8 b) + BitVec.ofNat 64 (8 * off.val), 8, x.regs.f[x8 r], .plain⟩
  | .cStfW r b off => some ⟨xAt x (x8 b) + BitVec.ofNat 64 (4 * off.val), 4, x.regs.f[x8 r], .plain⟩
  | _ => none

/-- The current context with another section. -/
def withSection (s : State) (f : Section → Section) : State := modCtx s s.cur fun x => { x with sec := f x.sec }

/-- IMMEDIATE of R51 on an empty section buffer: the section is irrevocable, its journal gone. -/
def madeIrrevocable (s : State) : State := withSection s fun k => { k with irrevocable := true, journal := [] }

/-- The old contents of the 32-byte granule of a frame address, recorded once in a revocable section (R107). -/
def journalled (s : State) (a : Nat) : State :=
  let k := (getCtx s s.cur).sec
  if k.irrevocable = true ∨ k.journal.any (fun j => j.1 == a / 32 * 32) = true then s
  else withSection s fun k => { k with journal := (a / 32 * 32, BitVec.ofNat 256 (readLE s.mem (a / 32 * 32) 32)) :: k.journal }

/-- An access of the current context that is LOCAL, aligned and inside a grant of R74, with the byte address and the grant's kind
(the function that the meaning itself asks). -/
def Granted (s : State) (va : Word) (n a : Nat) (k : LocKind) : Prop :=
  isLocal va = true ∧ va.toNat % n = 0 ∧ localLoc s s.cur (va.toNat - localBase) n = some ⟨a, k, 0, 0, none⟩

/-- A byte place that is read as it lies at home: over a scratch grant, no waiting store of the context touches its word (R54, R401). -/
def AtHome (s : State) (a : Nat) (k : LocKind) : Prop := k = .scratch → (ownBits s s.cur (a / 8 * 8)).1 = 0

/-- A global access of the current context whose leaf is in the cluster's TLB, in no window, aligned, not watched and not
unpopulated by a mark-out; `a` is the byte's address in memory, `e` the leaf (R90 to R94, R418, R425). -/
def Mapped (s : State) (va : Word) (n : Nat) (kind : Fin 4) (a : Nat) (e : Word) : Prop :=
  isLocal va = false ∧ isWindow va = false ∧ va.toNat % n = 0 ∧ canonical va = true ∧
  (∃ t, tlbFind (getCluster s (clusterOf s.cur.cell)) (getCtx s s.cur).ident.asid va kind = some t ∧ e = t.pte ∧
    a = leafKey s t.pte (leafPa t.pte va t.block)) ∧
  pteWatch e = false ∧ ¬ (keyModule a = ownModule s ∧ foldedAway s.hub.outMem (keyPa a) = true)

/-- The page of an access's translation and whether the TLB's entry is a block's (R94, R154). -/
def leafOf (s : State) (va : Word) (kind : Fin 4) : Option (Nat × Bool) :=
  (tlbFind (getCluster s (clusterOf s.cur.cell)) (getCtx s s.cur).ident.asid va kind).map fun t => (va.toNat / 2 ^ 16 % 2 ^ 39, t.block)

/-- The n bytes at `a` as one store to their aligned word (R48). -/
def oneStore (a n : Nat) (v : Word) (e : Word) (l : Option (Nat × Bool)) : WordStore :=
  { addr := a / 8 * 8, mask := BitVec.ofNat 64 ((2 ^ (8 * n) - 1) * 2 ^ (8 * (a % 8))),
    data := BitVec.ofNat 64 (v.toNat % 2 ^ (8 * n) * 2 ^ (8 * (a % 8))), noalloc := pteNoalloc e, leaf := l }

end Sys2Proof.Claims

/-- R152, R54, R73: a load (LD.B, LD.H, LD.W, LD.D, LD.BU, LD.HU, LDF.W, LDF.D, C.LD, C.LW, C.LDF.D, C.LDF.W) from a granted place of the
cluster store completes with the bytes there, little-endian, extended as the form says, in its register; over those of a scratch grant
the context's own waiting stores to the word come first (`own`; R54, R401). `.acq` also discards the cell's COPY entries (R57). Memory,
flags and every other register stay. -/
def Sys2Proof.Claims.ClusterStoreLoadsReturnTheBytes : Prop :=
  ∀ (s : Sys2Proof.Machine.State) (i : Sys2Proof.Instr) (r : Sys2Proof.Claims.LoadRow) (a : Nat)
    (k : Sys2Proof.Machine.LocKind),
    Sys2Proof.Claims.Quiet s → s.lateLoads = false →
    Sys2Proof.Claims.loadRow (Sys2Proof.Machine.getCtx s s.cur) i = some r →
    Sys2Proof.Claims.Granted s r.va r.size a k →
    let own := Sys2Proof.Machine.ownBits s s.cur (a / 8 * 8)
    let word := (Sys2Proof.Machine.readWord s.mem (a / 8 * 8) &&& ~~~own.1) ||| (own.2 &&& own.1)
    Sys2Proof.Machine.exec i s = .next (Sys2Proof.Claims.advance
      (Sys2Proof.Claims.loaded s r (if k = .frame then Sys2Proof.Machine.readLE s.mem a r.size
        else word.toNat / 2 ^ (8 * (a % 8)) % 2 ^ (8 * r.size))) i.bytes)

/-- R54, R152: a load of a mapped global word takes, byte by byte, the context's own queued stores first (`own`), then the cell's
view entry; with no entry and a home on the cell's die, it takes the home's word, which leaves a COPY entry, unless the home's slice
would miss and has no miss entry left (R84). It completes with those bytes; memory stays. -/
def Sys2Proof.Claims.GlobalLoadsTakeTheirSource : Prop :=
  ∀ (s : Sys2Proof.Machine.State) (i : Sys2Proof.Instr) (r : Sys2Proof.Claims.LoadRow) (a : Nat) (e : Sys2Proof.Word),
    Sys2Proof.Claims.Quiet s → s.lateLoads = false →
    Sys2Proof.Claims.loadRow (Sys2Proof.Machine.getCtx s s.cur) i = some r →
    Sys2Proof.Claims.Mapped s r.va r.size Sys2Proof.Machine.kRead a e →
    let w := a / 8 * 8
    let own := Sys2Proof.Machine.ownBits s s.cur w
    let pick := fun (v : Sys2Proof.Word) =>
      ((v &&& ~~~own.1) ||| (own.2 &&& own.1)).toNat / 2 ^ (8 * (a % 8)) % 2 ^ (8 * r.size)
    (∀ v, Sys2Proof.Machine.keySpace w = 0 →
      Sys2Proof.Machine.tfind (Sys2Proof.Machine.getCell s s.cur.cell).view w = some v →
      (v.owned = true ∨ Sys2Proof.Machine.ownInFlight s s.cur w = false) →
      Sys2Proof.Machine.exec i s = .next (Sys2Proof.Claims.advance (Sys2Proof.Claims.loaded s r (pick v.value)) i.bytes)) ∧
    (Sys2Proof.Machine.keySpace w = 0 → own.1 ≠ BitVec.allOnes 64 →
      Sys2Proof.Machine.tfind (Sys2Proof.Machine.getCell s s.cur.cell).view w = none →
      Sys2Proof.Machine.homedHere s (Sys2Proof.Machine.dieOf s.cur.cell) w = true →
      (Sys2Proof.Machine.clusterHolds (Sys2Proof.Machine.getCluster s (s.cur.cell / 4)) w = true ∨ Sys2Proof.Machine.sliceBusy s w = false) →
      Sys2Proof.Machine.exec i s = .next (Sys2Proof.Claims.advance (Sys2Proof.Claims.loaded
        (Sys2Proof.Machine.modCell
          (Sys2Proof.Machine.touchLine s (s.cur.cell / 4) w 0 (Sys2Proof.Machine.pteNoalloc e)) s.cur.cell
          fun c => { c with view := Sys2Proof.Machine.tput c.view w { owned := false, value := Sys2Proof.Machine.readWord s.mem w } })
        r (pick (Sys2Proof.Machine.readWord s.mem w))) i.bytes))

/-- R153, R107: a store (ST.B, ST.H, ST.W, ST.D, STF.W, STF.D, C.ST, C.SW, C.STF.D, C.STF.W, plain, `.rel` or `.now`) to a granted place
of the cluster store completes with the low bytes of its value there and every other byte of memory as before. A frame store of
a revocable section first records its granule; `.now` makes the section irrevocable; `.rel` is stated where the context's
earlier stores have propagated. No register and no flag changes. -/
def Sys2Proof.Claims.ClusterStoreStoresWriteTheirBytes : Prop :=
  ∀ (s : Sys2Proof.Machine.State) (i : Sys2Proof.Instr) (r : Sys2Proof.Claims.StoreRow) (a : Nat)
    (k : Sys2Proof.Machine.LocKind),
    Sys2Proof.Claims.Quiet s →
    Sys2Proof.Claims.storeRow (Sys2Proof.Machine.getCtx s s.cur) i = some r →
    Sys2Proof.Claims.Granted s r.va r.size a k →
    (r.ord = .rel → Sys2Proof.Machine.unpropagated s s.cur.cell (.ctx s.cur) = false) →
    (r.ord = .now → (Sys2Proof.Machine.getCtx s s.cur).sec.buffer = []) →
    (Sys2Proof.Machine.getCtx s s.cur).sec.journal.length < 256 →
    ∃ m, Sys2Proof.Machine.exec i s = .next (Sys2Proof.Claims.advance { (if r.ord = .now then Sys2Proof.Claims.madeIrrevocable s
        else if k = .frame then Sys2Proof.Claims.journalled s a else s) with mem := m } i.bytes) ∧
      (∀ b, b < a ∨ a + r.size ≤ b → Sys2Proof.Machine.readByte m b = Sys2Proof.Machine.readByte s.mem b) ∧
      ∀ j, j < r.size → Sys2Proof.Machine.readByte m (a + j) = Sys2Proof.Claims.byteOf r.value.toNat j

/-- R54, R73, R107, R152, R153: scalar loads and stores of granted places of the cluster store. -/
def Obligations.ClusterStoreAccesses : Prop :=
  Sys2Proof.Claims.ClusterStoreLoadsReturnTheBytes ∧
  Sys2Proof.Claims.ClusterStoreStoresWriteTheirBytes

/-- R49, R106, R153: a store to a mapped global place changes no byte of memory when it issues: in a revocable section it joins the
section buffer as the last effect, with one store to its aligned word; in an irrevocable section, or as `.now` with an empty
buffer, it enters the cell's registration queue last. No register and no flag changes. -/
def Sys2Proof.Claims.GlobalStoresAreQueued : Prop :=
  ∀ (s : Sys2Proof.Machine.State) (i : Sys2Proof.Instr) (r : Sys2Proof.Claims.StoreRow) (a : Nat) (e : Sys2Proof.Word),
    Sys2Proof.Claims.Quiet s →
    Sys2Proof.Claims.storeRow (Sys2Proof.Machine.getCtx s s.cur) i = some r →
    Sys2Proof.Claims.Mapped s r.va r.size Sys2Proof.Machine.kWrite a e →
    let sec := (Sys2Proof.Machine.getCtx s s.cur).sec
    let w := Sys2Proof.Claims.oneStore a r.size r.value e (Sys2Proof.Claims.leafOf s r.va Sys2Proof.Machine.kWrite)
    let queued := fun (u : Sys2Proof.Machine.State) => Sys2Proof.Machine.modCell u s.cur.cell fun c =>
      { c with regq := c.regq ++ [{ origin := .ctx s.cur, store := w }] }
    (sec.irrevocable = false → r.ord ≠ .now → sec.buffer.length < 64 → Sys2Proof.Machine.cellEffects s s.cur.cell < 256 →
      Sys2Proof.Machine.exec i s = .next (Sys2Proof.Claims.advance
        (Sys2Proof.Claims.withSection s fun k => { k with buffer := k.buffer ++ [.stores (r.ord == .rel) [w]] }) i.bytes)) ∧
    (sec.irrevocable = true → r.ord = .plain ∨ (r.ord = .rel ∧ Sys2Proof.Machine.unpropagated s s.cur.cell (.ctx s.cur) = false) →
      Sys2Proof.Machine.exec i s = .next (Sys2Proof.Claims.advance (queued s) i.bytes)) ∧
    (r.ord = .now → sec.buffer = [] →
      Sys2Proof.Machine.exec i s = .next (Sys2Proof.Claims.advance (queued (Sys2Proof.Claims.madeIrrevocable s)) i.bytes))

/-- R49, R54, R106, R152, R153: scalar loads and stores of mapped global words. -/
def Obligations.GlobalAccesses : Prop :=
  Sys2Proof.Claims.GlobalLoadsTakeTheirSource ∧
  Sys2Proof.Claims.GlobalStoresAreQueued

namespace Sys2Proof.Claims
open Sys2Proof.Machine

/-- An atomic: its size in bytes, its order, its xd, its address, its operand b. -/
structure AtomicRow where
  size : Nat
  ord : AmoOrder
  dest : Reg
  va : Word
  b : Word
  deriving DecidableEq, Repr

def intL (x : Ctx) : OpL → Word
  | .reg r => xAt x r
  | .lit v => v.signExtend 64

/-- Table 2.10: 4 or 8 bytes by the D bit, the FP32 forms 4. -/
def atomicRow (x : Ctx) : Instr → Option AtomicRow
  | .amoadd z o d a b => some ⟨if z then 8 else 4, o, d, xAt x a, intL x b⟩
  | .amoand z o d a b => some ⟨if z then 8 else 4, o, d, xAt x a, intL x b⟩
  | .amoor z o d a b => some ⟨if z then 8 else 4, o, d, xAt x a, intL x b⟩
  | .amoxor z o d a b => some ⟨if z then 8 else 4, o, d, xAt x a, intL x b⟩
  | .amomin z o d a b => some ⟨if z then 8 else 4, o, d, xAt x a, intL x b⟩
  | .amomax z o d a b => some ⟨if z then 8 else 4, o, d, xAt x a, intL x b⟩
  | .amominn z o d a b => some ⟨if z then 8 else 4, o, d, xAt x a, intL x b⟩
  | .amomaxn z o d a b => some ⟨if z then 8 else 4, o, d, xAt x a, intL x b⟩
  | .amoswap z o d a b => some ⟨if z then 8 else 4, o, d, xAt x a, intL x b⟩
  | .amocas z o d a b => some ⟨if z then 8 else 4, o, d, xAt x a, intL x b⟩
  | .amofaddF32 o d a b => some ⟨4, o, d, xAt x a, intL x b⟩
  | .amofminF32 o d a b => some ⟨4, o, d, xAt x a, intL x b⟩
  | .amofmaxF32 o d a b => some ⟨4, o, d, xAt x a, intL x b⟩
  | _ => none

/-- COMBINE of Table 6.10 on w bits: the new value of the word. -/
def combined {w : Nat} (old b cmp : BitVec w) : Instr → BitVec w
  | .amoadd .. => old + b
  | .amoand .. => old &&& b
  | .amoor .. => old ||| b
  | .amoxor .. => old ^^^ b
  | .amomin .. => if old.sle b then old else b
  | .amomax .. => if old.sle b then b else old
  | .amominn .. => if old.ule b then old else b
  | .amomaxn .. => if old.ule b then b else old
  | .amoswap .. => b
  | .amocas .. => if old = cmp then b else old
  | .amofaddF32 .. => BitVec.ofNat w (fvAdd fp32 RNE (fpDecode fp32 old.toNat) (fpDecode fp32 b.toNat)).1
  | .amofminF32 .. => BitVec.ofNat w (fpMinMax fp32 false old.toNat b.toNat).1
  | .amofmaxF32 .. => BitVec.ofNat w (fpMinMax fp32 true old.toNat b.toNat).1
  | _ => old

end Sys2Proof.Claims

/-- R60, R160, R161: an atomic (AMOADD, AMOAND, AMOOR, AMOXOR, AMOMIN, AMOMAX, AMOMINN, AMOMAXN, AMOSWAP, AMOCAS, AMOFADD.F32, AMOFMIN.F32,
AMOFMAX.F32) on a granted word of the cluster store completes in one move: xd takes the old value (sign-extended for 4 bytes), the
word takes COMBINE of the old value, b and xd, every other byte of memory stays, the section becomes irrevocable, and `.acq` and
`.ar` discard the cell's COPY entries. -/
def Obligations.AtomicsReturnTheOldValueAndCombine : Prop :=
  ∀ (s : Sys2Proof.Machine.State) (i : Sys2Proof.Instr) (r : Sys2Proof.Claims.AtomicRow) (a : Nat)
    (k : Sys2Proof.Machine.LocKind),
    Sys2Proof.Claims.Quiet s → s.lateLoads = false → s.cur.cell < 2048 →
    Sys2Proof.Claims.atomicRow (Sys2Proof.Machine.getCtx s s.cur) i = some r →
    Sys2Proof.Claims.Granted s r.va r.size a k →
    (Sys2Proof.Machine.getCtx s s.cur).sec.buffer = [] →
    Sys2Proof.Machine.olderStore s s.cur a = false →
    Sys2Proof.Machine.unpropagated s s.cur.cell (.ctx s.cur) = false →
    let old := Sys2Proof.Machine.readLE s.mem a r.size
    let cmp := Sys2Proof.Claims.xAt (Sys2Proof.Machine.getCtx s s.cur) r.dest
    ∃ m, Sys2Proof.Machine.exec i s = .next (Sys2Proof.Claims.advance (Sys2Proof.Claims.withX
        (let u := { Sys2Proof.Claims.madeIrrevocable s with mem := m }
         if r.ord = .acq ∨ r.ord = .ar then Sys2Proof.Claims.copiesDropped u else u)
        r.dest ((BitVec.ofNat (8 * r.size) old).signExtend 64)) i.bytes) ∧
      (∀ b, b < a ∨ a + r.size ≤ b → Sys2Proof.Machine.readByte m b = Sys2Proof.Machine.readByte s.mem b) ∧
      Sys2Proof.Machine.readLE m a r.size =
        (Sys2Proof.Claims.combined (w := 8 * r.size) (BitVec.ofNat _ old) (BitVec.ofNat _ r.b.toNat) (BitVec.ofNat _ cmp.toNat) i).toNat

namespace Sys2Proof.Claims
open Sys2Proof.Machine

/-- Address and size of a load, a store or an atomic. -/
def accessRow (x : Ctx) (i : Instr) : Option (Word × Nat) :=
  match loadRow x i, storeRow x i, atomicRow x i with
  | some r, _, _ => some (r.va, r.size)
  | none, some r, _ => some (r.va, r.size)
  | none, none, some r => some (r.va, r.size)
  | none, none, none => none

end Sys2Proof.Claims

/-- R151, R74: a load, store or atomic outside the Keystone window whose address is no multiple of its size raises ALIGN, and an
aligned one in the LOCAL window that no grant permits raises PROT, each with the address in VADDR and the instruction's own pc;
nothing else of the instruction happens. -/
def Sys2Proof.Claims.MisalignedAndUngrantedAccessesTrap : Prop :=
  ∀ (s : Sys2Proof.Machine.State) (i : Sys2Proof.Instr) (va : Sys2Proof.Word) (n : Nat),
    Sys2Proof.Claims.Quiet s →
    Sys2Proof.Claims.accessRow (Sys2Proof.Machine.getCtx s s.cur) i = some (va, n) →
    Sys2Proof.Machine.isWindow va = false →
    (va.toNat % n ≠ 0 → Sys2Proof.Machine.exec i s = .next (Sys2Proof.Machine.takeTrap s s.cur { code := 3, vaddr := va })) ∧
    (va.toNat % n = 0 → Sys2Proof.Machine.isLocal va = true →
      Sys2Proof.Machine.localLoc s s.cur (va.toNat - Sys2Proof.Machine.localBase) n = none →
      Sys2Proof.Machine.exec i s = .next (Sys2Proof.Machine.takeTrap s s.cur { code := 5, vaddr := va }))

/-- R73, R74: what a context may touch in the LOCAL window: of its own cluster's store, at the address's offset from the window's
base, bytes that lie in SCRATCH banks and, for an actor, in its frame grant or its scratch grant; nothing else of the window. -/
def Sys2Proof.Claims.LocalGrantsOfAnActor : Prop :=
  ∀ (s : Sys2Proof.Machine.State) (off n : Nat), s.cur.slot < 16 → 0 < n →
    let g := (Sys2Proof.Machine.getCtx s s.cur).grants
    let cl := Sys2Proof.Machine.clusterOf s.cur.cell
    let inFrame := g.frameOff ≤ off ∧ off + n ≤ g.frameOff + g.frameSize
    let inScratch := g.scratchOff ≤ off ∧ off + n ≤ g.scratchOff + g.scratchSize
    let inBanks := off + n ≤ 2 ^ 21 ∧
      ∀ b, off ≤ b → b < off + n → (Sys2Proof.Machine.getCluster s cl).modes.extractLsb' (2 * (b / 2 ^ 17)) 2 = 1
    let a := Sys2Proof.Machine.ownModule s * 2 ^ 60 + 2 ^ 56 + cl * 2 ^ 21 + off
    (inBanks → inFrame → Sys2Proof.Machine.localLoc s s.cur off n = some ⟨a, .frame, 0, 0, none⟩) ∧
    (inBanks → ¬ inFrame → inScratch → Sys2Proof.Machine.localLoc s s.cur off n = some ⟨a, .scratch, 0, 0, none⟩) ∧
    (¬ (inBanks ∧ (inFrame ∨ inScratch)) → Sys2Proof.Machine.localLoc s s.cur off n = none)

/-- R73, R74, R151: the checks of an access and what they permit. -/
def Obligations.AccessChecks : Prop :=
  Sys2Proof.Claims.MisalignedAndUngrantedAccessesTrap ∧
  Sys2Proof.Claims.LocalGrantsOfAnActor

/-- R156: PREF completes whatever its address: it neither stalls nor faults, and leaves memory, every context but for the pc, every
view and queue and the fault records as they are. -/
def Sys2Proof.Claims.PrefetchChangesNoValue : Prop :=
  ∀ (s : Sys2Proof.Machine.State) (a : Sys2Proof.Reg) (off : Sys2Proof.Imm 9) (hint : Fin 3), Sys2Proof.Claims.Issues s →
    ∃ u, Sys2Proof.Machine.exec (.pref a off hint) s = .next (Sys2Proof.Claims.advance u (Sys2Proof.Instr.pref a off hint).bytes) ∧
      u.mem = s.mem ∧ u.ctxs = s.ctxs ∧ u.cells = s.cells ∧ u.owners = s.owners ∧ u.gwq = s.gwq ∧ u.fenceOrder = s.fenceOrder ∧
      u.cur = s.cur ∧ u.hub.records = s.hub.records ∧ u.hub.fabCopies = s.hub.fabCopies ∧
      ∀ d, (Sys2Proof.Machine.getDie u d).copies = (Sys2Proof.Machine.getDie s d).copies

namespace Sys2Proof.Claims
open Sys2Proof.Machine

/-! ## Scalar floating point -/

/-- The bits of a precision (R134), and its format. -/
def low (p : Prec) (v : Word) : Nat := match p with | .w => v.toNat % 2 ^ 32 | .d => v.toNat
def format : Prec → FpFmt
  | .w => fp32
  | .d => fp64

/-- An f register, and OPB of Table 6.0, as bits and as a value. -/
def fBits (x : Ctx) (p : Prec) (r : Reg) : Nat := low p x.regs.f[r]
def fpB (x : Ctx) (p : Prec) : OpB → Nat
  | .reg r => fBits x p r
  | .bank k => low p (x.regs.c.toList.getD k.val 0)
  | .lit v => match p with | .w => v.toNat | .d => fp64Of v.toNat
def fpL (x : Ctx) (p : Prec) : OpL → Nat
  | .reg r => fBits x p r
  | .lit v => match p with | .w => v.toNat | .d => fp64Of v.toNat
def fpC (x : Ctx) (p : Prec) : OpC → Nat
  | .reg r => fBits x p r
  | .bank k => low p (x.regs.c.toList.getD k.val 0)
def value (p : Prec) (v : Nat) : FVal := fpDecode (format p) v

/-- Rounding mode of an rm field (R143): FRM, or 1 toward zero, 2 up, 3 down. -/
def mode (x : Ctx) : RmField → Nat
  | .frm => x.frm.toNat
  | .rtz => 1
  | .rup => 2
  | .rdn => 3

/-- The sign bit of a precision. -/
def topBit (p : Prec) : Nat := match p with | .w => 2 ^ 31 | .d => 2 ^ 63

/-- Tables 6.4, 6.6, R144 to R150: the f register written, its bits, and the FSTAT bits set. -/
def floatRow (x : Ctx) : Instr → Option (Reg × Nat × FFlags)
  | .fadd p rm d a b => some (d, fvAdd (format p) (mode x rm) (value p (fBits x p a)) (value p (fpB x p b)))
  | .fsub p rm d a b => some (d, fvAdd (format p) (mode x rm) (value p (fBits x p a)) (negate (value p (fpB x p b))))
  | .fmul p rm d a b => some (d, fvMul (format p) (mode x rm) (value p (fBits x p a)) (value p (fpB x p b)))
  | .fdiv p rm d a b => some (d, fvDiv (format p) (mode x rm) (value p (fBits x p a)) (value p (fpB x p b)))
  | .fsqrt p rm d a => some (d, fvSqrt (format p) (mode x rm) (value p (fBits x p a)))
  | .fmin p d a b => some (d, fpMinMax (format p) false (fBits x p a) (fpB x p b))
  | .fmax p d a b => some (d, fpMinMax (format p) true (fBits x p a) (fpB x p b))
  | .fabs p d a =>
    some (d, if isNaN (value p (fBits x p a)) then canonNaN (format p) else fBits x p a % topBit p, 0)
  | .fneg p d a =>
    some (d, if isNaN (value p (fBits x p a)) then canonNaN (format p) else fBits x p a ^^^ topBit p, 0)
  | .fcvt rm 0 d a => some (d, fvRound fp32 (mode x rm) false (value .d (fBits x .d a)))
  | .fcvt rm 1 d a => some (d, fvRound fp64 (mode x rm) false (value .w (fBits x .w a)))
  | .fcvt rm 2 d a => some (d, ofInteger fp32 (mode x rm) (xAt x a).toInt)
  | .fcvt rm 3 d a => some (d, ofInteger fp32 (mode x rm) (xAt x a).toNat)
  | .fcvt rm 4 d a => some (d, ofInteger fp64 (mode x rm) (xAt x a).toInt)
  | .fcvt rm 5 d a => some (d, ofInteger fp64 (mode x rm) (xAt x a).toNat)
  | .fcvt rm 12 d a => some (d, fvRound fp32 (mode x rm) false (fpDecode fp16 (x.regs.f[a].toNat % 2 ^ 16)))
  | .fcvt rm 13 d a => some (d, fvRound fp16 (mode x rm) false (value .w (fBits x .w a)))
  | .fcvt rm 14 d a => some (d, fvRound fp32 (mode x rm) false (fpDecode bf16 (x.regs.f[a].toNat % 2 ^ 16)))
  | .fcvt rm 15 d a => some (d, fvRound bf16 (mode x rm) false (value .w (fBits x .w a)))
  | .fmvf p d a => some (d, low p (xAt x a), 0)
  | .frcpA p d a => some (d, fvRcp (format p) 12 (value p (fBits x p a)))
  | .frsqA p d a => some (d, fvRsqrt (format p) 12 (value p (fBits x p a)))
  | .fli d v => some (⟨d.val, by omega⟩, match v with | .imm k => k.toNat * 2 ^ 12 | .lit k => k.toNat, 0)
  | .fma p d a b c =>
    some (d, fvFma (format p) x.frm.toNat (value p (fBits x p a)) (value p (fpL x p b)) (value p (fpC x p c)))
  | .fms p d a b c =>
    some (d, fvFma (format p) x.frm.toNat (value p (fBits x p a)) (value p (fpL x p b)) (negate (value p (fpC x p c))))
  | .fnma p d a b c =>
    some (d, fvFma (format p) x.frm.toNat (negate (value p (fBits x p a))) (value p (fpL x p b)) (value p (fpC x p c)))
  | .fnms p d a b c =>
    some (d, fvFma (format p) x.frm.toNat (negate (value p (fBits x p a))) (value p (fpL x p b)) (negate (value p (fpC x p c))))
  | .cFaddW d a =>
    some (x8 d, fvAdd fp32 x.frm.toNat (value .w (fBits x .w (x8 d))) (value .w (fBits x .w (x8 a))))
  | .cFmulW d a =>
    some (x8 d, fvMul fp32 x.frm.toNat (value .w (fBits x .w (x8 d))) (value .w (fBits x .w (x8 a))))
  | .cFmaW d a b =>
    some (x8 d, fvFma fp32 x.frm.toNat (value .w (fBits x .w (x8 a))) (value .w (fBits x .w (x8 b))) (value .w (fBits x .w (x8 d))))
  | _ => none

/-- The forms that write an x register: the value and the FSTAT bits (R145 to R147). -/
def floatToXRow (x : Ctx) : Instr → Option (Reg × Word × FFlags)
  | .feq p d a b => some (d, relation p (fBits x p a) (fpB x p b) false fvEq)
  | .flt p d a b => some (d, relation p (fBits x p a) (fpB x p b) true (fvLess false))
  | .fle p d a b => some (d, relation p (fBits x p a) (fpB x p b) true fun u v => !fvLess false v u)
  | .fclass p d a => some (d, BitVec.ofNat 64 (fpClass (format p) (fBits x p a)), 0)
  | .fmvx p d a => some (d, match p with | .w => (BitVec.ofNat 32 (fBits x .w a)).signExtend 64 | .d => x.regs.f[a], 0)
  | .fcvt rm 6 d a => some (d, integer (toInteger (mode x rm) (-2 ^ 63) (2 ^ 63 - 1) (value .w (fBits x .w a))))
  | .fcvt rm 7 d a => some (d, integer (toInteger (mode x rm) 0 (2 ^ 64 - 1) (value .w (fBits x .w a))))
  | .fcvt rm 8 d a => some (d, integer (toInteger (mode x rm) (-2 ^ 63) (2 ^ 63 - 1) (value .d (fBits x .d a))))
  | .fcvt rm 9 d a => some (d, integer (toInteger (mode x rm) 0 (2 ^ 64 - 1) (value .d (fBits x .d a))))
  | .fcvt rm 10 d a => some (d, integer (toInteger (mode x rm) (-2 ^ 31) (2 ^ 31 - 1) (value .w (fBits x .w a))))
  | .fcvt rm 11 d a => some (d, integer (toInteger (mode x rm) (-2 ^ 31) (2 ^ 31 - 1) (value .d (fBits x .d a))))
  | _ => none
where
  /-- A comparison: 0 with a NaN; invalid for a signalling NaN, or (FLT, FLE) any NaN. -/
  relation (p : Prec) (u v : Nat) (loud : Bool) (rel : FVal → FVal → Bool) : Word × FFlags :=
    let nan := isNaN (value p u) || isNaN (value p v)
    (if nan = false ∧ rel (value p u) (value p v) = true then 1 else 0,
     if isSnan (value p u) || isSnan (value p v) || (loud && nan) then 1 else 0)
  integer (r : Int × FFlags) : Word × FFlags := (BitVec.ofInt 64 r.1, r.2)

end Sys2Proof.Claims

/-- R134, R135, R143 to R150, R209: the scalar floating-point instructions that write an f register (FADD, FSUB, FMUL, FDIV, FSQRT, FMIN,
FMAX, FABS, FNEG, FCVT to a float, FMVF, FRCP.A, FRSQ.A, FLI, FMA, FMS, FNMA, FNMS, C.FADD.W, C.FMUL.W, C.FMA.W) complete with the
value of the table in fd and its flags added to FSTAT; no other register, no other FSTAT bit and no byte of memory changes. -/
def Sys2Proof.Claims.FloatFormsWriteTheirValueAndFlags : Prop :=
  ∀ (s : Sys2Proof.Machine.State) (i : Sys2Proof.Instr) (d : Sys2Proof.Reg) (v : Nat) (fl : Sys2Proof.Machine.FFlags),
    Sys2Proof.Claims.Quiet s →
    Sys2Proof.Claims.floatRow (Sys2Proof.Machine.getCtx s s.cur) i = some (d, v, fl) →
    Sys2Proof.Machine.exec i s = .next (Sys2Proof.Claims.advance
      (Sys2Proof.Claims.withFlags (Sys2Proof.Claims.withF s d (BitVec.ofNat 64 v)) fl) i.bytes)

/-- R145 to R147, R135: FEQ, FLT, FLE, FCLASS, FMVX and FCVT to an integer complete with their value in xd (none for x0) and their
flags added to FSTAT; nothing else changes. -/
def Sys2Proof.Claims.FloatFormsThatWriteAnIntegerRegister : Prop :=
  ∀ (s : Sys2Proof.Machine.State) (i : Sys2Proof.Instr) (d : Sys2Proof.Reg) (v : Sys2Proof.Word)
    (fl : Sys2Proof.Machine.FFlags),
    Sys2Proof.Claims.Quiet s →
    Sys2Proof.Claims.floatToXRow (Sys2Proof.Machine.getCtx s s.cur) i = some (d, v, fl) →
    Sys2Proof.Machine.exec i s = .next (Sys2Proof.Claims.advance
      (Sys2Proof.Claims.withFlags (Sys2Proof.Claims.withX s d v) fl) i.bytes)

/-- R143 to R150, R209, R135: the scalar floating-point instructions, by the file of their destination. -/
def Obligations.ScalarFloatingPointWritesItsValueAndFlags : Prop :=
  Sys2Proof.Claims.FloatFormsWriteTheirValueAndFlags ∧
  Sys2Proof.Claims.FloatFormsThatWriteAnIntegerRegister

namespace Sys2Proof.Claims
open Sys2Proof.Machine

/-- `(−1)^neg × m × 2^e` lies exactly on a code of the format. -/
def Exact (f : FpFmt) (neg : Bool) (m : Nat) (e : Int) (code : Nat) : Prop :=
  ∃ mc ec, fpDecode f code = .fin neg mc ec ∧ 0 < mc ∧
    (mc : Int) * 2 ^ (ec - min e ec).toNat = (m : Int) * 2 ^ (e - min e ec).toNat

/-- A code of the format: a number of its width. -/
def isCode (f : FpFmt) (v : Nat) : Prop := v < 2 ^ (1 + f.ebits + f.mbits)

end Sys2Proof.Claims

/-- R204: rounding to FP32 or FP64 is exact where it can be: in every rounding mode, a non-zero finite value that some code of the
format has comes out as a code of that value, and sets none of invalid, divide-by-zero, overflow, underflow and inexact. -/
def Sys2Proof.Claims.RepresentableValuesRoundToThemselves : Prop :=
  ∀ (p : Sys2Proof.Prec) (mode : Nat) (neg : Bool) (m : Nat) (e : Int) (c : Nat), mode < 4 → 0 < m →
    let f := Sys2Proof.Claims.format p
    Sys2Proof.Claims.isCode f c → Sys2Proof.Claims.Exact f neg m e c →
    (Sys2Proof.Machine.roundTo f mode false neg m e).1 = c ∧
    (Sys2Proof.Machine.roundTo f mode false neg m e).2 &&& 31 = 0

/-- R200, R144, R150: where one of the first two operands is a NaN, the sum, product, quotient and fused multiply-add of FADD, FSUB,
FMUL, FDIV and the four FMA forms are the canonical NaN of the format, 0x7FC0_0000 or 0x7FF8_0000_0000_0000, and set the invalid flag
exactly when some operand is a signalling NaN. -/
def Sys2Proof.Claims.NanOperandsGiveTheCanonicalNan : Prop :=
  ∀ (p : Sys2Proof.Prec) (mode : Nat) (a b c : Sys2Proof.Machine.FVal),
    let f := Sys2Proof.Claims.format p
    let quiet := match p with | .w => 0x7FC00000 | .d => 0x7FF8000000000000
    let snan := Sys2Proof.Machine.isSnan
    (Sys2Proof.Machine.isNaN a || Sys2Proof.Machine.isNaN b) = true →
    ((Sys2Proof.Machine.fvAdd f mode a b).1 = quiet ∧
      ((Sys2Proof.Machine.fvAdd f mode a b).2 &&& 1 = 1 ↔ (snan a || snan b) = true)) ∧
    ((Sys2Proof.Machine.fvMul f mode a b).1 = quiet ∧
      ((Sys2Proof.Machine.fvMul f mode a b).2 &&& 1 = 1 ↔ (snan a || snan b) = true)) ∧
    ((Sys2Proof.Machine.fvDiv f mode a b).1 = quiet ∧
      ((Sys2Proof.Machine.fvDiv f mode a b).2 &&& 1 = 1 ↔ (snan a || snan b) = true)) ∧
    ((Sys2Proof.Machine.fvFma f mode a b c).1 = quiet ∧
      ((Sys2Proof.Machine.fvFma f mode a b c).2 &&& 1 = 1 ↔ (snan a || snan b || snan c) = true))

/-- R200, R204: rounding is exact where it can be, and NaN results are the canonical NaN. -/
def Obligations.RoundingIsExactAndNansAreCanonical : Prop :=
  Sys2Proof.Claims.RepresentableValuesRoundToThemselves ∧
  Sys2Proof.Claims.NanOperandsGiveTheCanonicalNan

namespace Sys2Proof.Claims
open Sys2Proof.Machine

/-! ## System instructions -/

/-- An immediate of WAITC: 15 places no limit (R169). -/
def countWithin (n : Nat) (lim : Fin 16) : Prop := lim.val = 15 ∨ n ≤ lim.val

/-- Table 2.14: the registers that hold one value each. -/
def systemRegister (s : State) (x : Ctx) (k : Cell) : Nat → Option Word
  | 0x000 => some (x.ident.root.setWidth 64)
  | 0x004 => some s.dtc
  | 0x010 => some (x.fstat.setWidth 64)
  | 0x011 => some (x.frm.setWidth 64)
  | 0x020 => some x.tag.tags
  | 0x032 => some x.ident.gtid
  | 0x100 => some x.counters.activecyc
  | 0x101 => some x.counters.retired
  | 0x102 => some x.counters.commits
  | 0x103 => some x.counters.aborts
  | 0x104 => some x.counters.sent
  | 0x105 => some x.counters.stallcyc
  | 0x140 => some k.discarded
  | 0x141 => some k.rejected
  | 0x142 => some k.refused
  | n => if 0x400 ≤ n ∧ n < 0x440 then some (x.regs.c.toList.getD (n - 0x400) 0) else none

/-- The numbers that Table 2.14 lists. -/
def listed (n : Nat) : Bool :=
  [0x000, 0x001, 0x002, 0x003, 0x004, 0x010, 0x011, 0x020, 0x030, 0x031, 0x032, 0x040, 0x041, 0x042].contains n ||
  (0x100 ≤ n && n < 0x180) || (0x400 ≤ n && n < 0x440)

end Sys2Proof.Claims

/-- R164, R169: NOP and C.NOP, of the words 0x0000_0003 and 0xE002, have no effect, and WAITC completes, with no effect either, where the context's loads, unpropagated
stores, unset tags and unretired matrix operations are each within its immediate; else it stalls: the pc, the registers and
memory stay. -/
def Sys2Proof.Claims.NopsAndSatisfiedWaitsHaveNoEffect : Prop :=
  Sys2Proof.decode [0x0003, 0x0000] = .ok (.nop, 2) ∧ Sys2Proof.decode [0xE002] = .ok (.cNop, 1) ∧
  ∀ (s : Sys2Proof.Machine.State), Sys2Proof.Claims.Issues s →
    Sys2Proof.Machine.exec .nop s = .next (Sys2Proof.Claims.advance s 4) ∧
    Sys2Proof.Machine.exec .cNop s = .next (Sys2Proof.Claims.advance s 2) ∧
    ∀ nl ns nc nm,
      let x := Sys2Proof.Machine.getCtx s s.cur
      let free := Sys2Proof.Claims.countWithin x.loads.length nl ∧
        Sys2Proof.Claims.countWithin (Sys2Proof.Machine.unpropagatedCount s s.cur) ns ∧
        Sys2Proof.Claims.countWithin ((List.range 64).countP fun i => !x.tag.tags.getLsbD i) nc ∧
        Sys2Proof.Claims.countWithin ((Sys2Proof.Machine.getCluster s (s.cur.cell / 4)).eme.countP fun o =>
          decide (o.owner = s.cur) && decide (o.actid.toNat = x.ident.root.toNat % 2 ^ 32)) nm
      (free → Sys2Proof.Machine.exec (.waitc nl ns nc nm) s = .next (Sys2Proof.Claims.advance s 4)) ∧
      (¬ free → Sys2Proof.Machine.exec (.waitc nl ns nc nm) s =
        .next (Sys2Proof.Machine.modCtx s s.cur fun y => { y with wait := .other }))

/-- R164, R169, R156: instructions that change no value. -/
def Obligations.NopsWaitsAndPrefetches : Prop :=
  Sys2Proof.Claims.NopsAndSatisfiedWaitsHaveNoEffect ∧
  Sys2Proof.Claims.PrefetchChangesNoValue

/-- R41, R166: CSRR completes with the register's value in xd for the registers of Table 2.14 that hold one value, for LAUNCH, GROUP
and CELLXY field by field (R380, Table 11.4), for WDOG and SPAWNLIM; and every listed number completes. -/
def Sys2Proof.Claims.SystemRegistersRead : Prop :=
  ∀ (s : Sys2Proof.Machine.State) (d : Sys2Proof.Reg) (n : BitVec 12), Sys2Proof.Claims.Quiet s →
    let x := Sys2Proof.Machine.getCtx s s.cur
    let reads := fun (v : Sys2Proof.Word) => Sys2Proof.Claims.writesX s (.csrr d n) d v
    (∀ v, Sys2Proof.Claims.systemRegister s x (Sys2Proof.Machine.getCell s s.cur.cell) n.toNat = some v → reads v) ∧
    (Sys2Proof.Claims.listed n.toNat = true → ∃ v, reads v) ∧
    (n = 0x001 → ∃ v, reads v ∧ v.toNat % 2 ^ 8 = x.ident.root.toNat % 2 ^ 32 / 2 ^ 24 ∧
      v.toNat / 2 ^ 16 % 2 ^ 16 = x.ident.asid.toNat ∧ v.toNat / 2 ^ 32 = 0) ∧
    (n = 0x002 → ∀ l, Sys2Proof.Machine.launchAt s x.ident.lslot.toNat = some l → 0 < l.packet.actors → l.packet.actors ≤ 16 →
      ∃ v, reads v ∧ v.toNat % 2 ^ 24 = x.ident.root.toNat % 2 ^ 24 / l.packet.actors ∧
        v.toNat / 2 ^ 24 = x.ident.root.toNat % 2 ^ 24 % l.packet.actors) ∧
    (n = 0x003 → s.cur.cell < 2048 → ∃ v, reads v ∧ v.toNat % 4 = s.cur.cell % 4 ∧
      v.toNat / 2 ^ 2 % 2 ^ 4 = s.cur.cell / 4 % 16 ∧ v.toNat / 2 ^ 6 % 2 ^ 3 = s.cur.cell / 64 % 8 ∧
      v.toNat / 2 ^ 9 % 4 = s.cur.cell / 512 ∧ v.toNat / 2 ^ 16 % 2 ^ 11 = s.cur.cell ∧
      v.toNat / 2 ^ 32 % 2 ^ 4 = s.hub.modCol.toNat ∧ v.toNat / 2 ^ 36 = s.hub.modRow.toNat) ∧
    (n = 0x030 → x.wdog < 2 ^ 26 → reads (BitVec.ofNat 64 x.wdog)) ∧
    (n = 0x031 → reads (if s.cur.slot < 16 then x.spawnlim.setWidth 64 else 0))

/-- R41, R166: CSRW writes FSTAT bits 5:0, FRM bits 1:0 and, in an actor, SPAWNLIM bits 15:0; to any other listed number it has no
effect; CSRR and CSRW of an unlisted number raise ILLEGAL_OP. No general register and no byte of memory changes. -/
def Sys2Proof.Claims.SystemRegistersWrite : Prop :=
  ∀ (s : Sys2Proof.Machine.State) (n : BitVec 12) (r d : Sys2Proof.Reg), Sys2Proof.Claims.Quiet s →
    let x := Sys2Proof.Machine.getCtx s s.cur
    let v := Sys2Proof.Claims.xAt x r
    let becomes := fun (f : Sys2Proof.Machine.Ctx → Sys2Proof.Machine.Ctx) =>
      Sys2Proof.Machine.exec (.csrw n r) s = .next (Sys2Proof.Claims.advance (Sys2Proof.Machine.modCtx s s.cur f) 4)
    (n = 0x010 → becomes fun y => { y with fstat := v.setWidth 6 }) ∧
    (n = 0x011 → becomes fun y => { y with frm := v.setWidth 2 }) ∧
    (n = 0x031 → s.cur.slot < 16 → becomes fun y => { y with spawnlim := v.setWidth 16 }) ∧
    (Sys2Proof.Claims.listed n.toNat = true → n ≠ 0x010 → n ≠ 0x011 → (n = 0x031 → 16 ≤ s.cur.slot) → becomes fun y => y) ∧
    (Sys2Proof.Claims.listed n.toNat = false →
      Sys2Proof.Machine.exec (.csrw n r) s = .next (Sys2Proof.Machine.takeTrap s s.cur { code := 1 }) ∧
      Sys2Proof.Machine.exec (.csrr d n) s = .next (Sys2Proof.Machine.takeTrap s s.cur { code := 1 }))

/-- R41, R166: the system registers. -/
def Obligations.SystemRegistersReadAndWrite : Prop :=
  Sys2Proof.Claims.SystemRegistersRead ∧
  Sys2Proof.Claims.SystemRegistersWrite

/-- R157, R58, R59, R158: FENCE, once the context's registrations have propagated, discards the cell's COPY entries and leaves section
and buffer; FENCE.SC makes the section irrevocable, takes a point in the fence order once no update is on its way and the context's
loads have their values (the loads are the model's choice, log 110), and discards the COPY entries; ICSYNC empties the cell's instruction view and waits for nothing. Registers and memory stay. -/
def Sys2Proof.Claims.FencesDiscardViews : Prop :=
  ∀ (s : Sys2Proof.Machine.State), Sys2Proof.Claims.Issues s →
    Sys2Proof.Machine.exec .icsync s = .next (Sys2Proof.Claims.advance
      (Sys2Proof.Machine.modCell s s.cur.cell fun k => { k with iview := [] }) 4) ∧
    (Sys2Proof.Machine.unpropagated s s.cur.cell (.ctx s.cur) = false →
      Sys2Proof.Machine.exec .fence s = .next (Sys2Proof.Claims.advance (Sys2Proof.Claims.copiesDropped s) 4) ∧
      ((Sys2Proof.Machine.getCtx s s.cur).sec.buffer = [] → Sys2Proof.Machine.allPropagated s = true →
        (∀ p ∈ (Sys2Proof.Machine.getCtx s s.cur).loads, p.value.isSome = true) →
        Sys2Proof.Machine.exec .fenceSc s = .next (Sys2Proof.Claims.advance (Sys2Proof.Claims.copiesDropped
          { Sys2Proof.Claims.madeIrrevocable s with fenceOrder := s.cur :: s.fenceOrder }) 4)))

/-- R168, R419: TMARK in a launch with TRACE and room in the trace ring appends the 32 bytes of a record at TRTAIL (kind 1, the code,
the cell, the ASID; the identity; the trigger; DTC) and moves TRTAIL on; in a launch without TRACE it has no effect. -/
def Sys2Proof.Claims.TraceMarksAreRecorded : Prop :=
  ∀ (s : Sys2Proof.Machine.State) (code : BitVec 16) (l : Sys2Proof.Machine.Launch), Sys2Proof.Claims.Issues s →
    let x := Sys2Proof.Machine.getCtx s s.cur
    Sys2Proof.Machine.launchAt s x.ident.lslot.toNat = some l →
    (l.packet.flags.getLsbD 3 = false → Sys2Proof.Machine.exec (.tmark code) s = .next (Sys2Proof.Claims.advance s 4)) ∧
    let log := s.hub.trbase.toNat % 32
    let pa := s.hub.trbase.toNat / 2 ^ 16 % 2 ^ 36 * 2 ^ 16 + s.hub.trtail.toNat % 2 ^ log * 32
    let a := Sys2Proof.Machine.ownModule s * 2 ^ 60 + pa
    (l.packet.flags.getLsbD 3 = true → 11 ≤ log → log ≤ 24 → (s.hub.trtail - s.hub.trhead).toNat < 2 ^ log →
      Sys2Proof.Machine.populated s pa 32 = true → (∀ g, x.trigger = some g → g.stored.msg.cls < 64) →
      ∃ u, Sys2Proof.Machine.exec (.tmark code) s = .next (Sys2Proof.Claims.advance u 4) ∧
        u.hub.trtail = s.hub.trtail + 1 ∧ u.hub.trdrop = s.hub.trdrop ∧ u.ctxs = s.ctxs ∧
        (∃ w, Sys2Proof.Machine.readWord u.mem a = w ∧ w.toNat % 2 ^ 8 = 1 ∧ w.toNat / 2 ^ 16 % 2 ^ 16 = code.toNat ∧
          (s.cur.cell < 2048 → w.toNat / 2 ^ 32 % 2 ^ 16 = s.cur.cell ∧ w.toNat / 2 ^ 48 = x.ident.asid.toNat)) ∧
        Sys2Proof.Machine.readWord u.mem (a + 8) =
          (if s.cur.slot < 16 then BitVec.ofNat 64 (x.ident.root.toNat % 2 ^ 32) else x.ident.gtid) ∧
        Sys2Proof.Machine.readWord u.mem (a + 24) = s.dtc ∧
        ∀ b, b < a ∨ a + 32 ≤ b → Sys2Proof.Machine.readByte u.mem b = Sys2Proof.Machine.readByte s.mem b)

/-- R58, R59, R157, R158, R168, R419: fences, instruction synchronisation and trace marks. -/
def Obligations.FencesAndTraceMarks : Prop :=
  Sys2Proof.Claims.FencesDiscardViews ∧
  Sys2Proof.Claims.TraceMarksAreRecorded

/-! ## Traps, handlers, commits -/

/-- R36 to R39, R165: a reserved encoding raises ILLEGAL_OP at its own pc; TRAP raises BREAK with its code in the cursor; BRK raises
BREAK with bit 16 of the cursor set in a launch not under debug, and halts the context, before it completes, in one that is. -/
def Obligations.TrapsOfTheInstructionItself : Prop :=
  ∀ (s : Sys2Proof.Machine.State) (code : BitVec 16) (b : Nat), Sys2Proof.Claims.Issues s →
    let x := Sys2Proof.Machine.getCtx s s.cur
    Sys2Proof.Machine.exec (.reservedEncoding b) s = .next (Sys2Proof.Machine.takeTrap s s.cur { code := 1 }) ∧
    Sys2Proof.Machine.exec (.trap code) s =
      .next (Sys2Proof.Machine.takeTrap s s.cur { code := 24, cursor := code.setWidth 64 }) ∧
    ((∀ l, Sys2Proof.Machine.launchAt s x.ident.lslot.toNat = some l → l.packet.flags.getLsbD 4 = false) →
      Sys2Proof.Machine.exec (.brk code) s =
        .next (Sys2Proof.Machine.takeTrap s s.cur { code := 24, cursor := code.setWidth 64 + 0x10000 })) ∧
    (∀ l, Sys2Proof.Machine.launchAt s x.ident.lslot.toNat = some l → l.packet.flags.getLsbD 4 = true →
      ∃ u, Sys2Proof.Machine.exec (.brk code) s = .next u ∧
        (Sys2Proof.Machine.getCtx u s.cur).dbg.halted = true ∧ (Sys2Proof.Machine.getCtx u s.cur).pc = x.pc ∧
        (Sys2Proof.Machine.getCtx u s.cur).regs = x.regs)

namespace Sys2Proof.Claims
open Sys2Proof.Machine

/-- The fault record of a trap (R188, Table 22.1): the context's identity, the trap's own values, SECTIONS capped at 65,535. -/
def recordOf (s : State) (c : CtxId) (t : TrapInfo) : FaultRecord :=
  let x := getCtx s c
  { code := BitVec.ofNat 8 t.code, unit := 0, unitIdx := BitVec.ofNat 16 c.cell, asid := x.ident.asid,
    sections := BitVec.ofNat 16 (min x.sec.committed 65535),
    ident := if c.slot < 16 then BitVec.ofNat 64 (x.ident.root.toNat % 2 ^ 32) else x.ident.gtid,
    msgid := match x.trigger with
      | some g => BitVec.ofNat 64 (g.stored.msg.sender.toNat + g.stored.msg.seq.toNat * 2 ^ 40)
      | none => 0,
    pc := t.pc.getD x.pc, vaddr := t.vaddr, cursor := t.cursor, lane := BitVec.ofNat 16 t.lane,
    flags := BitVec.ofNat 8 ((if x.sec.irrevocable then 1 else 0) + if 16 ≤ c.slot then 2 else 0), dtc := s.dtc }

/-- The registers of a context that a trap or a commit clears: all but the constant bank (R100). -/
def cleared (r : Regs) : Regs := { Regs.zero with c := r.c }

/-- A SPAWN's count request that was granted and whose answer the context has not used yet (R183, R187). -/
def unreadGrant (x : Ctx) : Nat := if x.wait = .spawn (some true) then 1 else 0

/-- What the SPAWNs of a section ended by a trap give back (R110, R187). -/
def givenBack (x : Ctx) : Nat :=
  unreadGrant x + if x.sec.irrevocable then (if x.sec.granted then 1 else 0) else x.sec.spawned

/-- The registers that a strand carries (R123). -/
def carriedOf (x : Ctx) : List Word :=
  (upFrom 1 (if x.ident.full then 16 else 8)).map fun k => xAt x (Fin.ofNat 32 k)

/-- A strand's message as R180 and R184 have it written at `pc`: the carried registers, the pc, the sequence counter; the rest as it
was. -/
def strandPoint (x : Ctx) (old : Message) (base pc : Word) : Message :=
  { old with payload := carriedOf x, len := (carriedOf x).length, pcoff := (pc - base).setWidth 32, seq := x.seq }

end Sys2Proof.Claims

/-- R110, R167, R187, R188: the trap of a revocable actor with no committed section makes it FAULTED: its trigger goes back to the head
of its mailbox, its registers but the constant bank are zero, FSTAT, FRM and SPAWNLIM have their section-start values, its effects
are gone, the strands that its SPAWNs counted are given back, the watchdog is full; one fault record, with the values of R188, is
the last on its way. -/
def Sys2Proof.Claims.TrapOfARevocableActor : Prop :=
  ∀ (s : Sys2Proof.Machine.State) (c : Sys2Proof.CtxId) (t : Sys2Proof.Machine.TrapInfo) (g : Sys2Proof.Machine.Trigger)
    (n : Fin 8),
    let x := Sys2Proof.Machine.getCtx s c
    c.slot < 16 → x.sec.irrevocable = false → x.sec.committed = 0 → x.trigger = some g → g.source = .mailbox n →
    let u := Sys2Proof.Machine.takeTrap s c t
    let y := Sys2Proof.Machine.getCtx u c
    y.state = .faulted ∧ y.trigger = none ∧ y.resumeFrom = some (.mailbox n) ∧
    y.mailboxes[n].fifo = { g.stored with counted := true } :: x.mailboxes[n].fifo ∧ y.notices = x.notices ∧
    y.regs = Sys2Proof.Claims.cleared x.regs ∧
    y.fstat = x.sec.start.fstat ∧ y.frm = x.sec.start.frm ∧ y.spawnlim = x.sec.start.spawnlim ∧
    y.sec = Sys2Proof.Machine.Section.fresh ∧ y.loads = [] ∧ y.wait = .none ∧ y.wdog = x.wdogBudget ∧
    y.counters = { x.counters with aborts := x.counters.aborts + 1 } ∧
    y.strands = x.strands - (Sys2Proof.Claims.unreadGrant x + x.sec.spawned) ∧
    u.hub.records = s.hub.records ++ [Sys2Proof.Claims.recordOf s c t]

/-- R107, R110: in a launch without TRACE, the trap of a revocable actor changes no byte of memory but those that its journal gives
back: a granule of the journal reads as it was when it was recorded. -/
def Sys2Proof.Claims.TrapRestoresTheFrame : Prop :=
  ∀ (s : Sys2Proof.Machine.State) (c : Sys2Proof.CtxId) (t : Sys2Proof.Machine.TrapInfo),
    let x := Sys2Proof.Machine.getCtx s c
    c.slot < 16 → x.sec.irrevocable = false → x.sec.committed = 0 →
    (∀ l, Sys2Proof.Machine.launchAt s x.ident.lslot.toNat = some l → l.packet.flags.getLsbD 3 = false) →
    x.sec.journal.Pairwise (fun p q => p.1 + 32 ≤ q.1 ∨ q.1 + 32 ≤ p.1) →
    let m := (Sys2Proof.Machine.takeTrap s c t).mem
    (∀ a v, (a, v) ∈ x.sec.journal → Sys2Proof.Machine.readLE m a 32 = v.toNat) ∧
    ∀ b, (∀ a v, (a, v) ∈ x.sec.journal → b < a ∨ a + 32 ≤ b) →
      Sys2Proof.Machine.readByte m b = Sys2Proof.Machine.readByte s.mem b

/-- R107, R110, R187, R188: taking an exception in a revocable section of an actor, and the frame that it gives back. -/
def Obligations.TrapOfARevocableActorUndoesItsSection : Prop :=
  Sys2Proof.Claims.TrapOfARevocableActor ∧
  Sys2Proof.Claims.TrapRestoresTheFrame

/-- R111: the trap of an irrevocable actor keeps what its section did: it is FAULTED, its trigger is consumed and not put back, FSTAT,
FRM and SPAWNLIM keep their values; the record's IRREVOCABLE flag is set. -/
def Sys2Proof.Claims.TrapOfAnIrrevocableActor : Prop :=
  ∀ (s : Sys2Proof.Machine.State) (c : Sys2Proof.CtxId) (t : Sys2Proof.Machine.TrapInfo),
    let x := Sys2Proof.Machine.getCtx s c
    c.slot < 16 → x.sec.irrevocable = true → (∀ g, x.trigger = some g → g.held = false) →
    let u := Sys2Proof.Machine.takeTrap s c t
    let y := Sys2Proof.Machine.getCtx u c
    y.state = .faulted ∧ y.trigger = none ∧ y.resumeFrom = x.resumeFrom ∧ y.mailboxes = x.mailboxes ∧ y.notices = x.notices ∧
    y.regs = Sys2Proof.Claims.cleared x.regs ∧ y.fstat = x.fstat ∧ y.frm = x.frm ∧ y.spawnlim = x.spawnlim ∧
    y.sec = Sys2Proof.Machine.Section.fresh ∧
    u.hub.records = s.hub.records ++ [Sys2Proof.Claims.recordOf s c t] ∧
    (Sys2Proof.Claims.recordOf s c t).flags.getLsbD 0 = true

/-- R112, R123: the trap of a revocable strand with room among its cell's 16 return entries frees its slot and leaves its message, as at
its resumption point and marked faulted, as the last return entry; without room the slot waits with the message; the trap of an
irrevocable one frees the slot and sends its root's cell a decrement. The strands that its SPAWNs counted are given back (R110,
R187). -/
def Sys2Proof.Claims.TrapOfAStrand : Prop :=
  ∀ (s : Sys2Proof.Machine.State) (c : Sys2Proof.CtxId) (t : Sys2Proof.Machine.TrapInfo) (g : Sys2Proof.Machine.Trigger),
    let x := Sys2Proof.Machine.getCtx s c
    16 ≤ c.slot → x.trigger = some g →
    let u := Sys2Proof.Machine.takeTrap s c t
    (Sys2Proof.Machine.getCtx u c).nextId = x.nextId ∧
    (x.sec.irrevocable = true →
      (Sys2Proof.Machine.getCtx u c).state = .free ∧
      u.hub.decrements = s.hub.decrements ++ List.replicate (Sys2Proof.Claims.givenBack x + 1) x.ident.root) ∧
    (x.sec.irrevocable = false →
      u.hub.decrements = s.hub.decrements ++ List.replicate (Sys2Proof.Claims.givenBack x) x.ident.root ∧
      ∃ m, m.msg = g.stored.msg ∧ m.fstat = x.sec.start.fstat ∧ m.faulted = true ∧
        ((Sys2Proof.Machine.getCell s c.cell).returns.length < 16 →
          (Sys2Proof.Machine.getCtx u c).state = .free ∧
          (Sys2Proof.Machine.getCell u c.cell).returns = (Sys2Proof.Machine.getCell s c.cell).returns ++ [m]) ∧
        (16 ≤ (Sys2Proof.Machine.getCell s c.cell).returns.length →
          (Sys2Proof.Machine.getCtx u c).state = .returning ∧
          (Sys2Proof.Machine.getCell u c.cell).returnWait =
            (Sys2Proof.Machine.getCell s c.cell).returnWait ++ [(c.slot, m)])) ∧
    ∃ r, u.hub.records = s.hub.records ++ [r] ∧ r = Sys2Proof.Claims.recordOf s c t

/-- R111, R112, R123: the other ways of taking an exception. -/
def Obligations.TrapsOfIrrevocableActorsAndOfStrands : Prop :=
  Sys2Proof.Claims.TrapOfAnIrrevocableActor ∧
  Sys2Proof.Claims.TrapOfAStrand

namespace Sys2Proof.Claims
open Sys2Proof.Machine

/-- The mailbox that R120 serves next: the lowest with a full pass counter, else the lowest with mail. -/
def ServedNext (x : Ctx) (n : Fin 8) : Prop :=
  let due := fun (k : Fin 8) => x.mailboxes[k].fifo ≠ [] ∧ 16 ≤ x.mailboxes[k].pass
  (due n ∧ ∀ k, k < n → ¬ due k) ∨
  (x.mailboxes[n].fifo ≠ [] ∧ (∀ k, ¬ due k) ∧ ∀ k, k < n → x.mailboxes[k].fifo = [])

/-- The context `y` of an actor whose handler of `m` has just started, `x` being what it was before (R105). -/
def HandlerStarted (x y : Ctx) (m : Message) : Prop :=
  let entry := x.routines.toList.getD m.cls 0
  y.state = .running ∧ y.pc = ((entry.extractLsb' 1 54).signExtend 63).setWidth 64 <<< 1 ∧
  y.regs.x[2] = BitVec.ofNat 64 (0xFFFFFFFFFFE00000 + x.grants.frameOff) ∧
  y.regs.x[3] = (if x.grants.scratchSize = 0 then 0 else BitVec.ofNat 64 (0xFFFFFFFFFFE00000 + x.grants.scratchOff)) ∧
  y.regs.x[4] = m.sender.setWidth 64 ∧ y.regs.x[5] = BitVec.ofNat 64 m.len ∧
  (∀ r : Fin 32, r ∉ ([2, 3, 4, 5] : List (Fin 32)) → y.regs.x[r] = 0) ∧
  (∀ k : Fin 16, y.regs.m[k] = m.payload.getD k.val 0) ∧
  y.regs.c = x.regs.c ∧ y.regs.f = Vector.replicate 32 0 ∧ y.regs.k = Vector.replicate 8 0 ∧ y.regs.t = Vector.replicate 16 0 ∧
  (∀ r : Fin 32, y.regs.w[r].bound = none ∧ y.regs.w[r].data = 0) ∧
  y.sec.irrevocable = false ∧ y.sec.buffer = [] ∧ y.sec.journal = [] ∧ y.sec.committed = 0 ∧ y.wdog = x.wdogBudget ∧
  y.fstat = x.fstat ∧ y.frm = x.frm ∧ y.spawnlim = x.spawnlim ∧
  ∃ g, y.trigger = some g ∧ g.stored.msg = m ∧ g.held = true ∧ g.deferred = false

end Sys2Proof.Claims

/-- R105, R120: HANDLER_ENTRY of a READY actor whose launch is not being evicted starts the handler of the oldest notice, or, without
one, of the oldest message of the mailbox that R120 serves next, when the class's routine entry is bound: PC from the routine table,
x2 and x3 the frame and scratch addresses, x4 the sender, x5 the payload's length, the m registers the payload, the constant bank
kept and every other register zero, FSTAT, FRM and SPAWNLIM kept, in a fresh section with a full watchdog. A mailbox served sets its
pass counter to 0 and raises that of every other mailbox with mail (here up to 16, a full counter); a notice moves no counter. -/
def Obligations.HandlersStartWithTheirEntryRegisters : Prop :=
  ∀ (s : Sys2Proof.Machine.State) (c : Sys2Proof.CtxId) (m : Sys2Proof.Machine.StoredMsg)
    (rest : List Sys2Proof.Machine.StoredMsg) (l : Sys2Proof.Machine.Launch),
    let x := Sys2Proof.Machine.getCtx s c
    c.slot < 16 → x.state = .ready → x.resumeFrom = none → m.msg.cls < 64 →
    Sys2Proof.Machine.launchAt s x.ident.lslot.toNat = some l → l.evicting = false →
    x.dbg.step = false → x.dbg.haltReq = false →
    (x.routines.toList.getD m.msg.cls 0).getLsbD 0 = true →
    (x.notices = m :: rest →
      ∃ u, Sys2Proof.Machine.exec (.handlerEntry c) s = .next u ∧
        let y := Sys2Proof.Machine.getCtx u c
        Sys2Proof.Claims.HandlerStarted x y m.msg ∧ y.notices = rest ∧ y.mailboxes = x.mailboxes) ∧
    ∀ n : Fin 8, x.notices = [] → Sys2Proof.Claims.ServedNext x n → x.mailboxes[n].fifo = m :: rest →
      ∃ u, Sys2Proof.Machine.exec (.handlerEntry c) s = .next u ∧
        let y := Sys2Proof.Machine.getCtx u c
        Sys2Proof.Claims.HandlerStarted x y m.msg ∧ y.notices = [] ∧
        y.mailboxes[n].fifo = rest ∧ y.mailboxes[n].pass = 0 ∧
        ∀ k : Fin 8, k ≠ n → y.mailboxes[k].fifo = x.mailboxes[k].fifo ∧
          y.mailboxes[k].pass = if x.mailboxes[k].fifo.isEmpty then x.mailboxes[k].pass else min 16 (x.mailboxes[k].pass + 1)

namespace Sys2Proof.Claims
open Sys2Proof.Machine

/-- The current context stands before a commit with nothing left to wait for: no load outstanding, the section buffer empty, every
store of the context propagated (R109, R179). -/
def CommitsAtOnce (s : State) : Prop :=
  Quiet s ∧ (getCtx s s.cur).sec.buffer = [] ∧ unpropagated s s.cur.cell (.ctx s.cur) = false

end Sys2Proof.Claims

/-- R106, R179, R180: with an empty section buffer and every earlier store propagated, HCOMMIT completes, in an actor and in a strand: it
ends the section and starts the next at the next instruction: registers, FSTAT, FRM and SPAWNLIM stay, the count of committed
sections rises, the new section is revocable with nothing recorded and a full watchdog, and its start values are the present ones.
An actor's trigger is consumed; a strand's resumption point is rewritten. -/
def Sys2Proof.Claims.HcommitStartsTheNextSection : Prop :=
  ∀ (s : Sys2Proof.Machine.State),
    let x := Sys2Proof.Machine.getCtx s s.cur
    Sys2Proof.Claims.CommitsAtOnce s →
    ∃ u, Sys2Proof.Machine.exec .hcommit s = .next u ∧
      let y := Sys2Proof.Machine.getCtx u s.cur
      y.pc = x.pc + 4 ∧ y.state = .running ∧ y.regs = x.regs ∧ y.fstat = x.fstat ∧ y.frm = x.frm ∧ y.spawnlim = x.spawnlim ∧
      y.sec = { Sys2Proof.Machine.Section.fresh with
        committed := x.sec.committed + 1
        start := { regs := x.regs, fstat := x.fstat, frm := x.frm, spawnlim := x.spawnlim, seq := x.seq, pc := x.pc + 4 } } ∧
      y.wdog = x.wdogBudget ∧ y.counters = { x.counters with commits := x.counters.commits + 1, retired := x.counters.retired + 1 } ∧
      (s.cur.slot < 16 → ∀ g, y.trigger = some g → g.held = false) ∧
      (16 ≤ s.cur.slot → ∀ g l, x.trigger = some g → Sys2Proof.Machine.launchAt s x.ident.lslot.toNat = some l →
        ∃ h, y.trigger = some h ∧
          h.stored.msg = Sys2Proof.Claims.strandPoint x g.stored.msg l.packet.codebase (x.pc + 4))

/-- R130, R179, Table 7.7: HDONE in an actor commits and ends the handler, EXIT commits and ends the actor: the registers but the
constant bank are zero and no trigger is left; after HDONE of a handler that is no TERMINATE handler the actor is READY if mail
waits, else IDLE; after EXIT, and after HDONE of a TERMINATE handler, it is ENDED with no mail left. SDONE in a strand whose tags are
all set frees its slot and sends its root's cell a decrement. HDONE and EXIT in a strand, and SDONE in an actor, raise
ILLEGAL_OP. -/
def Sys2Proof.Claims.CommitsThatEndTheRun : Prop :=
  ∀ (s : Sys2Proof.Machine.State) (a : Sys2Proof.Reg),
    let x := Sys2Proof.Machine.getCtx s s.cur
    let illegal := fun (i : Sys2Proof.Instr) =>
      Sys2Proof.Machine.exec i s = .next (Sys2Proof.Machine.takeTrap s s.cur { code := 1 })
    let ends := fun (i : Sys2Proof.Instr) => ∃ u, Sys2Proof.Machine.exec i s = .next u ∧
      let y := Sys2Proof.Machine.getCtx u s.cur
      y.state = .ended ∧ y.regs = Sys2Proof.Claims.cleared x.regs ∧ y.trigger = none ∧ y.notices = [] ∧
      y.counters.commits = x.counters.commits + 1 ∧ ∀ n : Fin 8, y.mailboxes[n].fifo = []
    Sys2Proof.Claims.CommitsAtOnce s →
    (s.cur.slot < 16 → (∀ g, x.trigger = some g → g.stored.msg.cls ≠ 63) →
      ∃ u, Sys2Proof.Machine.exec .hdone s = .next u ∧
        let y := Sys2Proof.Machine.getCtx u s.cur
        y.regs = Sys2Proof.Claims.cleared x.regs ∧ y.trigger = none ∧ y.sec = Sys2Proof.Machine.Section.fresh ∧
        y.counters.commits = x.counters.commits + 1 ∧
        y.state = if y.notices.isEmpty ∧ ∀ n : Fin 8, y.mailboxes[n].fifo.isEmpty then .idle else .ready) ∧
    (s.cur.slot < 16 → (∃ g, x.trigger = some g ∧ g.stored.msg.cls = 63) → ends .hdone) ∧
    (s.cur.slot < 16 → ends .exit ∧ illegal .sdone ∧ illegal (.migrate a)) ∧
    (16 ≤ s.cur.slot → illegal .hdone ∧ illegal .exit) ∧
    (16 ≤ s.cur.slot → x.tag.tags = BitVec.allOnes 64 →
      ∃ u, Sys2Proof.Machine.exec .sdone s = .next u ∧ (Sys2Proof.Machine.getCtx u s.cur).state = .free ∧
        u.hub.decrements = s.hub.decrements ++ [x.ident.root])

/-- R184, R179: MIGRATE in a strand, to a LOCAL address (its own cell), with an empty buffer, every store propagated and every tag set,
commits and goes on in the same slot as if resumed: the carried x registers and FSTAT stay, FRM is 0, the pc is the next
instruction's, a fresh section has begun. -/
def Sys2Proof.Claims.MigrateToTheOwnCellResumes : Prop :=
  ∀ (s : Sys2Proof.Machine.State) (a : Sys2Proof.Reg) (g : Sys2Proof.Machine.Trigger) (l : Sys2Proof.Machine.Launch),
    let x := Sys2Proof.Machine.getCtx s s.cur
    let n := if x.ident.full then 16 else 8
    Sys2Proof.Claims.CommitsAtOnce s → 16 ≤ s.cur.slot → x.tag.tags = BitVec.allOnes 64 →
    x.trigger = some g → Sys2Proof.Machine.launchAt s x.ident.lslot.toNat = some l → l.evicting = false →
    Sys2Proof.Machine.isLocal (Sys2Proof.Claims.xAt x a) = true →
    Sys2Proof.Machine.strandLslot s g.stored.msg = x.ident.lslot.toNat →
    l.packet.codebase.toNat ≤ (x.pc + 4).toNat → (x.pc + 4).toNat < l.packet.codebase.toNat + 2 ^ 32 →
    ∃ u, Sys2Proof.Machine.exec (.migrate a) s = .next u ∧
      let y := Sys2Proof.Machine.getCtx u s.cur
      y.state = .running ∧ y.pc = x.pc + 4 ∧ y.fstat = x.fstat ∧ y.frm = 0 ∧
      (∀ r : Fin 32, 1 ≤ r.val → r.val ≤ n → y.regs.x[r] = x.regs.x[r]) ∧
      (∀ r : Fin 32, n < r.val → y.regs.x[r] = 0) ∧ y.regs.c = l.consts ∧
      y.sec.irrevocable = false ∧ y.sec.buffer = [] ∧ y.sec.committed = 0

/-- R184, R123: MIGRATE in a strand, to an address whose translation is at hand and whose home is another cell, with an empty buffer,
every store propagated, every tag set and room in the outbound queue, commits: the strand message, with the carried registers, the
next instruction's pc, GTID, FSTAT and the sequence counter, is the last of the cell's outbound queue, bound for the home cell, and
the slot is FREE. -/
def Sys2Proof.Claims.MigrateToAnotherCellLeaves : Prop :=
  ∀ (s : Sys2Proof.Machine.State) (a : Sys2Proof.Reg) (g : Sys2Proof.Machine.Trigger) (l : Sys2Proof.Machine.Launch)
    (e : Sys2Proof.Machine.TlbEntry),
    let x := Sys2Proof.Machine.getCtx s s.cur
    let va := Sys2Proof.Claims.xAt x a
    let home := Sys2Proof.Machine.leafKey s e.pte (Sys2Proof.Machine.leafPa e.pte va e.block)
    Sys2Proof.Claims.CommitsAtOnce s → 16 ≤ s.cur.slot → x.tag.tags = BitVec.allOnes 64 →
    (Sys2Proof.Machine.getCell s s.cur.cell).outq.length < 32 →
    x.trigger = some g → Sys2Proof.Machine.launchAt s x.ident.lslot.toNat = some l →
    Sys2Proof.Machine.isLocal va = false → Sys2Proof.Machine.canonical va = true →
    Sys2Proof.Machine.tlbFind (Sys2Proof.Machine.getCluster s (Sys2Proof.Machine.clusterOf s.cur.cell)) x.ident.asid va
      Sys2Proof.Machine.kRead = some e →
    ¬ (Sys2Proof.Machine.homeCell home = s.cur.cell ∧ Sys2Proof.Machine.keyModule home = Sys2Proof.Machine.ownModule s) →
    ∃ u o m, Sys2Proof.Machine.exec (.migrate a) s = .next u ∧ (Sys2Proof.Machine.getCtx u s.cur).state = .free ∧
      (Sys2Proof.Machine.getCell u s.cur.cell).outq = (Sys2Proof.Machine.getCell s s.cur.cell).outq ++ [o] ∧
      o.kind = .strand m ∧ o.asid = x.ident.asid ∧ m.asid = x.ident.asid ∧ m.fstat = x.fstat ∧
      m.destCell = Sys2Proof.Machine.homeCell home ∧
      m.msg = { Sys2Proof.Claims.strandPoint x g.stored.msg l.packet.codebase (x.pc + 4) with
        dest := BitVec.ofNat 40 (Sys2Proof.Machine.keyModule home * 2 ^ 32 + Sys2Proof.Machine.homeCell home)
        stime := BitVec.ofNat 32 s.dtc.toNat }

/-- R106, R130, R179, R180, R184: the instructions that commit a section. -/
def Obligations.CommitsAndMigration : Prop :=
  Sys2Proof.Claims.HcommitStartsTheNextSection ∧
  Sys2Proof.Claims.CommitsThatEndTheRun ∧
  Sys2Proof.Claims.MigrateToTheOwnCellResumes ∧
  Sys2Proof.Claims.MigrateToAnotherCellLeaves

namespace Sys2Proof.Claims
open Sys2Proof.Machine

/-! ## Messages and other effects -/

/-- Bits hi:lo of a word. -/
def field (v : Word) (hi lo : Nat) : Nat := v.toNat / 2 ^ lo % 2 ^ (hi + 1 - lo)

/-- The message that a descriptor asks for (R104, R172): from the root actor, with the context's GTID; SEQ and STIME come at release. -/
def messageOf (x : Ctx) (desc : Word) (dest : BitVec 40) (payload : List Word) : Message :=
  { dest := dest, mb := Fin.ofNat 8 (field desc 2 0), len := payload.length, cls := field desc 13 8, full := false,
    typ := BitVec.ofNat 8 (field desc 23 16), sender := x.ident.root, seq := 0, stime := 0, pcoff := 0, gtid := x.ident.gtid,
    payload := payload }

/-- The class of a program's message: 8 to 61. -/
def classOk (desc : Word) : Prop := 8 ≤ field desc 13 8 ∧ field desc 13 8 ≤ 61

/-- The destination: descriptor bits 63:24 when the register field is 0, else the low 40 bits of xa (R172). -/
def destination (x : Ctx) (a : Reg) (desc : Word) : BitVec 40 :=
  if a = 0 then desc.extractLsb' 24 40 else (xAt x a).setWidth 40

/-- LEN words from x[d] upward. -/
def payloadFrom (x : Ctx) (d : Reg) (desc : Word) : List Word :=
  (upFrom d.val (field desc 7 3)).map fun k => xAt x (Fin.ofNat 32 k)

/-- The payload registers are x[d] to x31 at most, and LEN is at most 16. -/
def lengthOk (d : Reg) (desc : Word) : Prop := field desc 7 3 ≤ 16 ∧ d.val + field desc 7 3 ≤ 32

/-- The trigger of a handler of a program class (R173). -/
def ProgramTrigger (x : Ctx) (m : Message) : Prop :=
  ∃ g, x.trigger = some g ∧ g.stored.msg = m ∧ 8 ≤ m.cls ∧ m.cls ≤ 61

/-- Lane `i` of 64 bits of 256 bytes. -/
def lane64 (d : BitVec 2048) (i : Nat) : Word := d.extractLsb' (64 * i) 64

/-- The instruction, its modifier `.now`, and the effect that it stands for when its checks pass (R172 to R174, R185, R186, R362). -/
inductive EffectOf (s : State) (x : Ctx) : Instr → Bool → Effect → Prop
  | send (now d a b) : classOk (intB x b) → lengthOk d (intB x b) →
      EffectOf s x (.send now d a b) now
        (.send (messageOf x (intB x b) (destination x a (intB x b)) (payloadFrom x d (intB x b))))
  | reply (now d b m) : ProgramTrigger x m → classOk (intB x b) → lengthOk d (intB x b) →
      EffectOf s x (.reply now d b) now (.send (messageOf x (intB x b) m.sender (payloadFrom x d (intB x b))))
  | fwd (now a b m) : ProgramTrigger x m → classOk (intB x b) →
      EffectOf s x (.fwd now a b) now (.forward
        { messageOf x (intB x b) (destination x a (intB x b)) (x.regs.m.toList.take m.len) with
          sender := m.sender, seq := m.seq, gtid := m.gtid })
  | barr (l op n b) : s.cur.slot < 16 → EffectOf s x (.barr l op n b) false (.barr l n.val op.val (intB x b))
  | launch (now a b e) : (xAt x a).toNat % 128 = 0 → isLocal (xAt x a) = false → isWindow (xAt x a) = false →
      canonical (xAt x a) = true →
      tlbFind (getCluster s (clusterOf s.cur.cell)) x.ident.asid (xAt x a) kRead = some e →
      EffectOf s x (.launch now a b) now (.launch (xAt x a) ((intB x b).toNat % 64))
  | kdetach (l g) : s.cur.slot < 16 → launchAt s x.ident.lslot.toNat = some l → l.gang = some g →
      EffectOf s x .kdetach false .kdetach
  | hrel (k b d p) : s.cur.slot < 16 → x.grid[k].desc = some d → x.grid[k].part = some p →
      EffectOf s x (.hrel k b) false (.hrel k (intB x b))

end Sys2Proof.Claims

/-- R46, R106, R108, R172: in a revocable section with room, SEND, REPLY, FWD, BARR, LAUNCH, KDETACH and HREL without `.now` complete and
leave their effect, with the values the rules give, as the last of the section buffer; nothing leaves the cell and no register
changes. -/
def Sys2Proof.Claims.EffectsAreDeferredInARevocableSection : Prop :=
  ∀ (s : Sys2Proof.Machine.State) (i : Sys2Proof.Instr) (e : Sys2Proof.Machine.Effect),
    Sys2Proof.Claims.Quiet s →
    Sys2Proof.Claims.EffectOf s (Sys2Proof.Machine.getCtx s s.cur) i false e →
    (Sys2Proof.Machine.getCtx s s.cur).sec.irrevocable = false →
    (Sys2Proof.Machine.getCtx s s.cur).sec.buffer.length < 64 →
    Sys2Proof.Machine.cellEffects s s.cur.cell < 256 →
    Sys2Proof.Machine.exec i s = .next (Sys2Proof.Claims.advance
      (Sys2Proof.Claims.withSection s fun k => { k with buffer := k.buffer ++ [e] }) i.bytes)

/-- R51, R104, R109, R172, R174: with `.now`, or in an irrevocable section, and with nothing to wait for, SEND, REPLY and FWD make the
section irrevocable and put their message last in the cell's outbound queue, stamped with DTC; SEND and REPLY take the context's
SEQ and count it up, FWD keeps the trigger's. -/
def Sys2Proof.Claims.MessagesLeaveAtOnceWhenIrrevocable : Prop :=
  ∀ (s : Sys2Proof.Machine.State) (i : Sys2Proof.Instr) (now : Bool) (e : Sys2Proof.Machine.Effect),
    let x := Sys2Proof.Machine.getCtx s s.cur
    Sys2Proof.Claims.Quiet s → Sys2Proof.Claims.EffectOf s x i now e →
    now = true ∨ x.sec.irrevocable = true → x.sec.buffer = [] →
    Sys2Proof.Machine.unpropagated s s.cur.cell (.ctx s.cur) = false →
    (Sys2Proof.Machine.getCell s s.cur.cell).outq.length < 32 →
    let leaves := fun (m : Sys2Proof.Message) (q : BitVec 24) =>
      Sys2Proof.Machine.exec i s = .next (Sys2Proof.Claims.advance
        (Sys2Proof.Machine.modCtx (Sys2Proof.Machine.modCell (Sys2Proof.Claims.madeIrrevocable s) s.cur.cell fun k =>
            { k with outq := k.outq ++ [{ slot := s.cur.slot, asid := x.ident.asid, held := none,
                                          kind := .actor { m with stime := BitVec.ofNat 32 s.dtc.toNat } }] }) s.cur
          fun y => { y with seq := q, counters := { y.counters with sent := y.counters.sent + 1 } }) i.bytes)
    (∀ m, e = .send m → leaves { m with seq := x.seq } (x.seq + 1)) ∧
    (∀ m, e = .forward m → leaves m x.seq)

/-- R172, R173, R188: SEND with a class outside 8 to 61, or with more than 16 payload words or payload registers beyond x31, raises
ILLEGAL_OP with the descriptor's low half in the cursor; REPLY and FWD without a trigger of a program class raise ILLEGAL_OP; DEFER
without a mailbox trigger, or for the second time, raises ILLEGAL_OP. -/
def Sys2Proof.Claims.BadMessagesTrap : Prop :=
  ∀ (s : Sys2Proof.Machine.State) (now : Bool) (d a : Sys2Proof.Reg) (b : Sys2Proof.OpB),
    let x := Sys2Proof.Machine.getCtx s s.cur
    let desc := Sys2Proof.Claims.intB x b
    let traps := fun (i : Sys2Proof.Instr) (cursor : Nat) =>
      Sys2Proof.Machine.exec i s = .next (Sys2Proof.Machine.takeTrap s s.cur { code := 1, cursor := BitVec.ofNat 64 cursor })
    Sys2Proof.Claims.Quiet s →
    (¬ (Sys2Proof.Claims.classOk desc ∧ Sys2Proof.Claims.lengthOk d desc) → traps (.send now d a b) (desc.toNat % 2 ^ 32)) ∧
    ((∀ m, ¬ Sys2Proof.Claims.ProgramTrigger x m) → traps (.reply now d b) 0 ∧ traps (.fwd now a b) 0) ∧
    ((∀ g n, x.trigger = some g → g.source = .mailbox n → g.deferred = true) → traps .defer 0)

/-- R51, R104, R109, R172 to R174, R188: messages that leave at once, and messages that trap. -/
def Obligations.MessagesThatLeaveAndMessagesThatTrap : Prop :=
  Sys2Proof.Claims.MessagesLeaveAtOnceWhenIrrevocable ∧
  Sys2Proof.Claims.BadMessagesTrap

/-- R172: SENDV in a revocable section with room, from an unbound w register whose row is in the cell, completes with a deferred message
whose payload is the register's first LEN lanes of 64 bits. -/
def Sys2Proof.Claims.SendvTakesItsPayloadFromARow : Prop :=
  ∀ (s : Sys2Proof.Machine.State) (d a : Sys2Proof.Reg) (b : Sys2Proof.OpB) (q : Sys2Proof.Machine.Row),
    let x := Sys2Proof.Machine.getCtx s s.cur
    let desc := Sys2Proof.Claims.intB x b
    Sys2Proof.Claims.Quiet s → Sys2Proof.Claims.classOk desc → Sys2Proof.Claims.field desc 7 3 ≤ 16 →
    x.regs.w[d].bound = none → Sys2Proof.Machine.rowOf s s.cur d.val = some q →
    x.sec.irrevocable = false → x.sec.buffer.length < 64 → Sys2Proof.Machine.cellEffects s s.cur.cell < 256 →
    ∃ rows, Sys2Proof.Machine.exec (.sendv false d a b) s = .next (Sys2Proof.Claims.advance
      (Sys2Proof.Claims.withSection (Sys2Proof.Machine.modCell s s.cur.cell fun k => { k with rows := rows }) fun k =>
        { k with buffer := k.buffer ++ [.send (Sys2Proof.Claims.messageOf x desc (Sys2Proof.Claims.destination x a desc)
          ((List.range (Sys2Proof.Claims.field desc 7 3)).map (Sys2Proof.Claims.lane64 x.regs.w[d].data)))] })
      (Sys2Proof.Instr.sendv false d a b).bytes)

/-- R176, R182, R183: DEFER of a mailbox trigger, once, defers the trigger's own message and is spent; SPAWN of an actor below SPAWNLIM
at a LOCAL address defers a strand message of class 62 to its own cell, with x1 to x8, or x1 to x16 if bit 0 of the entry is set,
counts one strand more and writes 1 to xd; at the limit it writes 0 and does nothing. -/
def Sys2Proof.Claims.DeferAndSpawn : Prop :=
  ∀ (s : Sys2Proof.Machine.State) (now : Bool) (d a : Sys2Proof.Reg) (b : Sys2Proof.OpB),
    let x := Sys2Proof.Machine.getCtx s s.cur
    let entry := Sys2Proof.Claims.intB x b
    let n := if entry.getLsbD 0 then 16 else 8
    let regs := (Sys2Proof.Machine.upFrom 1 n).map fun k => Sys2Proof.Claims.xAt x (Fin.ofNat 32 k)
    let i := Sys2Proof.Instr.spawn now d a b
    Sys2Proof.Claims.Quiet s → x.sec.irrevocable = false → x.sec.buffer.length < 64 →
    Sys2Proof.Machine.cellEffects s s.cur.cell < 256 →
    (∀ g k, x.trigger = some g → g.source = .mailbox k → g.deferred = false →
      Sys2Proof.Machine.exec .defer s = .next (Sys2Proof.Claims.advance (Sys2Proof.Machine.modCtx s s.cur fun y =>
        { y with sec := { y.sec with buffer := y.sec.buffer ++ [.defer g.stored.msg] },
                 trigger := some { g with deferred := true } }) 4)) ∧
    (s.cur.slot < 16 → Sys2Proof.Machine.isLocal (Sys2Proof.Claims.xAt x a) = true →
      (x.spawnlim.toNat ≤ x.strands →
        Sys2Proof.Machine.exec i s = .next (Sys2Proof.Claims.advance (Sys2Proof.Claims.withX s d 0) i.bytes)) ∧
      (x.strands < x.spawnlim.toNat → now = false →
        ∃ m : Sys2Proof.Machine.StrandMsg,
          Sys2Proof.Machine.exec i s = .next (Sys2Proof.Claims.advance (Sys2Proof.Claims.withX (Sys2Proof.Machine.modCtx s s.cur fun y =>
            { y with strands := y.strands + 1,
                     sec := { y.sec with buffer := y.sec.buffer ++ [.spawn m], spawned := y.sec.spawned + 1 } }) d 1) i.bytes) ∧
          m.msg.cls = 62 ∧ m.msg.full = entry.getLsbD 0 ∧ m.msg.payload = regs ∧ m.msg.sender = x.ident.root ∧
          m.msg.pcoff.toNat = entry.toNat % 2 ^ 32 / 2 * 2 ∧ m.destCell = s.cur.cell ∧ m.asid = x.ident.asid ∧ m.fstat = 0))

/-- R46, R108, R172, R176, R182, R183: effects of a revocable section. -/
def Obligations.DeferredEffects : Prop :=
  Sys2Proof.Claims.EffectsAreDeferredInARevocableSection ∧
  Sys2Proof.Claims.SendvTakesItsPayloadFromARow ∧
  Sys2Proof.Claims.DeferAndSpawn

/-! ## Queries -/

/-- R177, R178, R332, R364, R407, R408: instructions that read a snapshot into xd complete with that value and change nothing else:
GETM a payload word of the trigger, MBSTAT a mailbox (counts, bit 31 valid, pass counter), both 0 in a strand slot; CPGET a copy shadow;
NSTAT the module's place, its ports and its capability vector; in an actor KSTAT of a launch without a gang zero and of a gang the
window's state, its detached members and the share's size, and GQRY of an unbound slot all ones; in a strand slot KSTAT and GQRY raise
ILLEGAL_OP. -/
def Obligations.SnapshotsAreRead : Prop :=
  ∀ (s : Sys2Proof.Machine.State) (d : Sys2Proof.Reg),
    let x := Sys2Proof.Machine.getCtx s s.cur
    let reads := Sys2Proof.Claims.writesX s
    Sys2Proof.Claims.Quiet s →
    (16 ≤ s.cur.slot →
      (∀ k, reads (.getm d k) d 0) ∧ (∀ k, reads (.mbstat d k) d 0) ∧
      (∀ code, Sys2Proof.Machine.exec (.kstat d code) s = .next (Sys2Proof.Machine.takeTrap s s.cur { code := 1 })) ∧
      (∀ g code, Sys2Proof.Machine.exec (.gqry d g code) s = .next (Sys2Proof.Machine.takeTrap s s.cur { code := 1 }))) ∧
    (s.cur.slot < 16 →
      (∀ k, reads (.getm d k) d x.regs.m[k]) ∧
      (∀ k, x.mailboxes[k].valid = false → reads (.mbstat d k) d 0) ∧
      (∀ k, let m := x.mailboxes[k]
        m.valid = true → m.fifo.length < 512 → m.ovf.length < 2 ^ 21 → m.pass < 256 →
        ∃ v : Sys2Proof.Word, reads (.mbstat d k) d v ∧ v.toNat % 2 ^ 9 = m.fifo.length ∧
          v.toNat / 2 ^ 9 % 2 ^ 21 = m.ovf.length ∧ v.getLsbD 31 = true ∧ v.toNat / 2 ^ 32 = m.pass) ∧
      (∀ code, (∀ l, Sys2Proof.Machine.launchAt s x.ident.lslot.toNat = some l → l.gang = none) → reads (.kstat d code) d 0) ∧
      (∀ l g, Sys2Proof.Machine.launchAt s x.ident.lslot.toNat = some l → l.gang = some g →
        (∃ v : Sys2Proof.Word, reads (.kstat d 0) d v ∧ v.toNat % 4 = g.state.val) ∧
        (∀ j : Fin 4, reads (.kstat d ⟨j.val + 1, by omega⟩) d (g.detached.extractLsb' (64 * j.val) 64)) ∧
        (l.packet.flags.getLsbD 0 = true → 0 < l.packet.kshare → reads (.kstat d 5) d (BitVec.ofNat 64 (l.packet.kshare * 1024)))) ∧
      (∀ g code, x.grid[g].desc = none → reads (.gqry d g code) d (BitVec.allOnes 64))) ∧
    (∀ k, reads (.cpget d k) d x.shadows[k]) ∧
    (∃ v : Sys2Proof.Word, reads (.nstat d 0) d v ∧ v.toNat % 16 = s.hub.modCol.toNat ∧
      v.toNat / 2 ^ 4 % 16 = s.hub.modRow.toNat ∧ v.toNat / 2 ^ 8 % 16 = s.hub.rowsM1.toNat ∧
      v.toNat / 2 ^ 12 = s.hub.colsM1.toNat) ∧
    (∃ v : Sys2Proof.Word, reads (.nstat d 1) d v ∧ v.toNat < 2 ^ 30 ∧ ∀ p : Fin 30, v.getLsbD p.val = s.hub.ports[p].up) ∧
    (∃ v : Sys2Proof.Word, reads (.nstat d 2) d v ∧ v.toNat < 2 ^ 30 ∧
      ∀ p : Fin 30, v.getLsbD p.val = (s.hub.ports[p].out.keywait || s.hub.ports[p].inn.keywait)) ∧
    reads (.nstat d 3) d 0x03FF1FFF

namespace Sys2Proof.Claims
open Sys2Proof.Machine

/-! ## The vector engine -/

/-- The current context with a w register unbound and holding 256 bytes; `rows` is the cell's list of physical rows afterwards,
which only says where values are kept (R233). -/
def withW (s : State) (d : Reg) (v : BitVec 2048) (rows : List Row) : State :=
  modCtx (modCell s s.cur.cell fun k => { k with rows := rows }) s.cur fun x =>
    { x with regs := { x.regs with w := x.regs.w.set d.val { bound := none, data := v, spilled := false } d.isLt } }

def withK (s : State) (d : Fin 8) (v : BitVec 256) : State :=
  if d = 0 then s
  else modCtx s s.cur fun x => { x with regs := { x.regs with k := x.regs.k.set d.val v d.isLt } }

def withT (s : State) (d : Fin 16) (v : BitVec 512) : State :=
  modCtx s s.cur fun x => { x with regs := { x.regs with t := x.regs.t.set d.val v d.isLt } }

/-- k0 reads all ones (R252). -/
def kAt (x : Ctx) (k : Fin 8) : BitVec 256 := if k = 0 then BitVec.allOnes 256 else x.regs.k[k]

/-- An unbound w register whose value is in a row of its cell. -/
def InRow (s : State) (r : Reg) : Prop := (getCtx s s.cur).regs.w[r].bound = none ∧ ∃ q, rowOf s s.cur r.val = some q

/-- The same of a destination, whose row holds no value that would have to be spilled first (R234). -/
def FreshRow (s : State) (r : Reg) : Prop :=
  (getCtx s s.cur).regs.w[r].bound = none ∧ ∃ q, rowOf s s.cur r.val = some q ∧ (q.dirty = true → q.newValue = true)

/-- The current context begins a vector instruction: nothing outstanding, no chunk of it done (R228). -/
def VectorStart (s : State) : Prop := Quiet s ∧ (getCtx s s.cur).progress = none

/-- The types of a V-format field (Table 2.12): bits of an element, float format, whether a float. -/
def laneBits (t : Fin 8) : Nat := [32, 64, 16, 16, 8, 8, 8, 32].getD t.val 32
def laneFormat (t : Fin 8) : FpFmt := [fp32, fp64, bf16, fp16, e4m3, e5m2].getD t.val fp32
def isFloat (t : Fin 8) : Bool := t.val ≤ 5

/-- Lane i of a register's 256 bytes. -/
def laneOf (t : Fin 8) (v : BitVec 2048) (i : Nat) : BitVec (laneBits t) := v.extractLsb' (laneBits t * i) (laneBits t)

/-- The lanes of a type in 256 bytes. -/
def lanes (t : Fin 8) : Nat := 2048 / laneBits t

/-- A literal as an element (R240), with its flags: converted from FP32 by FRM, or sign-extended and cut. -/
def literalLane (t : Fin 8) (mode : Nat) (v : Word32) : BitVec (laneBits t) × FFlags :=
  if isFloat t then
    let r := fvRound (laneFormat t) mode false (fpDecode fp32 v.toNat)
    (BitVec.ofNat _ r.1, r.2)
  else ((v.signExtend 64).setWidth _, 0)

/-- The element-wise instructions: type field, destination, source a, operand b. -/
def vectorForm : Instr → Option (Fin 8 × Reg × Reg × Option OpL)
  | .vadd t d a b => some (t, d, a, some b)
  | .vsub t d a b => some (t, d, a, some b)
  | .vmul t d a b => some (t, d, a, some b)
  | .vfma t d a b => some (t, d, a, some b)
  | .vfms t d a b => some (t, d, a, some b)
  | .vmin t d a b => some (t, d, a, some b)
  | .vmax t d a b => some (t, d, a, some b)
  | .vabs t d a => some (t, d, a, none)
  | .vneg t d a => some (t, d, a, none)
  | .vand t d a b => some (t, d, a, some b)
  | .vor t d a b => some (t, d, a, some b)
  | .vxor t d a b => some (t, d, a, some b)
  | .vshl t d a b => some (t, d, a, some b)
  | .vshr t d a b => some (t, d, a, some b)
  | .vsra t d a b => some (t, d, a, some b)
  | .vrcpA t d a => some (t, d, a, none)
  | .vrsqA t d a => some (t, d, a, none)
  | .vrsq t d a => some (t, d, a, none)
  | .vsqrt t d a => some (t, d, a, none)
  | .vexp2 t d a => some (t, d, a, none)
  | .vlog2 t d a => some (t, d, a, none)
  | .vtanh t d a => some (t, d, a, none)
  | .vdiv t d a b => some (t, d, a, some b)
  | _ => none

/-- Tables 12.3 and 12.7 on one lane (x of a, y of b, z of the destination), none where the type does not fit: the shifts take
integers only, the function family FP32 only. -/
def vectorLane (t : Fin 8) (mode : Nat) (i : Instr) (x y z : BitVec (laneBits t)) : Option (BitVec (laneBits t) × FFlags) :=
  let f := laneFormat t
  let u := fpDecode f x.toNat
  let v := fpDecode f y.toNat
  let w := fpDecode f z.toNat
  let float := fun (r : Nat × FFlags) => some (BitVec.ofNat (laneBits t) r.1, r.2)
  let int := fun (r : BitVec (laneBits t)) => some (r, (0 : FFlags))
  let only32 := fun (r : Nat × FFlags) => if t = 0 then float r else none
  let sign : BitVec (laneBits t) := 1 <<< (laneBits t - 1)
  match i with
  | .vadd .. => if isFloat t then float (fvAdd f mode u v) else int (x + y)
  | .vsub .. => if isFloat t then float (fvAdd f mode u (negate v)) else int (x - y)
  | .vmul .. => if isFloat t then float (fvMul f mode u v) else int (x * y)
  | .vfma .. => if isFloat t then float (fvFma f mode u v w) else int (x * y + z)
  | .vfms .. => if isFloat t then float (fvFma f mode u v (negate w)) else int (x * y - z)
  | .vmin .. => if isFloat t then float (fpMinMax f false x.toNat y.toNat) else int (if x.slt y then x else y)
  | .vmax .. => if isFloat t then float (fpMinMax f true x.toNat y.toNat) else int (if x.slt y then y else x)
  | .vabs .. =>
    if isFloat t then (if isNaN u then float (canonNaN f, 0) else int (x &&& ~~~sign)) else int (if x.slt 0 then -x else x)
  | .vneg .. => if isFloat t then (if isNaN u then float (canonNaN f, 0) else int (x ^^^ sign)) else int (-x)
  | .vand .. => int (x &&& y)
  | .vor .. => int (x ||| y)
  | .vxor .. => int (x ^^^ y)
  | .vshl .. => if isFloat t then none else int (x <<< (y.toNat % laneBits t))
  | .vshr .. => if isFloat t then none else int (x >>> (y.toNat % laneBits t))
  | .vsra .. => if isFloat t then none else int (x.sshiftRight (y.toNat % laneBits t))
  | .vrcpA .. => only32 (fvRcp fp32 12 u)
  | .vrsqA .. => only32 (fvRsqrt fp32 12 u)
  | .vrsq .. => only32 (fvRsqrt fp32 24 u)
  | .vsqrt .. => only32 (fvSqrt fp32 0 u)
  | .vexp2 .. => only32 (fvExp2 u)
  | .vlog2 .. => only32 (fvLog2 u)
  | .vtanh .. => only32 (fvTanh u)
  | .vdiv .. => only32 (fvDiv fp32 0 u v)
  | _ => none

/-- The flags of n lanes together. -/
def flagsOf (n : Nat) (f : Nat → FFlags) : FFlags := (List.range n).foldl (fun acc i => acc ||| f i) 0

/-- The element that operand b gives lane i, and a literal's own flags. -/
def bLane (x : Ctx) (t : Fin 8) (b : Option OpL) (i : Nat) : BitVec (laneBits t) :=
  match b with
  | some (.reg r) => laneOf t x.regs.w[r].data i
  | some (.lit v) => (literalLane t x.frm.toNat v).1
  | none => 0
def bFlags (x : Ctx) (t : Fin 8) : Option OpL → FFlags
  | some (.lit v) => (literalLane t x.frm.toNat v).2
  | _ => 0

/-- Registers that operand b reads. -/
def bRegs : Option OpL → List Reg
  | some (.reg r) => [r]
  | _ => []

end Sys2Proof.Claims

/-- R241, R249, R257, Tables 12.3 and 12.7: an element-wise instruction on unbound registers in rows (VADD, VSUB, VMUL, VFMA, VFMS, VMIN,
VMAX, VABS, VNEG, VAND, VOR, VXOR, VSHL, VSHR, VSRA, VRCP.A, VRSQ.A, VRSQ, VSQRT, VEXP2, VLOG2, VTANH, VDIV) writes to every lane of wd
what its table gives for the lanes of the sources, adds the lanes' and the literal's flags to FSTAT and changes nothing else;
where the type does not fit it raises TYPE_MISMATCH, whose record names the operand in its cursor (in a form that no rule gives,
log 107). -/
def Sys2Proof.Claims.ElementwiseVectorForms : Prop :=
  ∀ (s : Sys2Proof.Machine.State) (i : Sys2Proof.Instr) (t : Fin 8) (d a : Sys2Proof.Reg) (b : Option Sys2Proof.OpL),
    let x := Sys2Proof.Machine.getCtx s s.cur
    let n := Sys2Proof.Claims.lanes t
    let f := fun k => Sys2Proof.Claims.vectorLane t x.frm.toNat i (Sys2Proof.Claims.laneOf t x.regs.w[a].data k)
      (Sys2Proof.Claims.bLane x t b k) (Sys2Proof.Claims.laneOf t x.regs.w[d].data k)
    Sys2Proof.Claims.VectorStart s → Sys2Proof.Claims.vectorForm i = some (t, d, a, b) →
    Sys2Proof.Claims.FreshRow s d → (∀ r ∈ a :: Sys2Proof.Claims.bRegs b, Sys2Proof.Claims.InRow s r) →
    (∀ r : Nat → BitVec (Sys2Proof.Claims.laneBits t) × Sys2Proof.Machine.FFlags, (∀ k, k < n → f k = some (r k)) →
      ∃ v rows, (∀ k, k < n → Sys2Proof.Claims.laneOf t v k = (r k).1) ∧
        Sys2Proof.Machine.exec i s = .next (Sys2Proof.Claims.advance (Sys2Proof.Claims.withFlags (Sys2Proof.Claims.withW s d v rows)
          (Sys2Proof.Claims.flagsOf n (fun k => (r k).2) ||| Sys2Proof.Claims.bFlags x t b)) i.bytes)) ∧
    (f 0 = none → ∃ operand : Sys2Proof.Word,
      Sys2Proof.Machine.exec i s = .next (Sys2Proof.Machine.takeTrap s s.cur { code := 8, cursor := operand }))

namespace Sys2Proof.Claims
open Sys2Proof.Machine

/-- A relation of VCMP on one lane (R250): eq, ne, lt, le; NV for a signalling NaN and, with lt and le, for any NaN. -/
def related (t : Fin 8) (cond : Fin 4) (x y : BitVec (laneBits t)) : Bool × FFlags :=
  if isFloat t then
    let u := fpDecode (laneFormat t) x.toNat
    let v := fpDecode (laneFormat t) y.toNat
    let nan := isNaN u || isNaN v
    ([fvEq u v, !fvEq u v, !nan && fvLess false u v, !nan && !fvLess false v u].getD cond.val false,
     if isSnan u || isSnan v || (2 ≤ cond.val && nan) then 1 else 0)
  else ([x == y, x != y, x.slt y, x.sle y].getD cond.val false, 0)

/-- Table 12.4: the mask register and what it gets. -/
def maskRow (x : Ctx) : Instr → Option (Fin 8 × BitVec 256)
  | .vkopAnd d a b => some (d, kAt x a &&& kAt x b)
  | .vkopOr d a b => some (d, kAt x a ||| kAt x b)
  | .vkopXor d a b => some (d, kAt x a ^^^ kAt x b)
  | .vkopAndn d a b => some (d, kAt x a &&& ~~~kAt x b)
  | .vkopNot d a => some (d, ~~~kAt x a)
  | .vkopSplat d a => some (d, if xAt x a = 0 then 0 else BitVec.allOnes 256)
  | .vkopFromx d a => some (d, (xAt x a).setWidth 256)
  | _ => none

end Sys2Proof.Claims

/-- R252, Table 12.4, R250, R251: the mask operations complete with their result in kd (a write to k0 is discarded, k0 reads all ones);
VKOP.popc writes the number of ones to xd; VCMP on unbound registers writes one bit for each lane, higher bits zero, and its flags;
VSEL on unbound registers takes lane i from wa where bit i of the mask is 1 and leaves it where it is 0. -/
def Sys2Proof.Claims.MasksComparesAndSelects : Prop :=
  ∀ (s : Sys2Proof.Machine.State),
    let x := Sys2Proof.Machine.getCtx s s.cur
    Sys2Proof.Claims.VectorStart s →
    (∀ i d v, Sys2Proof.Claims.maskRow x i = some (d, v) →
      Sys2Proof.Machine.exec i s = .next (Sys2Proof.Claims.advance (Sys2Proof.Claims.withK s d v) 4)) ∧
    (∀ d a, Sys2Proof.Claims.writesX s (.vkopPopc d a) d
      (BitVec.ofNat 64 ((List.range 256).countP fun k => (Sys2Proof.Claims.kAt x a).getLsbD k))) ∧
    (∀ t cond kd a b, Sys2Proof.Claims.InRow s a → Sys2Proof.Claims.InRow s b →
      let n := Sys2Proof.Claims.lanes t
      let r := fun k => Sys2Proof.Claims.related t cond (Sys2Proof.Claims.laneOf t x.regs.w[a].data k)
        (Sys2Proof.Claims.laneOf t x.regs.w[b].data k)
      ∃ v rows, (∀ k, k < 256 → v.getLsbD k = (decide (k < n) && (r k).1)) ∧
        Sys2Proof.Machine.exec (.vcmp t cond kd a b) s = .next (Sys2Proof.Claims.advance
          (Sys2Proof.Claims.withFlags (Sys2Proof.Claims.withK (Sys2Proof.Machine.modCell s s.cur.cell fun k => { k with rows := rows })
            kd v) (Sys2Proof.Claims.flagsOf n fun k => (r k).2)) 4)) ∧
    (∀ t d a kb, Sys2Proof.Claims.FreshRow s d → Sys2Proof.Claims.InRow s a →
      ∃ v rows, (∀ k, k < Sys2Proof.Claims.lanes t → Sys2Proof.Claims.laneOf t v k =
          Sys2Proof.Claims.laneOf t (if (Sys2Proof.Claims.kAt x kb).getLsbD k then x.regs.w[a].data else x.regs.w[d].data) k) ∧
        Sys2Proof.Machine.exec (.vsel t d a kb) s =
          .next (Sys2Proof.Claims.advance (Sys2Proof.Claims.withW s d v rows) 4))

/-- R247, R248, R262, R263: VMOV between unbound registers copies all 256 bytes; VBCAST writes the low bits of an x register, or the
literal as an element, to every lane, with the literal's flags; RNDK writes the keyed word of seed and index to xd; VRAND fills
the lanes of FP32, INT32 with the elements that the keyed words of the lane numbers give. -/
def Sys2Proof.Claims.MovesBroadcastsAndRandomBits : Prop :=
  ∀ (s : Sys2Proof.Machine.State) (d : Sys2Proof.Reg),
    let x := Sys2Proof.Machine.getCtx s s.cur
    Sys2Proof.Claims.VectorStart s →
    (∀ e a b, Sys2Proof.Claims.writesX s (.rndk e a b) e
      (BitVec.ofNat 64 (Sys2Proof.Machine.keyedWord (Sys2Proof.Claims.xAt x a) (Sys2Proof.Claims.intL x b)))) ∧
    (Sys2Proof.Claims.FreshRow s d →
      (∀ t a, Sys2Proof.Claims.InRow s a →
        ∃ rows, Sys2Proof.Machine.exec (.vmov t d a) s =
          .next (Sys2Proof.Claims.advance (Sys2Proof.Claims.withW s d x.regs.w[a].data rows) 4)) ∧
      (∀ t r, ∃ v rows, (∀ k, k < Sys2Proof.Claims.lanes t →
          Sys2Proof.Claims.laneOf t v k = (Sys2Proof.Claims.xAt x r).setWidth _) ∧
        Sys2Proof.Machine.exec (.vbcast t d (.reg r)) s =
          .next (Sys2Proof.Claims.advance (Sys2Proof.Claims.withW s d v rows) 4)) ∧
      (∀ t l, let e := Sys2Proof.Claims.literalLane t x.frm.toNat l
        ∃ v rows, (∀ k, k < Sys2Proof.Claims.lanes t → Sys2Proof.Claims.laneOf t v k = e.1) ∧
          Sys2Proof.Machine.exec (.vbcast t d (.lit l)) s =
            .next (Sys2Proof.Claims.advance (Sys2Proof.Claims.withFlags (Sys2Proof.Claims.withW s d v rows) e.2) 8)) ∧
      (∀ (t : Fin 8) b, t = 0 ∨ t = 7 →
        let word := fun k => Sys2Proof.Machine.keyedWord (Sys2Proof.Claims.intL x b) (BitVec.ofNat 64 k)
        ∃ v rows, (∀ k, k < Sys2Proof.Claims.lanes t → Sys2Proof.Claims.laneOf t v k = BitVec.ofNat _
            (if t = 7 then word k else if word k / 2 ^ 8 = 0 then 0
             else (Sys2Proof.Machine.roundTo Sys2Proof.Machine.fp32 0 false false (word k / 2 ^ 8) (-24)).1)) ∧
          Sys2Proof.Machine.exec (.vrand t d b) s = .next (Sys2Proof.Claims.advance (Sys2Proof.Claims.withW s d v rows)
            (Sys2Proof.Instr.vrand t d b).bytes)))

/-- R247, R248, R250 to R252, R262, R263: masks, moves and random bits. -/
def Obligations.MasksMovesAndRandomBits : Prop :=
  Sys2Proof.Claims.MasksComparesAndSelects ∧
  Sys2Proof.Claims.MovesBroadcastsAndRandomBits

namespace Sys2Proof.Claims
open Sys2Proof.Machine

/-- The exact value of a lane: integers as such. -/
def laneValue (t : Fin 8) (x : BitVec (laneBits t)) : FVal :=
  if isFloat t then fpDecode (laneFormat t) x.toNat else .fin (x.slt 0) x.toInt.natAbs 0

/-- One element converted to another type of a V-format field (R147, R204, R206, R253). -/
def converted (dst : Fin 8) (mode : Nat) (sat : Bool) (v : FVal) : BitVec (laneBits dst) × FFlags :=
  if isFloat dst then
    let r := fvRound (laneFormat dst) mode sat v
    (BitVec.ofNat _ r.1, r.2)
  else
    let r := toInteger mode (-(2 ^ (laneBits dst - 1))) (2 ^ (laneBits dst - 1) - 1) v
    (BitVec.ofInt _ r.1, r.2)

/-- Pairwise sum of 2^n values (R215): the two halves' sums added. -/
def pairSum (f : FpFmt) : Nat → (Nat → Nat) → Nat
  | 0, v => v 0
  | n + 1, v => (fvAdd f 0 (fpDecode f (pairSum f n v)) (fpDecode f (pairSum f n fun i => v (i + 2 ^ n)))).1

/-- T of R215: FP64 for FP64, else FP32; an element widened to it exactly. -/
def sumFormat (t : Fin 8) : FpFmt := if t = 1 then fp64 else fp32
def widened (t : Fin 8) (x : BitVec (laneBits t)) : Nat :=
  if t.val ≤ 1 then x.toNat else (fvRound fp32 0 false (fpDecode (laneFormat t) x.toNat)).1

/-- A left fold over lanes 0 to n. -/
def foldLanes {α : Type} (f : α → α → α) (v : Nat → α) : Nat → α
  | 0 => v 0
  | n + 1 => f (foldLanes f v n) (v (n + 1))

end Sys2Proof.Claims

/-- R253, R254, R205: VCVT on unbound registers converts the lanes that both types have, by FRM, saturating for E4M3 and E5M2 if asked,
and zeroes what is left of wd; VCVT.sr rounds each lane stochastically with the keyed word of seed and lane; the lanes' flags are
added to FSTAT. -/
def Obligations.VectorConversions : Prop :=
  ∀ (s : Sys2Proof.Machine.State) (d a : Sys2Proof.Reg) (t : Fin 8),
    let x := Sys2Proof.Machine.getCtx s s.cur
    Sys2Proof.Claims.VectorStart s → Sys2Proof.Claims.FreshRow s d → Sys2Proof.Claims.InRow s a →
    (∀ (u : Fin 8) (sat : Bool), (sat = true → u = 4 ∨ u = 5) →
      let n := min (Sys2Proof.Claims.lanes t) (Sys2Proof.Claims.lanes u)
      let r := fun k => Sys2Proof.Claims.converted u x.frm.toNat sat
        (Sys2Proof.Claims.laneValue t (Sys2Proof.Claims.laneOf t x.regs.w[a].data k))
      ∃ v rows, (∀ k, k < Sys2Proof.Claims.lanes u → Sys2Proof.Claims.laneOf u v k = if k < n then (r k).1 else 0) ∧
        Sys2Proof.Machine.exec (.vcvt t ⟨u.val, by omega⟩ sat d a) s = .next (Sys2Proof.Claims.advance
          (Sys2Proof.Claims.withFlags (Sys2Proof.Claims.withW s d v rows) (Sys2Proof.Claims.flagsOf n fun k => (r k).2)) 4)) ∧
    (∀ b, 2 ≤ t.val → t.val ≤ 5 →
      let n := Sys2Proof.Claims.lanes 0
      let r := fun k => Sys2Proof.Machine.stochastic (Sys2Proof.Claims.laneFormat t) false (Sys2Proof.Claims.intL x b)
        (BitVec.ofNat 64 k) (Sys2Proof.Machine.fpDecode Sys2Proof.Machine.fp32 (Sys2Proof.Claims.laneOf 0 x.regs.w[a].data k).toNat)
      ∃ v rows, (∀ k, k < Sys2Proof.Claims.lanes t →
          Sys2Proof.Claims.laneOf t v k = if k < n then BitVec.ofNat _ (r k).1 else 0) ∧
        Sys2Proof.Machine.exec (.vcvtSr t d a b) s = .next (Sys2Proof.Claims.advance
          (Sys2Proof.Claims.withFlags (Sys2Proof.Claims.withW s d v rows) (Sys2Proof.Claims.flagsOf n fun k => (r k).2))
          (Sys2Proof.Instr.vcvtSr t d a b).bytes))

/-- R215, R216, R258, R259: VRED of an unbound register: an integer sum wraps in the element's width, min, max and amax are the integers'
own, sign-extended to xd; a float sum is the pairwise tree over the lanes widened to FP32 (FP64 for FP64), in fd. VSCAN writes to
lane k of integers the sum, min or max of lanes 0 to k, and to lane k of float sums the running sum rounded by FRM. -/
def Obligations.ReductionsAndScans : Prop :=
  ∀ (s : Sys2Proof.Machine.State) (d a : Sys2Proof.Reg) (t : Fin 8),
    let x := Sys2Proof.Machine.getCtx s s.cur
    let n := Sys2Proof.Claims.lanes t
    let lane := fun k => Sys2Proof.Claims.laneOf t x.regs.w[a].data k
    let pick := fun (op : Nat) (u v : BitVec (Sys2Proof.Claims.laneBits t)) =>
      if op = 0 then u + v else if op = 1 then (if u.slt v then u else v) else if u.slt v then v else u
    Sys2Proof.Claims.VectorStart s → Sys2Proof.Claims.InRow s a →
    (Sys2Proof.Claims.isFloat t = false →
      (∀ op : Fin 3, ∃ rows, Sys2Proof.Machine.exec (.vred t ⟨op.val, by omega⟩ d a) s = .next (Sys2Proof.Claims.advance
        (Sys2Proof.Claims.withX (Sys2Proof.Machine.modCell s s.cur.cell fun k => { k with rows := rows }) d
          ((Sys2Proof.Claims.foldLanes (pick op.val) lane (n - 1)).signExtend 64)) 4)) ∧
      (∃ rows, Sys2Proof.Machine.exec (.vred t 3 d a) s = .next (Sys2Proof.Claims.advance
        (Sys2Proof.Claims.withX (Sys2Proof.Machine.modCell s s.cur.cell fun k => { k with rows := rows }) d
          (BitVec.ofNat 64 (Sys2Proof.Claims.foldLanes max (fun k => (lane k).toInt.natAbs) (n - 1)))) 4)) ∧
      (∀ op : Fin 3, Sys2Proof.Claims.FreshRow s d →
        ∃ v rows, (∀ k, k < n → Sys2Proof.Claims.laneOf t v k = Sys2Proof.Claims.foldLanes (pick op.val) lane k) ∧
          Sys2Proof.Machine.exec (.vscan t op d a) s = .next (Sys2Proof.Claims.advance (Sys2Proof.Claims.withW s d v rows) 4))) ∧
    (Sys2Proof.Claims.isFloat t = true →
      (∃ rows fl, Sys2Proof.Machine.exec (.vred t 0 d a) s = .next (Sys2Proof.Claims.advance (Sys2Proof.Claims.withFlags
        (Sys2Proof.Claims.withF (Sys2Proof.Machine.modCell s s.cur.cell fun k => { k with rows := rows }) d
          (BitVec.ofNat 64 (Sys2Proof.Claims.pairSum (Sys2Proof.Claims.sumFormat t) (Nat.log2 n)
            fun k => Sys2Proof.Claims.widened t (lane k)))) fl) 4)) ∧
      (Sys2Proof.Claims.FreshRow s d →
        ∃ v rows fl, (∀ k, k < n → Sys2Proof.Claims.laneOf t v k = BitVec.ofNat _
            (Sys2Proof.Machine.fvRound (Sys2Proof.Claims.laneFormat t) x.frm.toNat false
              (Sys2Proof.Machine.fpDecode (Sys2Proof.Claims.sumFormat t) (Sys2Proof.Claims.foldLanes
                (fun u v => (Sys2Proof.Machine.fvAdd (Sys2Proof.Claims.sumFormat t) 0
                  (Sys2Proof.Machine.fpDecode (Sys2Proof.Claims.sumFormat t) u)
                  (Sys2Proof.Machine.fpDecode (Sys2Proof.Claims.sumFormat t) v)).1)
                (fun k => Sys2Proof.Claims.widened t (lane k)) k))).1) ∧
          Sys2Proof.Machine.exec (.vscan t 0 d a) s = .next (Sys2Proof.Claims.advance
            (Sys2Proof.Claims.withFlags (Sys2Proof.Claims.withW s d v rows) fl) 4)))

namespace Sys2Proof.Claims
open Sys2Proof.Machine

/-! ## Views -/

/-- The view record in t(n) as its fields (Table 11.1). -/
def viewIn (s : State) (n : Fin 16) : View := viewOf (getCtx s s.cur).regs.t[n]

/-- The element offset of logical index e: coordinates, first dimension fastest, times strides (R220). -/
def elementOffset (v : View) (e : Nat) : Int :=
  let d := fun j => v.d.getD j 1
  let k := fun j => v.s.getD j 0
  ((e % d 0 : Nat) : Int) * k 0 + ((e / d 0 % d 1 : Nat) : Int) * k 1 + ((e / (d 0 * d 1) % d 2 : Nat) : Int) * k 2 +
    ((e / (d 0 * d 1 * d 2) % d 3 : Nat) : Int) * k 3

/-- Bytes of an element of whole bytes, and the address of logical index e (R220). -/
def elementSize (v : View) : Nat := elemBits v.ty / 8
def elementAddress (v : View) (e : Nat) : Int := v.base + elementOffset v e * elementSize v

/-- Elements of one chunk, and of a view (R223). -/
def perChunk (v : View) : Nat := 2048 / elemBits v.ty
def elementCount (v : View) : Nat := v.d.getD 0 1 * v.d.getD 1 1 * v.d.getD 2 1 * v.d.getD 3 1

/-- A view that passes R219, is not EMPTY and has elements of whole bytes. -/
def Plain (v : View) : Prop := viewFault v = none ∧ v.flags / 16 % 2 = 0 ∧ 8 ≤ elemBits v.ty

/-- n elements of a view from logical index e0 on: in bounds, each in a granted place of the cluster store, at `at_ i`, that is fit for
the access. -/
def Placed (s : State) (v : View) (e0 n : Nat) (at_ : Nat → Nat) (fit : Nat → LocKind → Prop) : Prop :=
  ∀ i, i < n → (v.lo : Int) ≤ elementAddress v (e0 + i) ∧ elementAddress v (e0 + i) + elementSize v ≤ (v.hi : Int) ∧
    ∃ k, fit (at_ i) k ∧ Granted s (BitVec.ofInt 64 (elementAddress v (e0 + i))) (elementSize v) (at_ i) k

/-- Stores of the current section need no journal entry there: scratch, or an irrevocable section (R107). -/
def Storable (s : State) (_a : Nat) (k : LocKind) : Prop := k = .scratch ∨ (getCtx s s.cur).sec.irrevocable = true

/-- Memory after n stores of `size` bytes, in order: a place has the value of the last store to it, all else stays. -/
def StoredInOrder (m m' : Memory) (n size : Nat) (at_ : Nat → Nat) (v : Nat → Nat) : Prop :=
  (∀ i, i < n → (∀ j, i < j → j < n → at_ j ≠ at_ i) → readLE m' (at_ i) size = v i % 2 ^ (8 * size)) ∧
  ∀ b, (∀ i, i < n → b < at_ i ∨ at_ i + size ≤ b) → readByte m' b = readByte m b

/-- The model makes the accesses of an instruction in one step, and not word by word in several (the model's own switch, log 3). -/
def InOneStep (s : State) : Prop := s.lateLoads = false

/-- A record without its reserved parts: FLAGS bits 15:5 and bytes 60 to 63 (Tables 11.1, 11.2, R7, R8). -/
def withoutReserved (r : BitVec 512) : BitVec 512 := r &&& ~~~((0x7FF#512 <<< 85) ||| (0xFFFFFFFF#512 <<< 480))

/-- A view bound to a w register. -/
def Bound (s : State) (r : Reg) (v : View) : Prop := ∃ b, (getCtx s s.cur).regs.w[r].bound = some b ∧ viewOf b.view = v

end Sys2Proof.Claims

/-- R243, R242: VMKV with a length below 2^32 writes the record of a dense rank-1 view, EMPTY if the length is 0, to t(d), else it raises
SHAPE; VIEW loads the 64 bytes of a record from granted words of the cluster store; VIEWS stores them; either leaves zero in the
reserved parts (R7, R8). -/
def Sys2Proof.Claims.ViewRecords : Prop :=
  ∀ (s : Sys2Proof.Machine.State) (td : Fin 16) (a : Sys2Proof.Reg),
    let x := Sys2Proof.Machine.getCtx s s.cur
    let va := Sys2Proof.Claims.xAt x a
    Sys2Proof.Claims.VectorStart s →
    (∀ (t : Fin 8) b, let len := (Sys2Proof.Claims.intL x b).toNat
      (len < 2 ^ 32 → ∃ r : BitVec 512, Sys2Proof.Machine.exec (.vmkv t td a b) s =
          .next (Sys2Proof.Claims.advance (Sys2Proof.Claims.withT s td r) (Sys2Proof.Instr.vmkv t td a b).bytes) ∧
        r.extractLsb' 0 64 = va ∧ r.extractLsb' 64 8 = BitVec.ofNat 8 t.val ∧ r.extractLsb' 72 8 = 1 ∧
        r.extractLsb' 80 16 = (if len = 0 then 16 else 0) ∧ r.extractLsb' 96 32 = BitVec.ofNat 32 (max len 1) ∧
        (∀ j, j < 3 → r.extractLsb' (128 + 32 * j) 32 = 1) ∧ r.extractLsb' 224 32 = 1 ∧
        (∀ j, j < 3 → r.extractLsb' (256 + 32 * j) 32 = 0) ∧ r.extractLsb' 352 64 = va ∧
        r.extractLsb' 416 64 = va + BitVec.ofNat 64 (len * (Sys2Proof.Claims.laneBits t / 8)) ∧ r.extractLsb' 480 32 = 0) ∧
      (2 ^ 32 ≤ len → Sys2Proof.Machine.exec (.vmkv t td a b) s = .next (Sys2Proof.Machine.takeTrap s s.cur { code := 7 }))) ∧
    (∀ p k, Sys2Proof.Claims.InOneStep s →
      (∀ j, j < 8 → Sys2Proof.Claims.Granted s (va + BitVec.ofNat 64 (8 * j)) 8 (p + 8 * j) k) →
      ((∀ j, j < 8 → Sys2Proof.Claims.AtHome s (p + 8 * j) k) → ∃ r : BitVec 512, (∀ j, j < 8 → r.extractLsb' (64 * j) 64 = BitVec.ofNat 64 (Sys2Proof.Machine.readLE s.mem (p + 8 * j) 8)) ∧
        Sys2Proof.Machine.exec (.view td a) s =
          .next (Sys2Proof.Claims.advance (Sys2Proof.Claims.withT s td (Sys2Proof.Claims.withoutReserved r)) 4)) ∧
      (Sys2Proof.Claims.Storable s p k →
        ∃ m, Sys2Proof.Machine.exec (.views td a) s = .next (Sys2Proof.Claims.advance { s with mem := m } 4) ∧
          Sys2Proof.Claims.StoredInOrder s.mem m 8 8 (fun j => p + 8 * j) fun j =>
            ((Sys2Proof.Claims.withoutReserved x.regs.t[td]).extractLsb' (64 * j) 64).toNat))

/-- R229, R230, R244: VPART of a rank-1 view into P parts (0 counting as 1) takes part r, r from the register after b, the cell's number
in its cluster, or the cell's number: with N = qP + m elements, part r starts at element rq + min(r, m) and has q or, below m, q + 1
elements; with r at or above P, or no element left, the view becomes EMPTY. -/
def Sys2Proof.Claims.PartsOfAView : Prop :=
  ∀ (s : Sys2Proof.Machine.State) (src : Fin 3) (td ta : Fin 16) (b : Sys2Proof.OpL) (r : Nat),
    let x := Sys2Proof.Machine.getCtx s s.cur
    let v := Sys2Proof.Claims.viewIn s ta
    let spec := Sys2Proof.Claims.intL x b
    let p := if spec.toNat % 2 ^ 16 = 0 then 1 else spec.toNat % 2 ^ 16
    let n := v.d.getD 0 1
    let start := r * (n / p) + min r (n % p)
    let size := n / p + if r < n % p then 1 else 0
    Sys2Proof.Claims.VectorStart s → Sys2Proof.Machine.viewFault v = none → v.rank = 1 → 8 ≤ Sys2Proof.Machine.elemBits v.ty →
    (∀ j, 1 ≤ j → j < 4 → spec.toNat / 2 ^ (16 * j) % 2 ^ 16 ≤ 1) →
    ((src = 0 ∧ ∃ q : Sys2Proof.Reg, ∃ h : q.val + 1 < 32, b = .reg q ∧ r = (Sys2Proof.Claims.xAt x ⟨q.val + 1, h⟩).toNat) ∨
      (src = 1 ∧ r = s.cur.cell % 4) ∨ (src = 2 ∧ r = s.cur.cell)) →
    ∃ u : BitVec 512, Sys2Proof.Machine.exec (.vpart src td ta b) s = .next (Sys2Proof.Claims.advance (Sys2Proof.Claims.withT s td u)
        (Sys2Proof.Instr.vpart src td ta b).bytes) ∧
      Sys2Proof.Machine.viewOf u = if p ≤ r ∨ size = 0 then { v with flags := v.flags ||| 16 }
        else { v with base := (BitVec.ofInt 64 (v.base + start * v.s.getD 0 0 * Sys2Proof.Claims.elementSize v)).toNat,
                      d := [size, 1, 1, 1] }

/-- R222, R245, R219: VBIND of a record that passes the checks, not MXFP4, binds it to wd and frees wd's row; a record that fails raises the
first failing check's fault; VUNBIND leaves wd unbound and zero. -/
def Sys2Proof.Claims.BindingAView : Prop :=
  ∀ (s : Sys2Proof.Machine.State) (d : Sys2Proof.Reg) (ta : Fin 16),
    let x := Sys2Proof.Machine.getCtx s s.cur
    let r := x.regs.t[ta]
    Sys2Proof.Claims.VectorStart s →
    (Sys2Proof.Machine.viewFault (Sys2Proof.Claims.viewIn s ta) = none → (Sys2Proof.Claims.viewIn s ta).ty ≠ 10 →
      ∃ rows, Sys2Proof.Machine.exec (.vbind d ta) s = .next (Sys2Proof.Claims.advance (Sys2Proof.Machine.modCtx
          (Sys2Proof.Machine.modCell s s.cur.cell fun k => { k with rows := rows }) s.cur fun y =>
        { y with regs := { y.regs with
            w := y.regs.w.set d.val { bound := some { view := r, scale := 0, tnum := ta.val + 1 }, data := 0, spilled := false } d.isLt } }) 4) ∧
        ∀ q ∈ rows, ¬ (q.slot = s.cur.slot ∧ q.reg = d.val)) ∧
    (∀ code, Sys2Proof.Machine.viewFault (Sys2Proof.Claims.viewIn s ta) = some code →
      Sys2Proof.Machine.exec (.vbind d ta) s = .next (Sys2Proof.Machine.takeTrap s s.cur { code := code })) ∧
    ∃ rows, Sys2Proof.Machine.exec (.vunbind d) s = .next (Sys2Proof.Claims.advance (Sys2Proof.Claims.withW s d 0 rows) 4) ∧
      ∀ q ∈ rows, ¬ (q.slot = s.cur.slot ∧ q.reg = d.val)

/-- R219, R222, R229, R230, R242 to R245: records of views. -/
def Obligations.ViewRecordsPartsAndBindings : Prop :=
  Sys2Proof.Claims.ViewRecords ∧
  Sys2Proof.Claims.PartsOfAView ∧
  Sys2Proof.Claims.BindingAView

/-- R220, R223, R226, R246: VLD of chunk n of a view in the cluster store writes the chunk's elements to the low lanes of wd, zero above
them; VST stores the lanes to the chunk's elements in lane order and leaves every other byte; a chunk number past the view's last
raises BOUNDS. -/
def Sys2Proof.Claims.VectorLoadsAndStores : Prop :=
  ∀ (s : Sys2Proof.Machine.State) (d : Sys2Proof.Reg) (ta : Fin 16) (b : Sys2Proof.OpL) (at_ : Nat → Nat),
    let x := Sys2Proof.Machine.getCtx s s.cur
    let v := Sys2Proof.Claims.viewIn s ta
    let w := Sys2Proof.Machine.elemBits v.ty
    let n := (Sys2Proof.Claims.intL x b).toNat
    let first := n * Sys2Proof.Claims.perChunk v
    let m := min (Sys2Proof.Claims.perChunk v) (Sys2Proof.Claims.elementCount v - first)
    let len := (Sys2Proof.Instr.vld d ta b).bytes
    Sys2Proof.Claims.VectorStart s → Sys2Proof.Claims.InOneStep s → Sys2Proof.Claims.Plain v →
    (first < Sys2Proof.Claims.elementCount v → Sys2Proof.Claims.FreshRow s d →
      Sys2Proof.Claims.Placed s v first m at_ (Sys2Proof.Claims.AtHome s) →
      ∃ u rows, (∀ k, k < Sys2Proof.Claims.perChunk v → u.extractLsb' (w * k) w =
          if k < m then BitVec.ofNat w (Sys2Proof.Machine.readLE s.mem (at_ k) (w / 8)) else 0) ∧
        Sys2Proof.Machine.exec (.vld d ta b) s = .next (Sys2Proof.Claims.advance (Sys2Proof.Claims.withW s d u rows) len)) ∧
    (first < Sys2Proof.Claims.elementCount v → Sys2Proof.Claims.InRow s d → v.flags / 8 % 2 = 0 →
      Sys2Proof.Claims.Placed s v first m at_ (Sys2Proof.Claims.Storable s) →
      ∃ u rows, Sys2Proof.Claims.StoredInOrder s.mem u m (w / 8) at_ (fun k => (x.regs.w[d].data.extractLsb' (w * k) w).toNat) ∧
        Sys2Proof.Machine.exec (.vst d ta b) s = .next (Sys2Proof.Claims.advance
          { Sys2Proof.Machine.modCell s s.cur.cell (fun k => { k with rows := rows }) with mem := u } len)) ∧
    (Sys2Proof.Claims.elementCount v ≤ first → x.regs.w[d].bound = none →
      Sys2Proof.Machine.exec (.vld d ta b) s = .next (Sys2Proof.Machine.takeTrap s s.cur
        { code := 6, vaddr := BitVec.ofNat 64 v.base, cursor := Sys2Proof.Claims.intL x b }))

/-- R264, R266: VGATHER on unbound registers reads 32 elements at the byte addresses in wa's lanes of 64 bits, in the cluster store,
into the low lanes of wd, zero above; VSCATTER stores 32 lanes to such addresses in lane order; an address that is no multiple
of the element's size raises ALIGN with its lane. -/
def Sys2Proof.Claims.GathersAndScatters : Prop :=
  ∀ (s : Sys2Proof.Machine.State) (t : Fin 8) (d a : Sys2Proof.Reg) (at_ : Nat → Nat),
    let x := Sys2Proof.Machine.getCtx s s.cur
    let size := Sys2Proof.Claims.laneBits t / 8
    let va := fun k => Sys2Proof.Claims.lane64 x.regs.w[a].data k
    Sys2Proof.Claims.VectorStart s → Sys2Proof.Claims.InOneStep s → Sys2Proof.Claims.InRow s a →
    (Sys2Proof.Claims.FreshRow s d →
      (∀ k, k < 32 → ∃ q, Sys2Proof.Claims.AtHome s (at_ k) q ∧ Sys2Proof.Claims.Granted s (va k) size (at_ k) q) →
      ∃ u rows, (∀ k, k < Sys2Proof.Claims.lanes t → Sys2Proof.Claims.laneOf t u k =
          if k < 32 then BitVec.ofNat _ (Sys2Proof.Machine.readLE s.mem (at_ k) size) else 0) ∧
        Sys2Proof.Machine.exec (.vgather t d a) s = .next (Sys2Proof.Claims.advance (Sys2Proof.Claims.withW s d u rows) 4)) ∧
    (Sys2Proof.Claims.InRow s d →
      (∀ k, k < 32 → ∃ q, Sys2Proof.Claims.Storable s (at_ k) q ∧ Sys2Proof.Claims.Granted s (va k) size (at_ k) q) →
      ∃ u rows, Sys2Proof.Claims.StoredInOrder s.mem u 32 size at_ (fun k => (Sys2Proof.Claims.laneOf t x.regs.w[d].data k).toNat) ∧
        Sys2Proof.Machine.exec (.vscatter t a d) s = .next (Sys2Proof.Claims.advance
          { Sys2Proof.Machine.modCell s s.cur.cell (fun k => { k with rows := rows }) with mem := u } 4)) ∧
    (∀ k, k < 32 → (va k).toNat % size ≠ 0 → (∀ j, j < k → (va j).toNat % size = 0) → x.regs.w[d].bound = none →
      ∃ rows held, Sys2Proof.Machine.exec (.vgather t d a) s = .next (Sys2Proof.Machine.takeTrap
        (Sys2Proof.Machine.modCtx (Sys2Proof.Machine.modCell s s.cur.cell fun c => { c with rows := rows }) s.cur
          fun y => { y with inUse := held })
        s.cur { code := 3, vaddr := va k, lane := k }))

/-- R220, R223, R226, R246, R264, R266: vector loads, stores, gathers and scatters. -/
def Obligations.VectorMemoryAccesses : Prop :=
  Sys2Proof.Claims.VectorLoadsAndStores ∧
  Sys2Proof.Claims.GathersAndScatters

/-- R222 to R224, R226, R241: an element-wise instruction on bound views of one shape and type, of at most one chunk, in the cluster
store, stores to each element of wd's view what its table gives for the elements of the sources, reading all before it stores;
no w register and no other byte changes. -/
def Sys2Proof.Claims.ElementwiseFormsOnViews : Prop :=
  ∀ (s : Sys2Proof.Machine.State) (i : Sys2Proof.Instr) (t : Fin 8) (d a : Sys2Proof.Reg) (b : Option Sys2Proof.OpL)
    (z u w : Sys2Proof.Machine.View) (atZ atU atW : Nat → Nat)
    (r : Nat → BitVec (Sys2Proof.Claims.laneBits t) × Sys2Proof.Machine.FFlags),
    let x := Sys2Proof.Machine.getCtx s s.cur
    let n := Sys2Proof.Claims.elementCount z
    let size := Sys2Proof.Claims.laneBits t / 8
    let elem := fun (p : Nat → Nat) k => BitVec.ofNat (Sys2Proof.Claims.laneBits t) (Sys2Proof.Machine.readLE s.mem (p k) size)
    Sys2Proof.Claims.VectorStart s → Sys2Proof.Claims.InOneStep s → Sys2Proof.Claims.vectorForm i = some (t, d, a, b) →
    Sys2Proof.Claims.Bound s d z → Sys2Proof.Claims.Bound s a u → (∀ q, b = some (.reg q) → Sys2Proof.Claims.Bound s q w) →
    (∀ v ∈ [z, u, w], Sys2Proof.Claims.Plain v ∧ v.ty = t.val ∧ v.d = z.d) → z.flags / 8 % 2 = 0 →
    n ≤ Sys2Proof.Claims.lanes t →
    Sys2Proof.Claims.Placed s z 0 n atZ (Sys2Proof.Claims.Storable s) →
    Sys2Proof.Claims.Placed s u 0 n atU (Sys2Proof.Claims.AtHome s) → Sys2Proof.Claims.Placed s w 0 n atW (Sys2Proof.Claims.AtHome s) →
    (∀ k, k < n → Sys2Proof.Claims.vectorLane t x.frm.toNat i (elem atU k)
      (match b with | some (.lit l) => (Sys2Proof.Claims.literalLane t x.frm.toNat l).1 | _ => elem atW k) (elem atZ k) = some (r k)) →
    ∃ m, Sys2Proof.Claims.StoredInOrder s.mem m n size atZ (fun k => (r k).1.toNat) ∧
      Sys2Proof.Machine.exec i s = .next (Sys2Proof.Claims.advance (Sys2Proof.Claims.withFlags { s with mem := m }
        (Sys2Proof.Claims.flagsOf n (fun k => (r k).2) ||| Sys2Proof.Claims.bFlags x t b)) i.bytes)

/-- R222 to R226, R241, R249, R257: element-wise instructions, on registers and on views. -/
def Obligations.ElementwiseForms : Prop :=
  Sys2Proof.Claims.ElementwiseVectorForms ∧
  Sys2Proof.Claims.ElementwiseFormsOnViews

namespace Sys2Proof.Claims
open Sys2Proof.Machine

/-- A dense rank-1 view of n elements of a type in the cluster store, byte by byte at `a`, wholly in its bounds. -/
def DenseAt (s : State) (v : View) (ty n a : Nat) (fit : Nat → LocKind → Prop) : Prop :=
  viewFault v = none ∧ v.flags / 16 % 2 = 0 ∧ v.ty = ty ∧ v.rank = 1 ∧ v.d = [n, 1, 1, 1] ∧ v.s = [1, 0, 0, 0] ∧
  v.lo ≤ v.base ∧ v.base + n * elemBits ty / 8 ≤ v.hi ∧
  ∀ j, j < n → ∃ k, fit (a + j * elemBits ty / 8) k ∧ Granted s (BitVec.ofNat 64 (v.base + j * elemBits ty / 8)) (max 1 (elemBits ty / 8))
    (a + j * elemBits ty / 8) k

/-- An MXFP4 view of the 8-element convention with its scale view, both bound to a register (R221, R202). -/
def BoundMx (s : State) (r : Reg) (v sc : View) : Prop :=
  ∃ b, (getCtx s s.cur).regs.w[r].bound = some b ∧ viewOf b.view = v ∧ viewOf b.scale = sc ∧ v.flags % 2 = 0

/-- The nibble of element j. -/
def nibble (m : Memory) (a j : Nat) : Nat := (readByte m (a + j / 2)).toNat / 16 ^ (j % 2) % 16

end Sys2Proof.Claims

/-- R202, R212, R255: VQMX of a dense FP32 view of n elements in the cluster store into a dense MXFP4 view, n at most 512, writes for each
block of 8 the element codes and the scale byte of QMX_BLOCK, and no other byte. -/
def Sys2Proof.Claims.QuantisationToMxfp4 : Prop :=
  ∀ (s : Sys2Proof.Machine.State) (d a : Sys2Proof.Reg) (v sc u : Sys2Proof.Machine.View) (n dst scale src : Nat),
    let block := fun j => Sys2Proof.Machine.qmxBlock ((List.range 8).map fun k =>
      Sys2Proof.Machine.fpDecode Sys2Proof.Machine.fp32 (Sys2Proof.Machine.readLE s.mem (src + 4 * (8 * j + k)) 4))
    Sys2Proof.Claims.VectorStart s → Sys2Proof.Claims.InOneStep s → n ≤ 512 → Sys2Proof.Claims.BoundMx s d v sc → Sys2Proof.Claims.Bound s a u →
    Sys2Proof.Claims.DenseAt s v 10 n dst (Sys2Proof.Claims.Storable s) →
    Sys2Proof.Claims.DenseAt s sc 11 (n / 8) scale (Sys2Proof.Claims.Storable s) →
    Sys2Proof.Claims.DenseAt s u 0 n src (Sys2Proof.Claims.AtHome s) → v.flags / 8 % 2 = 0 → sc.flags / 8 % 2 = 0 →
    dst + n / 2 ≤ scale ∨ scale + n / 8 ≤ dst →
    ∃ m fl, Sys2Proof.Machine.exec (.vqmx d a) s =
        .next (Sys2Proof.Claims.advance (Sys2Proof.Claims.withFlags { s with mem := m } fl) 4) ∧
      (∀ j, j < n → Sys2Proof.Claims.nibble m dst j = (block (j / 8)).1.getD (j % 8) 0 % 16) ∧
      (∀ j, j < n / 8 → Sys2Proof.Machine.readByte m (scale + j) = BitVec.ofNat 8 (block j).2.1) ∧
      ∀ b, (b < dst ∨ dst + n / 2 ≤ b) → (b < scale ∨ scale + n / 8 ≤ b) →
        Sys2Proof.Machine.readByte m b = Sys2Proof.Machine.readByte s.mem b

/-- R202, R256: VDQ of a dense MXFP4 view of n elements, n at most 64, into a dense FP32 view stores for each element its E2M1 value times
2^(scale − 127), NaN where the scale byte is 0xFF, rounded by FRM; VDQ of a dense INT4 view stores the integers. -/
def Sys2Proof.Claims.Dequantisation : Prop :=
  ∀ (s : Sys2Proof.Machine.State) (d a : Sys2Proof.Reg) (v z : Sys2Proof.Machine.View) (n dst src : Nat),
    let x := Sys2Proof.Machine.getCtx s s.cur
    let done := fun (f : Nat → Nat) => ∃ m fl, Sys2Proof.Machine.exec (.vdq d a) s =
        .next (Sys2Proof.Claims.advance (Sys2Proof.Claims.withFlags { s with mem := m } fl) 4) ∧
      Sys2Proof.Claims.StoredInOrder s.mem m n 4 (fun k => dst + 4 * k) f
    Sys2Proof.Claims.VectorStart s → Sys2Proof.Claims.InOneStep s → n ≤ 64 → Sys2Proof.Claims.Bound s d z → z.flags / 8 % 2 = 0 →
    Sys2Proof.Claims.DenseAt s z 0 n dst (Sys2Proof.Claims.Storable s) →
    (∀ sc scale, Sys2Proof.Claims.BoundMx s a v sc → Sys2Proof.Claims.DenseAt s v 10 n src (Sys2Proof.Claims.AtHome s) →
      Sys2Proof.Claims.DenseAt s sc 11 (n / 8) scale (Sys2Proof.Claims.AtHome s) →
      done fun k =>
        let b := (Sys2Proof.Machine.readByte s.mem (scale + k / 8)).toNat
        (match Sys2Proof.Machine.fpDecode Sys2Proof.Machine.e2m1 (Sys2Proof.Claims.nibble s.mem src k) with
          | .fin sg m e => if b = 255 then Sys2Proof.Machine.fvRound Sys2Proof.Machine.fp32 x.frm.toNat false (.nan false)
              else Sys2Proof.Machine.fvRound Sys2Proof.Machine.fp32 x.frm.toNat false (.fin sg m (e + b - 127))
          | _ => (0, 0)).1) ∧
    (Sys2Proof.Claims.Bound s a v → Sys2Proof.Claims.DenseAt s v 14 n src (Sys2Proof.Claims.AtHome s) →
      done fun k => (Sys2Proof.Machine.ofInteger Sys2Proof.Machine.fp32 x.frm.toNat
        (BitVec.ofNat 4 (Sys2Proof.Claims.nibble s.mem src k)).toInt).1)

/-- R260, R261: VNORM of a dense FP32 tile of K × M elements, at most 64, its contraction axis the first, writes to lane j of wd the
FP32 square root of the squares of slice j added one by one (w along K, then M); VTOPK of a dense FP32 view keeps, of each group of
4, two elements in index order, none of the others larger in magnitude, ties to the lower index, and writes their indices. -/
def Sys2Proof.Claims.SliceNormsAndTopK : Prop :=
  ∀ (s : Sys2Proof.Machine.State) (d a : Sys2Proof.Reg) (u : Sys2Proof.Machine.View) (src : Nat),
    let elem := fun k => Sys2Proof.Machine.readLE s.mem (src + 4 * k) 4
    let value := fun k => Sys2Proof.Machine.fpDecode Sys2Proof.Machine.fp32 (elem k)
    Sys2Proof.Claims.VectorStart s → Sys2Proof.Claims.InOneStep s → Sys2Proof.Claims.Bound s a u →
    (∀ (w : Fin 6) (k m : Nat) at_, Sys2Proof.Claims.FreshRow s d → Sys2Proof.Claims.Plain u → u.ty = 0 → u.rank = 2 →
      u.d = [k, m, 1, 1] → u.s = [1, k, 0, 0] → u.flags / 2 % 4 = 0 → k * m ≤ 64 → k % 2 ^ w.val = 0 →
      Sys2Proof.Claims.Placed s u 0 (k * m) at_ (Sys2Proof.Claims.AtHome s) → (∀ i, i < k * m → at_ i = src + 4 * i) →
      let norm := fun j => (Sys2Proof.Machine.fvSqrt Sys2Proof.Machine.fp32 0 (Sys2Proof.Machine.fpDecode Sys2Proof.Machine.fp32
        ((List.range m).foldl (fun acc c => (List.range (2 ^ w.val)).foldl (fun acc q =>
          let e := value (j * 2 ^ w.val + q + k * c)
          (Sys2Proof.Machine.fvFma Sys2Proof.Machine.fp32 0 e e (Sys2Proof.Machine.fpDecode Sys2Proof.Machine.fp32 acc)).1) acc) 0))).1
      ∃ v rows fl, (∀ j, j < 64 → (Sys2Proof.Claims.laneOf 0 v j).toNat = if j < k / 2 ^ w.val then norm j else 0) ∧
        Sys2Proof.Machine.exec (.vnorm 0 w d a) s = .next (Sys2Proof.Claims.advance
          (Sys2Proof.Claims.withFlags (Sys2Proof.Claims.withW s d v rows) fl) 4)) ∧
    (∀ (b : Sys2Proof.Reg) (z y : Sys2Proof.Machine.View) (g dst mt : Nat), 0 < g → g ≤ 32 →
      Sys2Proof.Claims.Bound s d z → Sys2Proof.Claims.Bound s b y → z.flags / 8 % 2 = 0 → y.flags / 8 % 2 = 0 →
      Sys2Proof.Claims.DenseAt s u 0 (4 * g) src (Sys2Proof.Claims.AtHome s) →
      Sys2Proof.Claims.DenseAt s z 0 (2 * g) dst (Sys2Proof.Claims.Storable s) →
      Sys2Proof.Claims.DenseAt s y 8 g mt (Sys2Proof.Claims.Storable s) → dst + 8 * g ≤ mt ∨ mt + g ≤ dst →
      ∃ m, Sys2Proof.Machine.exec (.vtopk 0 d a b) s = .next (Sys2Proof.Claims.advance { s with mem := m } 4) ∧
        (∀ j, j < g → ∃ p q, p < q ∧ q < 4 ∧ (Sys2Proof.Machine.readByte m (mt + j)).toNat = p + 4 * q ∧
          Sys2Proof.Machine.readLE m (dst + 8 * j) 4 = elem (4 * j + p) ∧
          Sys2Proof.Machine.readLE m (dst + 8 * j + 4) 4 = elem (4 * j + q) ∧
          ∀ o, o < 4 → o ≠ p → o ≠ q → ∀ k, k = p ∨ k = q →
            Sys2Proof.Machine.magLarger 0 (elem (4 * j + o)) (elem (4 * j + k)) = false ∧
            (Sys2Proof.Machine.magLarger 0 (elem (4 * j + k)) (elem (4 * j + o)) = false → k < o)) ∧
        ∀ c, (c < dst ∨ dst + 8 * g ≤ c) → (c < mt ∨ mt + g ≤ c) →
          Sys2Proof.Machine.readByte m c = Sys2Proof.Machine.readByte s.mem c)

/-- R202, R212, R255, R256, R260, R261: block formats, slice norms and 2:4 selection. -/
def Obligations.BlockFormatsNormsAndTopK : Prop :=
  Sys2Proof.Claims.QuantisationToMxfp4 ∧
  Sys2Proof.Claims.Dequantisation ∧
  Sys2Proof.Claims.SliceNormsAndTopK

namespace Sys2Proof.Claims
open Sys2Proof.Machine

/-! ## Accumulators, rings and the matrix engine's queue -/

/-- The current context is an actor whose relative accumulator is the physical one `p`, or whose ring number is granted (R310). -/
def OwnsAcc (s : State) (acc : Fin 16) (p : Nat) : Prop := s.cur.slot < 16 ∧ (getCtx s s.cur).grants.accs[acc.val]? = some p
def OwnsRing (s : State) (ring : Fin 8) : Prop := s.cur.slot < 16 ∧ ring.val < (getCtx s s.cur).grants.rings

/-- The engines of the context's cluster. -/
def engines (s : State) : Cluster := getCluster s (s.cur.cell / 4)
def withEngines (s : State) (f : Cluster → Cluster) : State := modCluster s (s.cur.cell / 4) f

/-- No operation on the accumulator is in the command queue. -/
def Settled (s : State) (p : Nat) : Prop := ∀ o ∈ (engines s).eme, o.acc = p → o.kind = .rpop

/-- The command queue has an entry that no held follow-on takes (R290). -/
def QueueRoom (s : State) : Prop := (engines s).eme.length + ((engines s).transfers.filter (·.folHeld)).length < 32

/-- The state with an operation added to the queue. -/
def queuedOp (s : State) (o : EmeOp) : State := withEngines s fun k => { k with eme := k.eme ++ [o], nextOp := k.nextOp + 1 }

/-- Element j of an accumulator, row-major; untouched ones are zero. -/
def accElement (s : State) (p j : Nat) : Word32 := (accElems (accOf s (s.cur.cell / 4) p)).getD j 0

/-- Lane j of 32 bits of a w register's data. -/
def lane32 (v : BitVec 2048) (j : Nat) : Word32 := v.extractLsb' (32 * j) 32

/-- A trap of the current context. -/
def traps (s : State) (i : Instr) (code : Nat) (cursor : Word) : Prop :=
  exec i s = .next (takeTrap s s.cur { code := code, cursor := cursor })

end Sys2Proof.Claims

/-- R267, R268, R310 to R312: on a granted accumulator, with chunk number k below 32, VACCRD.PEEK, and VACCRD once nothing on the
accumulator is queued, write elements 64k to 64k + 63 to an unbound wd; VACCWR queues ws's 64 lanes for them; k of 32 or more raises
BOUNDS with k in the cursor (Table 22.1); ACCZ queues a clearing; ACCSTAT with nothing queued writes the variance word and the status byte. On an accumulator not granted
each of them raises ACC_NOT_OWNED. -/
def Obligations.AccumulatorAccess : Prop :=
  ∀ (s : Sys2Proof.Machine.State) (t : Fin 8) (d r : Sys2Proof.Reg) (acc : Fin 16) (b : Sys2Proof.OpL),
    let x := Sys2Proof.Machine.getCtx s s.cur
    let k := (Sys2Proof.Claims.intL x b).toNat
    let len := (Sys2Proof.Instr.vaccrd t d acc b).bytes
    Sys2Proof.Claims.VectorStart s → t = 0 ∨ t = 7 → x.regs.w[d].bound = none →
    (∀ p, Sys2Proof.Claims.OwnsAcc s acc p →
      (k < 32 → Sys2Proof.Claims.FreshRow s d → ∃ v rows,
        (∀ j, j < 64 → Sys2Proof.Claims.lane32 v j = Sys2Proof.Claims.accElement s p (64 * k + j)) ∧
        let u := Sys2Proof.Claims.advance (Sys2Proof.Claims.withW s d v rows) len
        Sys2Proof.Machine.exec (.vaccrdPeek t d acc b) s = .next u ∧
        (Sys2Proof.Claims.Settled s p → Sys2Proof.Machine.exec (.vaccrd t d acc b) s = .next u)) ∧
      (k < 32 → Sys2Proof.Claims.InRow s d → Sys2Proof.Claims.QueueRoom s → ∃ o rows,
        Sys2Proof.Machine.exec (.vaccwr t d acc b) s = .next (Sys2Proof.Claims.advance (Sys2Proof.Claims.queuedOp
          (Sys2Proof.Machine.modCell s s.cur.cell fun c => { c with rows := rows }) o) len) ∧
        o.kind = .vaccwr ∧ o.acc = p ∧ o.owner = s.cur ∧ o.rowFirst = 64 * k ∧
        ∀ j, j < 64 → o.data[j]? = some (Sys2Proof.Claims.lane32 x.regs.w[d].data j)) ∧
      (32 ≤ k → ∀ i ∈ ([.vaccrd t d acc b, .vaccrdPeek t d acc b, .vaccwr t d acc b] : List Sys2Proof.Instr),
        Sys2Proof.Claims.traps s i 6 (Sys2Proof.Claims.intL x b)) ∧
      (Sys2Proof.Claims.QueueRoom s → ∃ o, Sys2Proof.Machine.exec (.accz acc) s =
        .next (Sys2Proof.Claims.advance (Sys2Proof.Claims.queuedOp s o) 4) ∧ o.kind = .accz ∧ o.acc = p ∧ o.owner = s.cur) ∧
      (Sys2Proof.Claims.Settled s p → ∃ v : Sys2Proof.Word, Sys2Proof.Claims.writesX s (.accstat r acc) r v ∧
        v.extractLsb' 0 32 = (Sys2Proof.Machine.accOf s (s.cur.cell / 4) p).var ∧
        v.extractLsb' 32 32 = (Sys2Proof.Machine.accOf s (s.cur.cell / 4) p).status.setWidth 32)) ∧
    ((∀ p, ¬ Sys2Proof.Claims.OwnsAcc s acc p) →
      ∀ i ∈ ([.vaccrd t d acc b, .vaccrdPeek t d acc b, .vaccwr t d acc b, .accz acc, .accstat r acc] : List Sys2Proof.Instr),
        Sys2Proof.Claims.traps s i 14 0)

namespace Sys2Proof.Claims
open Sys2Proof.Machine

/-- Bytes of a ring's tile (Table 15.1), and of its side lanes per slot (R314). -/
def tileSize (n : Ring) : Nat :=
  (if n.role = 1 ∨ n.sparse = 1 then 1024 else 2048) * elemBits n.fmt.toNat / 8
def laneSize (n : Ring) : Nat :=
  (if n.normw ≠ 7 then 4 * (32 / 2 ^ n.normw.toNat) else 0) + (if n.fmt = 10 then (if n.role = 1 then 128 else 256) else 0) +
    (if n.sparse = 1 then 512 else 0)

/-- A configuration word that R314 accepts, with the ring it describes (Table 16.8), holding nothing. -/
def Configures (w : Word) (n : Ring) : Prop :=
  n.base.toNat = 256 * field w 12 0 ∧ n.slots.toNat = field w 19 13 ∧ n.role.toNat = field w 20 20 ∧ n.fmt.toNat = field w 24 21 ∧
  n.sparse.toNat = field w 25 25 ∧ n.normw.toNat = field w 28 26 ∧ n.demand.toNat = field w 29 29 ∧
  n.head = 0 ∧ n.tail = 0 ∧ n.resv = 0 ∧ n.seq = 0 ∧ n.lanes = [] ∧ n.reservations = []
def ConfigOk (w : Word) (n : Ring) : Prop :=
  field w 31 30 = 0 ∧ 1 ≤ n.slots.toNat ∧ n.slots.toNat ≤ 64 ∧ n.fmt.toNat ∈ [0, 2, 3, 4, 5, 6, 10] ∧ n.normw ≠ 6 ∧
  (n.sparse = 1 → n.role = 0) ∧ (n.demand = 1 → n.role = 1 ∧ n.normw ≠ 7) ∧ laneSize n * n.slots.toNat ≤ 16384

/-- A ring of the current context. -/
def ringAt (s : State) (ring : Fin 8) : Ring := (getCtx s s.cur).rings[ring]
def withRing (s : State) (ring : Fin 8) (n : Ring) : State :=
  modCtx s s.cur fun x => { x with rings := x.rings.set ring.val n ring.isLt }

end Sys2Proof.Claims

/-- R313 to R317: RINGCFG of an idle granted ring takes a word that passes the checks and empties the ring; a word that fails them raises
SHAPE, slots past the scratch grant PROT; RINGST writes the counters or the configuration; RPOP of 0 has no effect, of 1 to SLOTS
queues a pop, of more raises RING_UNDERRUN. On a ring not granted each raises ACC_NOT_OWNED. -/
def Sys2Proof.Claims.RingInstructions : Prop :=
  ∀ (s : Sys2Proof.Machine.State) (ring : Fin 8) (d : Sys2Proof.Reg) (b : Sys2Proof.OpB) (n : Sys2Proof.Machine.Ring),
    let x := Sys2Proof.Machine.getCtx s s.cur
    let w := Sys2Proof.Claims.intB x b
    let r := Sys2Proof.Claims.ringAt s ring
    let low := BitVec.ofNat 64 (Sys2Proof.Claims.field w 31 0)
    let len := (Sys2Proof.Instr.rpop ring b).bytes
    let room := x.grants.scratchSize
    Sys2Proof.Claims.Quiet s →
    (Sys2Proof.Claims.OwnsRing s ring →
      (Sys2Proof.Claims.Configures w n →
        (Sys2Proof.Claims.ConfigOk w n → n.base.toNat + n.slots.toNat * Sys2Proof.Claims.tileSize n ≤ room →
          r.reservations = [] → r.head = r.resv → (Sys2Proof.Claims.engines s).transfers = [] →
          Sys2Proof.Machine.exec (.ringcfg ring b) s = .next (Sys2Proof.Claims.advance (Sys2Proof.Claims.withRing s ring n) len)) ∧
        (¬ Sys2Proof.Claims.ConfigOk w n → Sys2Proof.Claims.traps s (.ringcfg ring b) 7 low) ∧
        (Sys2Proof.Claims.ConfigOk w n → room < n.base.toNat + n.slots.toNat * Sys2Proof.Claims.tileSize n →
          Sys2Proof.Machine.exec (.ringcfg ring b) s = .next (Sys2Proof.Machine.takeTrap s s.cur
            { code := 5, vaddr := BitVec.ofNat 64 (Sys2Proof.Machine.localBase + x.grants.scratchOff + n.base.toNat) }))) ∧
      (∃ v : Sys2Proof.Word, Sys2Proof.Claims.writesX s (.ringst d ring 0) d v ∧ v.extractLsb' 0 16 = r.head ∧
        v.extractLsb' 16 16 = r.tail ∧ v.extractLsb' 32 16 = r.resv ∧ v.extractLsb' 48 16 = r.seq) ∧
      (∃ v : Sys2Proof.Word, Sys2Proof.Claims.writesX s (.ringst d ring 1) d v ∧ (r.base.toNat < 2 ^ 21 → r.base.toNat % 256 = 0 →
        Sys2Proof.Claims.field v 12 0 = r.base.toNat / 256 ∧ Sys2Proof.Claims.field v 19 13 = r.slots.toNat ∧
        Sys2Proof.Claims.field v 20 20 = r.role.toNat ∧ Sys2Proof.Claims.field v 24 21 = r.fmt.toNat ∧
        Sys2Proof.Claims.field v 25 25 = r.sparse.toNat ∧ Sys2Proof.Claims.field v 28 26 = r.normw.toNat ∧
        Sys2Proof.Claims.field v 29 29 = r.demand.toNat ∧ v.toNat < 2 ^ 30)) ∧
      (w = 0 → Sys2Proof.Machine.exec (.rpop ring b) s = .next (Sys2Proof.Claims.advance s len)) ∧
      (0 < w.toNat → w.toNat ≤ r.slots.toNat → Sys2Proof.Claims.QueueRoom s → ∃ u o,
        Sys2Proof.Machine.exec (.rpop ring b) s = .next (Sys2Proof.Claims.advance u len) ∧
        (Sys2Proof.Claims.engines u).eme = (Sys2Proof.Claims.engines s).eme ++ [o] ∧ o.kind = .rpop ∧ o.count = w.toNat ∧
        o.ringA = ring.val ∧ (Sys2Proof.Claims.ringAt u ring).resv = r.resv + BitVec.ofNat 16 w.toNat ∧
        (Sys2Proof.Claims.ringAt u ring).head = r.head ∧ u.mem = s.mem) ∧
      (r.slots.toNat < w.toNat → Sys2Proof.Claims.traps s (.rpop ring b) 15 low)) ∧
    (¬ Sys2Proof.Claims.OwnsRing s ring →
      ∀ i ∈ ([.ringcfg ring b, .ringst d ring 0, .ringst d ring 1, .rpop ring b] : List Sys2Proof.Instr),
        Sys2Proof.Claims.traps s i 14 0)

namespace Sys2Proof.Claims
open Sys2Proof.Machine

/-- A binding that RPUSH takes for a plain ring (no side lanes): a dense tile in the ring's format, K first (R269), at `a`. -/
def TileAt (s : State) (wa : Reg) (n : Ring) (a : Nat) : Prop :=
  ∃ v, Bound s wa v ∧ viewFault v = none ∧ v.flags = 0 ∧ v.rank = 2 ∧ v.ty = n.fmt.toNat ∧
    v.d = [32, if n.role = 1 then 32 else 64, 1, 1] ∧ v.s = [1, 32, 0, 0] ∧ v.lo ≤ v.base ∧ v.base + tileSize n ≤ v.hi ∧
    ∀ j, j < tileSize n * 8 / elemBits v.ty → ∃ k, AtHome s (a + j * (elemBits v.ty / 8)) k ∧
      Granted s (BitVec.ofNat 64 (v.base + j * (elemBits v.ty / 8))) (elemBits v.ty / 8) (a + j * (elemBits v.ty / 8)) k

/-- The address of a ring's slot for a sequence number: SLOTS slots from the base, in turn (R286). -/
def slotAt (s : State) (n : Ring) (seq : Nat) : Nat :=
  ownModule s * 2 ^ 60 + 2 ^ 56 + s.cur.cell / 4 * 2 ^ 21 +
    ((getCtx s s.cur).grants.scratchOff + n.base.toNat + seq % n.slots.toNat * tileSize n)

end Sys2Proof.Claims

/-- R269, R286: RPUSH of a dense tile in the cluster store into a granted plain ring that is not full and reserves nothing copies the
tile's bytes, unchanged, into the slot of the next sequence number, counts SEQ and TAIL up by one, and writes no other byte; a
register that is not bound raises SHAPE (with `.n`, unless the norm operand is an EMPTY view, R229). -/
def Sys2Proof.Claims.PushingATile : Prop :=
  ∀ (s : Sys2Proof.Machine.State) (ring : Fin 8) (wa wb : Sys2Proof.Reg) (a : Nat),
    let n := Sys2Proof.Claims.ringAt s ring
    let slot := Sys2Proof.Claims.slotAt s n n.seq.toNat
    let size := Sys2Proof.Claims.tileSize n
    Sys2Proof.Claims.VectorStart s → Sys2Proof.Claims.OwnsRing s ring →
    (Sys2Proof.Claims.InOneStep s → n.normw = 7 → n.sparse = 0 → n.fmt.toNat ∈ [0, 2, 3, 4, 5, 6] → 0 < n.slots.toNat → n.reservations = [] →
      (n.tail - n.head).toNat < n.slots.toNat → Sys2Proof.Claims.TileAt s wa n a →
      ∃ m n', Sys2Proof.Machine.exec (.rpush false ring wa wb) s =
          .next (Sys2Proof.Claims.advance { Sys2Proof.Claims.withRing s ring n' with mem := m } 4) ∧
        n' = { n with tail := n.tail + 1, seq := n.seq + 1 } ∧
        (∀ j, j < size → Sys2Proof.Machine.readByte m (slot + j) = Sys2Proof.Machine.readByte s.mem (a + j)) ∧
        ∀ c, c < slot ∨ slot + size ≤ c → Sys2Proof.Machine.readByte m c = Sys2Proof.Machine.readByte s.mem c) ∧
    ((Sys2Proof.Machine.getCtx s s.cur).regs.w[wa].bound = none → ∀ norms,
      (norms = true → ∀ v, Sys2Proof.Claims.Bound s wb v → v.flags / 16 % 2 = 0) → Sys2Proof.Claims.traps s (.rpush norms ring wa wb) 7 0)

/-- R269, R286, R313 to R317: rings and the tiles pushed into them. -/
def Obligations.RingsAndTiles : Prop :=
  Sys2Proof.Claims.RingInstructions ∧
  Sys2Proof.Claims.PushingATile

namespace Sys2Proof.Claims
open Sys2Proof.Machine

/-- The queue entry of an MMA or MMAS (R305): what it multiplies, into what, over which K. -/
def IsCommand (s : State) (o : EmeOp) (kind : EmeKind) (pri : Fin 4) (pair : Fin 10) (k : Word) (ringB ringA : Fin 8) (p : Nat) : Prop :=
  o.kind = kind ∧ o.acc = p ∧ o.ringA = ringA.val ∧ o.ringB = ringB.val ∧ o.k = k.toNat ∧ o.prio = pri.val ∧ opPair o = pair.val ∧
  o.owner = s.cur ∧ o.id = (engines s).nextOp ∧ o.ran = false

/-- MMA and MMAS leave `u`: the operation last in the queue, ⌈K/32⌉ tiles reserved on each ring, memory and registers as they were. -/
def Issued (s u : State) (o : EmeOp) (k : Word) (ringB ringA : Fin 8) : Prop :=
  (engines u).eme = (engines s).eme ++ [o] ∧ u.mem = s.mem ∧ (getCtx u s.cur).regs = (getCtx s s.cur).regs ∧
  (getCtx u s.cur).pc = (getCtx s s.cur).pc + 4 ∧
  (ringA ≠ ringB → ∀ r, r = ringA ∨ r = ringB →
    (ringAt u r).resv = (ringAt s r).resv + BitVec.ofNat 16 ((k.toNat + 31) / 32))

def depthOk (k : Word) : Prop := 8 ≤ k.toNat ∧ k.toNat ≤ 2048 ∧ k.toNat % 8 = 0
def samplingOk (k w : Word) : Prop :=
  w.toNat < 2 ^ 16 ∧ field w 10 8 ≤ 5 ∧ k.toNat % 2 ^ field w 10 8 = 0 ∧ k.toNat / 2 ^ field w 10 8 ≤ 256

end Sys2Proof.Claims

/-- R289, R305, R318, R319: MMA and MMAS on granted resources, with K a multiple of 8 from 8 to 2,048 (and a sampling word that fits), queue
their operation with the values of the registers and reserve its tiles; another K or sampling word raises SHAPE; MQPRI sets the
priority of the actor's own queued operations on the accumulator and writes their number; MQDRAIN 0 removes those that have not run, when none
is on the array, and writes their number. -/
def Obligations.MatrixCommands : Prop :=
  ∀ (s : Sys2Proof.Machine.State) (pri : Fin 4) (sp q : Bool) (pair : Fin 10) (k d : Sys2Proof.Reg) (ringB ringA : Fin 8) (acc : Fin 16)
    (b : Sys2Proof.OpB) (p : Nat),
    let x := Sys2Proof.Machine.getCtx s s.cur
    let reg := fun j => Sys2Proof.Claims.xAt x (Fin.ofNat 32 (k.val + j))
    let low := fun (v : Sys2Proof.Word) => BitVec.ofNat 64 (Sys2Proof.Claims.field v 31 0)
    let mine := fun (o : Sys2Proof.Machine.EmeOp) => decide (o.owner = s.cur) &&
      decide (o.actid = BitVec.ofNat 32 (x.ident.root.toNat % 2 ^ 32)) && decide (o.kind ≠ .rpop) && o.acc == p
    Sys2Proof.Claims.Quiet s → Sys2Proof.Claims.OwnsAcc s acc p →
    (Sys2Proof.Claims.OwnsRing s ringA → Sys2Proof.Claims.OwnsRing s ringB →
      (Sys2Proof.Claims.depthOk (reg 0) → Sys2Proof.Claims.QueueRoom s → ∃ u o,
        Sys2Proof.Machine.exec (.mma pri sp pair k ringB ringA acc) s = .next u ∧
        Sys2Proof.Claims.Issued s u o (reg 0) ringB ringA ∧ Sys2Proof.Claims.IsCommand s o .mma pri pair (reg 0) ringB ringA p) ∧
      (Sys2Proof.Claims.depthOk (reg 0) → Sys2Proof.Claims.samplingOk (reg 0) (reg 1) → Sys2Proof.Claims.QueueRoom s → ∃ u o,
        Sys2Proof.Machine.exec (.mmas pri q sp pair k ringB ringA acc) s = .next u ∧
        Sys2Proof.Claims.Issued s u o (reg 0) ringB ringA ∧ Sys2Proof.Claims.IsCommand s o .mmas pri pair (reg 0) ringB ringA p ∧
        o.samp = reg 1 ∧ o.seed = reg 2 ∧ o.tcoord = reg 3 ∧ Sys2Proof.Machine.opX o = q) ∧
      (¬ Sys2Proof.Claims.depthOk (reg 0) → Sys2Proof.Claims.traps s (.mma pri sp pair k ringB ringA acc) 7 (low (reg 0)) ∧
        Sys2Proof.Claims.traps s (.mmas pri q sp pair k ringB ringA acc) 7 (low (reg 0))) ∧
      (Sys2Proof.Claims.depthOk (reg 0) → ¬ Sys2Proof.Claims.samplingOk (reg 0) (reg 1) →
        Sys2Proof.Claims.traps s (.mmas pri q sp pair k ringB ringA acc) 7 (low (reg 1)))) ∧
    Sys2Proof.Machine.exec (.mqpri d acc b) s = .next (Sys2Proof.Claims.advance (Sys2Proof.Claims.withX
      (Sys2Proof.Claims.withEngines s fun c =>
        { c with eme := c.eme.map fun o => if mine o then { o with prio := Sys2Proof.Claims.field (Sys2Proof.Claims.intB x b) 1 0 } else o })
      d
      (BitVec.ofNat 64 ((Sys2Proof.Claims.engines s).eme.countP mine))) (Sys2Proof.Instr.mqpri d acc b).bytes) ∧
    ((Sys2Proof.Claims.engines s).running = none → (Sys2Proof.Claims.engines s).transfers = [] →
      ((Sys2Proof.Claims.engines s).eme.map (·.id)).Nodup →
      let gone := fun (o : Sys2Proof.Machine.EmeOp) => mine o && !o.ran && !o.stop
      ∃ u, Sys2Proof.Machine.exec (.mqdrain d acc 0) s = .next u ∧ u.mem = s.mem ∧ (Sys2Proof.Machine.getCtx u s.cur).pc = x.pc + 4 ∧
        (Sys2Proof.Claims.engines u).eme = (Sys2Proof.Claims.engines s).eme.filter (fun o => !gone o) ∧
        (d ≠ 0 → (Sys2Proof.Machine.getCtx u s.cur).regs.x[d] =
          BitVec.ofNat 64 ((Sys2Proof.Claims.engines s).eme.countP gone)))

namespace Sys2Proof.Claims
open Sys2Proof.Machine

/-- The shadows as a contiguous or strided copy (KIND 0) of the cluster store: each dimension 1 to 65,536, addresses and steps multiples
of the element, and the first and last byte of source and destination, with all between, in one grant (R322 to R326). -/
def shadowAt (x : Ctx) (n : Fin 22) : Word := x.shadows[n]
def stepsFrom (x : Ctx) (n : Nat) : List Int := ((x.shadows.toList.drop n).take 4).map BitVec.toInt
def sizesOf (x : Ctx) : List Nat := ((x.shadows.toList.drop 2).take 4).map BitVec.toNat
def elementOf (x : Ctx) : Nat := 2 ^ field (shadowAt x 14) 6 5

/-- The span of a walk: its lowest offset from the base, and the bytes from there to its end. -/
def lowest (dims : List Nat) (steps : List Int) : Int := ((dims.zip steps).map fun p => min 0 ((p.1 - 1 : Int) * p.2)).sum
def highest (dims : List Nat) (steps : List Int) : Int := ((dims.zip steps).map fun p => max 0 ((p.1 - 1 : Int) * p.2)).sum
def SpanGranted (s : State) (base : Word) (steps : List Int) (x : Ctx) : Prop :=
  let lo := lowest (sizesOf x) steps
  let va := base + BitVec.ofInt 64 lo
  let n := (highest (sizesOf x) steps - lo).toNat + elementOf x
  isLocal va = true ∧ va.toNat + n ≤ 2 ^ 64 ∧ ∃ a k, localLoc s s.cur (va.toNat - localBase) n = some ⟨a, k, 0, 0, none⟩
def LocalCopy (s : State) (x : Ctx) : Prop :=
  field (shadowAt x 14) 2 0 = 0 ∧ (∀ n ∈ sizesOf x, 1 ≤ n ∧ n ≤ 65536) ∧
  (shadowAt x 0).toNat % elementOf x = 0 ∧ (shadowAt x 1).toNat % elementOf x = 0 ∧
  (∀ v ∈ (x.shadows.toList.drop 6).take 8, v.toNat % elementOf x = 0) ∧
  SpanGranted s (shadowAt x 0) (stepsFrom x 6) x ∧ SpanGranted s (shadowAt x 1) (stepsFrom x 10) x

/-- A cp.flags word without its reserved bits, 7 and 63:14 (Table 17.2, R7). -/
def copyFlags (v : Word) : Word := v &&& 0x3F7F

/-- A shadow written. -/
def withShadow (s : State) (n : Fin 22) (v : Word) : State :=
  modCtx s s.cur fun x => { x with shadows := x.shadows.set n.val v n.isLt }

end Sys2Proof.Claims

/-- R322, R325, R333, R334: CPSET writes a shadow, of cp.flags without its reserved bits (R7, R323); CPFOL of 0 clears shadows 17 to 21, of a command word stores it with its register, of
another word raises ILLEGAL_OP; CPGO of a copy between granted places of the cluster store, with the tag set and an engine that has
room, adds a transfer with the shadows, clears the tag, gives it the pending status, clears the follow-on and writes the
transfer's identifier; with the tag clear it raises TAG_BUSY. -/
def Obligations.CopyInstructions : Prop :=
  ∀ (s : Sys2Proof.Machine.State) (d : Sys2Proof.Reg) (b : Sys2Proof.OpB),
    let x := Sys2Proof.Machine.getCtx s s.cur
    let v := Sys2Proof.Claims.intB x b
    let len := (Sys2Proof.Instr.cpgo d b).bytes
    let tag := Sys2Proof.Claims.field v 5 0
    Sys2Proof.Claims.VectorStart s →
    (∀ sh : Fin 17, Sys2Proof.Machine.exec (.cpset sh b) s = .next (Sys2Proof.Claims.advance
      (Sys2Proof.Claims.withShadow s ⟨sh.val, by omega⟩ (if sh.val = 14 then Sys2Proof.Claims.copyFlags v else v)) len)) ∧
    (Sys2Proof.Claims.field v 31 0 = 0 → ∃ u, Sys2Proof.Machine.exec (.cpfol b) s = .next (Sys2Proof.Claims.advance u len) ∧
      ∃ sh, u = Sys2Proof.Machine.modCtx s s.cur (fun y => { y with shadows := sh }) ∧
        ∀ n : Fin 22, sh[n] = if 17 ≤ n.val then 0 else x.shadows[n]) ∧
    (∀ pri sp pair k ringB ringA acc,
      let i := Sys2Proof.Instr.mma pri sp pair k ringB ringA acc
      i.wf = true → Sys2Proof.encode i = [v.toNat % 65536, v.toNat / 65536 % 65536] →
      Sys2Proof.Machine.exec (.cpfol b) s = .next (Sys2Proof.Claims.advance (Sys2Proof.Claims.withShadow
        (Sys2Proof.Claims.withShadow s 17 (BitVec.ofNat 64 (Sys2Proof.Claims.field v 31 0))) 18 (Sys2Proof.Claims.xAt x k)) len)) ∧
    (Sys2Proof.Claims.field v 31 0 ≠ 0 →
      (∀ i n, Sys2Proof.decode [v.toNat % 65536, v.toNat / 65536 % 65536] = .ok (i, n) →
        (∀ pri sp pair k rb ra acc, i ≠ .mma pri sp pair k rb ra acc) ∧
        ∀ pri y sp pair k rb ra acc, i ≠ .mmas pri y sp pair k rb ra acc) →
      Sys2Proof.Claims.traps s (.cpfol b) 1 (BitVec.ofNat 64 (Sys2Proof.Claims.field v 31 0))) ∧
    (x.tag.tags.getLsbD tag = true → Sys2Proof.Claims.LocalCopy s x →
      (Sys2Proof.Claims.engines s).transfers.length + (Sys2Proof.Claims.engines s).strips.length < 32 →
      ∃ u t, Sys2Proof.Machine.exec (.cpgo d b) s = .next u ∧
        (Sys2Proof.Claims.engines u).transfers = (Sys2Proof.Claims.engines s).transfers ++ [t] ∧ u.mem = s.mem ∧
        t.tag = tag ∧ t.snap = x.shadows ∧ t.ctx = s.cur ∧ t.cursor = 0 ∧ t.suspended = false ∧
        let y := Sys2Proof.Machine.getCtx u s.cur
        y.pc = x.pc + BitVec.ofNat 64 len ∧ y.tag.tags.getLsbD tag = false ∧
        (∀ n : Fin 64, n.val ≠ tag → y.tag.tags.getLsbD n.val = x.tag.tags.getLsbD n.val ∧ y.tag.status[n] = x.tag.status[n]) ∧
        (∀ n : Fin 64, n.val = tag → y.tag.status[n] = BitVec.ofNat 64 (2 ^ 63)) ∧
        (∀ n : Fin 22, y.shadows[n] = if n = 17 then 0 else x.shadows[n]) ∧
        ∀ r : Sys2Proof.Reg, r ≠ 0 → y.regs.x[r] = if r = d then t.tid else x.regs.x[r]) ∧
    (x.tag.tags.getLsbD tag = false → x.sec.rerun = false →
      Sys2Proof.Claims.traps s (.cpgo d b) 16 (BitVec.ofNat 64 tag))

/-- R335 to R338: WTAG.ALL completes when every tag of its mask is set, WTAG.ANY when one is or the mask is 0; each discards the cell's COPY
entries and writes the set tags of the mask; FFR writes the lowest of them, or all ones; TAGST writes a tag's status word and, if
its transfer has completed, acquires; CPCAN of the context's own transfer cancels it with code 0xFF and writes 1, of any
other identifier writes 0. -/
def Obligations.TagInstructions : Prop :=
  ∀ (s : Sys2Proof.Machine.State) (d a : Sys2Proof.Reg) (b : Sys2Proof.OpB),
    let x := Sys2Proof.Machine.getCtx s s.cur
    let m := Sys2Proof.Claims.intB x b
    let got := x.tag.tags &&& m
    let len := (Sys2Proof.Instr.ffr d b).bytes
    let acquired := fun (v : Sys2Proof.Word) =>
      Sys2Proof.Claims.advance (Sys2Proof.Claims.withX (Sys2Proof.Claims.copiesDropped s) d v) len
    let id := Sys2Proof.Claims.xAt x a
    Sys2Proof.Claims.Quiet s →
    (got = m → Sys2Proof.Machine.exec (.wtagAll d b) s = .next (acquired got)) ∧
    (m = 0 ∨ got ≠ 0 → Sys2Proof.Machine.exec (.wtagAny d b) s = .next (acquired got)) ∧
    (∀ n, n < 64 → got.getLsbD n = true → (∀ j, j < n → got.getLsbD j = false) →
      Sys2Proof.Claims.writesX s (.ffr d b) d (BitVec.ofNat 64 n)) ∧
    (got = 0 → Sys2Proof.Claims.writesX s (.ffr d b) d (BitVec.allOnes 64)) ∧
    (∀ n : Fin 64, n.val = Sys2Proof.Claims.field m 5 0 → Sys2Proof.Machine.exec (.tagst d b) s =
      .next (if x.tag.status[n].getLsbD 63 then Sys2Proof.Claims.advance (Sys2Proof.Claims.withX s d x.tag.status[n]) len
        else acquired x.tag.status[n])) ∧
    ((∀ t ∈ (Sys2Proof.Claims.engines s).transfers, t.tid = id → t.ctx ≠ s.cur ∨ t.cancelled = true) →
      Sys2Proof.Claims.writesX s (.cpcan d a) d 0) ∧
    (∀ pre t post, (Sys2Proof.Claims.engines s).transfers = pre ++ t :: post →
      (∀ u ∈ pre ++ post, u.tid ≠ id) → t.tid = id → t.ctx = s.cur → t.ident = x.ident → t.cancelled = false →
      Sys2Proof.Claims.field (t.snap[(14 : Fin 22)]) 2 0 ≠ 2 →
      ∃ u, Sys2Proof.Machine.exec (.cpcan d a) s = .next (Sys2Proof.Claims.advance (Sys2Proof.Claims.withX
          (Sys2Proof.Claims.withEngines s fun k => { k with transfers := pre ++ u :: post }) d 1) 4) ∧
        u.cancelled = true ∧ u.code = 0xFF ∧ u.tag = t.tag ∧ u.bytes = t.bytes)

namespace Sys2Proof.Claims
open Sys2Proof.Machine

/-! ## Grids -/

/-- The current context is an actor that owns part `p` of the grid that slot `g` is bound to (R349, R358). -/
def OwnsPart (s : State) (g : Fin 4) (d : BitVec 1024) (p : Nat) : Prop :=
  s.cur.slot < 16 ∧ (getCtx s s.cur).grid[g].desc = some d ∧ (getCtx s s.cur).grid[g].part = some p

/-- Fields of a descriptor (Table 19.1): dimensions, parts, type. -/
def dimOf (d : BitVec 1024) (j : Nat) : Nat := d.toNat / 2 ^ (64 + 32 * j) % 2 ^ 32
def partsOf (d : BitVec 1024) (j : Nat) : Nat := d.toNat / 2 ^ (192 + 16 * j) % 2 ^ 16
def typeOf (d : BitVec 1024) : Nat := d.toNat / 2 ^ 8 % 2 ^ 8
def localOffset (d : BitVec 1024) : Nat := d.toNat / 2 ^ 960 % 2 ^ 32
def strideOfSteps (d : BitVec 1024) : Nat := d.toNat / 2 ^ 24 % 2 ^ 8
def firstStep (d : BitVec 1024) : Nat := d.toNat / 2 ^ 896 % 2 ^ 64

/-- Size of part p along j: BLOCK partition of R229, the part's coordinates counting dimension 0 fastest (R349). -/
def extentOf (d : BitVec 1024) (p j : Nat) : Nat :=
  let before := ((List.range j).map (partsOf d)).prod
  let c := p / before % partsOf d j
  dimOf d j / partsOf d j + if c < dimOf d j % partsOf d j then 1 else 0

/-- Local coordinate j of a key, which holds it plus 16,384 (R352). -/
def coordinate (k : Word) (j : Nat) : Int := (field k (15 * j + 14) (15 * j) : Int) - 16384

/-- A key of an interior cell: slot bits, no reserved bit, coordinates inside the part, 0 past the rank. -/
def InteriorKey (d : BitVec 1024) (p : Nat) (g : Fin 4) (k : Word) (i : Nat → Nat) : Prop :=
  field k 63 60 = g.val ∧ (∀ j, j < 4 → coordinate k j = (i j : Int) ∧ i j < extentOf d p j) ∧
  ∀ j, j < 4 → d.toNat % 2 ^ 8 ≤ j → i j = 0

/-- Bytes of an element of FP32, FP64, INT32 or INT64, and the address of an interior cell, dimension 0 fastest (R351). -/
def cellSize (d : BitVec 1024) : Nat := if typeOf d = 1 ∨ typeOf d = 9 then 8 else 4
def cellAt (s : State) (d : BitVec 1024) (p : Nat) (i : Nat → Nat) : Nat :=
  let n := extentOf d p
  ownModule s * 2 ^ 60 + 2 ^ 56 + s.cur.cell / 4 * 2 ^ 21 + (getCtx s s.cur).grants.scratchOff + localOffset d +
    cellSize d * (i 0 + n 0 * (i 1 + n 1 * (i 2 + n 2 * i 3)))

/-- A slot of the current context. -/
def withSlot (s : State) (g : Fin 4) (q : GridSlot) : State :=
  modCtx s s.cur fun x => { x with grid := x.grid.set g.val q g.isLt }

/-- Deferred effects need a revocable section with room (R106, R108). -/
def Defers (s : State) : Prop :=
  (getCtx s s.cur).sec.irrevocable = false ∧ (getCtx s s.cur).sec.buffer.length < 64 ∧ cellEffects s s.cur.cell < 256

/-- The state with one effect more in the buffer. -/
def deferred (s : State) (e : Effect) : State := withSection s fun k => { k with buffer := k.buffer ++ [e] }

end Sys2Proof.Claims

/-- R350, R358 to R360: GDECL of x0 unbinds a slot; of the address of 128 granted bytes that pass the checks it binds an unbound slot to
that descriptor and to the part that the actor owns, with no generation held; GLD.W and GLD.F of an interior cell of a 4- or 8-byte
type read the cell, whatever the step; GST writes it and no other byte; a GST outside the part raises BOUNDS; GLD and GST of a slot without a part raise PROT. -/
def Obligations.GridCells : Prop :=
  ∀ (s : Sys2Proof.Machine.State) (g : Fin 4) (r a : Sys2Proof.Reg) (b : Sys2Proof.OpB) (d : BitVec 1024) (p : Nat),
    let x := Sys2Proof.Machine.getCtx s s.cur
    let key := Sys2Proof.Claims.xAt x a
    let len := (Sys2Proof.Instr.gldW r a b).bytes
    Sys2Proof.Claims.VectorStart s → s.cur.slot < 16 →
    ((∀ h ∈ (Sys2Proof.Claims.engines s).strips, h.owner ≠ s.cur ∨ h.strip.slotNo ≠ g) →
      ∃ q, Sys2Proof.Machine.exec (.gdecl g 0) s = .next (Sys2Proof.Claims.advance (Sys2Proof.Claims.withSlot s g q) 4) ∧
        q.desc = none ∧ q.part = none) ∧
    (∀ at_ k l, a ≠ 0 → Sys2Proof.Claims.InOneStep s →
      (∀ j, j < 16 → Sys2Proof.Claims.Granted s (key + BitVec.ofNat 64 (8 * j)) 8 (at_ + 8 * j) k ∧
        Sys2Proof.Claims.AtHome s (at_ + 8 * j) k) →
      d.toNat = Sys2Proof.Machine.readLE s.mem at_ 128 → Sys2Proof.Machine.gTypeOk d = true → x.grid[g].desc = none →
      Sys2Proof.Machine.launchAt s x.ident.lslot.toNat = some l →
      Sys2Proof.Machine.descBad d (Sys2Proof.Machine.gangMembers (some l)) = false →
      let part := Sys2Proof.Machine.ownedPart l d (x.ident.root.toNat % 2 ^ 24)
      (∀ q, part = some q → Sys2Proof.Machine.gLocalOff d + Sys2Proof.Machine.partBytes d q ≤ x.grants.scratchSize) →
      ∃ q, Sys2Proof.Machine.exec (.gdecl g a) s = .next (Sys2Proof.Claims.advance (Sys2Proof.Claims.withSlot s g q) 4) ∧
        q.desc = some d ∧ q.part = part ∧ q.last = none ∧ q.par0.gen = none ∧ q.par1.gen = none) ∧
    (∀ i, Sys2Proof.Claims.OwnsPart s g d p → Sys2Proof.Claims.InteriorKey d p g key i →
      Sys2Proof.Claims.typeOf d ∈ [0, 1, 7, 9] →
      (∀ j, j < 4 → 0 < Sys2Proof.Claims.partsOf d j) →
      let v := Sys2Proof.Machine.readLE s.mem (Sys2Proof.Claims.cellAt s d p i) (Sys2Proof.Claims.cellSize d)
      let u := Sys2Proof.Claims.advance (if Sys2Proof.Claims.typeOf d ≤ 1 then Sys2Proof.Claims.withF s r (BitVec.ofNat 64 v)
        else Sys2Proof.Claims.withX s r (if Sys2Proof.Claims.typeOf d = 7 then (BitVec.ofNat 32 v).signExtend 64
          else BitVec.ofNat 64 v)) len
      ((∀ j, j < Sys2Proof.Claims.cellSize d → Sys2Proof.Claims.AtHome s (Sys2Proof.Claims.cellAt s d p i + j) .scratch) →
        Sys2Proof.Machine.exec (.gldW r a b) s = .next u ∧ Sys2Proof.Machine.exec (.gldF r a b) s = .next u) ∧
      ∃ m, Sys2Proof.Machine.exec (.gst r a) s = .next (Sys2Proof.Claims.advance { s with mem := m } 4) ∧
        Sys2Proof.Claims.StoredInOrder s.mem m 1 (Sys2Proof.Claims.cellSize d) (fun _ => Sys2Proof.Claims.cellAt s d p i)
          fun _ => (if Sys2Proof.Claims.typeOf d ≤ 1 then x.regs.f[r] else Sys2Proof.Claims.xAt x r).toNat) ∧
    (Sys2Proof.Claims.OwnsPart s g d p → Sys2Proof.Claims.field key 63 60 = g.val →
      (∀ j, j < 4 → 0 < Sys2Proof.Claims.partsOf d j) →
      (∃ j, j < 4 ∧ (Sys2Proof.Claims.coordinate key j < 0 ∨ (Sys2Proof.Claims.extentOf d p j : Int) ≤
        Sys2Proof.Claims.coordinate key j)) →
      ∃ va, Sys2Proof.Machine.exec (.gst r a) s = .next (Sys2Proof.Machine.takeTrap s s.cur
        { code := 6, vaddr := va, cursor := key, lane := g.val })) ∧
    (Sys2Proof.Claims.field key 61 60 = g.val → x.grid[g].part = none →
      ∀ i ∈ ([.gldW r a b, .gldF r a b, .gst r a] : List Sys2Proof.Instr),
        Sys2Proof.Machine.exec i s = .next (Sys2Proof.Machine.takeTrap s s.cur { code := 5, cursor := key, lane := g.val }))

namespace Sys2Proof.Claims
open Sys2Proof.Machine

/-- The lanes of 64 bits that name an element, in order (R365). -/
def activeLanes (v : BitVec 2048) : List Nat := (List.range 32).filter fun k => lane64 v k != BitVec.allOnes 64

end Sys2Proof.Claims

/-- R361, R363, R365, R409: in a revocable section with room, HSTEP of the step due (STEPBASE, then each THETA more) defers that step's
release and becomes the slot's last step, and another step raises SHAPE; HWAIT of a generation that has arrived and is not released
acquires, of one whose parity holds it with REL set, or already holds a later one, raises HALO_GONE; GGATHER zeroes wd and has one request outstanding for each index; GSCAT defers its
lanes, each with index and value; NRED and NRED.nd defer the contribution of an unbound register. -/
def Obligations.GridStepsLanesAndReductions : Prop :=
  ∀ (s : Sys2Proof.Machine.State) (g : Fin 4) (b : Sys2Proof.OpB) (r a : Sys2Proof.Reg) (d : BitVec 1024) (p : Nat),
    let x := Sys2Proof.Machine.getCtx s s.cur
    let n := Sys2Proof.Claims.intB x b
    let low := BitVec.ofNat 64 (Sys2Proof.Claims.field n 31 0)
    let len := (Sys2Proof.Instr.hstep g b).bytes
    let slot := x.grid[g]
    Sys2Proof.Claims.VectorStart s → s.cur.slot < 16 →
    (Sys2Proof.Claims.OwnsPart s g d p →
      let due := match slot.last with
        | some m => m + BitVec.ofNat 64 (Sys2Proof.Claims.strideOfSteps d)
        | none => BitVec.ofNat 64 (Sys2Proof.Claims.firstStep d)
      (n = due → Sys2Proof.Claims.Defers s → ∃ j, Sys2Proof.Machine.exec (.hstep g b) s = .next (Sys2Proof.Claims.advance
        (Sys2Proof.Claims.withSection (Sys2Proof.Claims.withSlot s g { slot with last := some n }) fun k =>
          { k with buffer := k.buffer ++ [.hstep g n], lastJournal := j :: k.lastJournal }) len) ∧ j = (g, slot.last)) ∧
      (n ≠ due → Sys2Proof.Machine.exec (.hstep g b) s =
        .next (Sys2Proof.Machine.takeTrap s s.cur { code := 7, cursor := low, lane := g.val })) ∧
      (0 < Sys2Proof.Claims.strideOfSteps d → Sys2Proof.Claims.firstStep d ≤ n.toNat →
        (n.toNat - Sys2Proof.Claims.firstStep d) % Sys2Proof.Claims.strideOfSteps d = 0 →
        let held := if (n.toNat - Sys2Proof.Claims.firstStep d) / Sys2Proof.Claims.strideOfSteps d % 2 = 0 then slot.par0 else slot.par1
        ((∀ q, held.gen = some q → q.toNat < n.toNat ∨ (q.toNat = n.toNat ∧ held.rel = false)) →
          Sys2Proof.Machine.genArrived slot d p n.toNat = true →
          Sys2Proof.Machine.exec (.hwait g b) s =
            .next (Sys2Proof.Claims.advance (Sys2Proof.Claims.copiesDropped s) len)) ∧
        ((∃ q, held.gen = some q ∧ (n.toNat < q.toNat ∨ (q.toNat = n.toNat ∧ held.rel = true))) → Sys2Proof.Machine.exec (.hwait g b) s =
          .next (Sys2Proof.Machine.takeTrap s s.cur { code := 19, cursor := low, lane := g.val })))) ∧
    (∀ l, slot.desc = some d → Sys2Proof.Machine.launchAt s x.ident.lslot.toNat = some l →
      Sys2Proof.Claims.InRow s a →
      let idx := x.regs.w[a].data
      let total := Sys2Proof.Claims.dimOf d 0 * Sys2Proof.Claims.dimOf d 1 * Sys2Proof.Claims.dimOf d 2 * Sys2Proof.Claims.dimOf d 3
      (∀ k ∈ Sys2Proof.Claims.activeLanes idx, (Sys2Proof.Claims.lane64 idx k).toNat < total) →
      (Sys2Proof.Claims.FreshRow s r → ∃ u, Sys2Proof.Machine.exec (.ggather r a g) s = .next u ∧ u.mem = s.mem ∧
        let y := Sys2Proof.Machine.getCtx u s.cur
        y.pc = x.pc + 4 ∧ y.regs.x = x.regs.x ∧ y.regs.w[r] = { bound := none, data := 0, spilled := false } ∧
        y.loads.length = (Sys2Proof.Claims.activeLanes idx).length) ∧
      (∀ op, Sys2Proof.Claims.InRow s r → Sys2Proof.Claims.Defers s → Sys2Proof.Claims.typeOf d ∈ [1, 9] → ∃ rows,
        Sys2Proof.Machine.exec (.gscat op a r g) s = .next (Sys2Proof.Claims.advance (Sys2Proof.Claims.deferred
          (Sys2Proof.Machine.modCell s s.cur.cell fun k => { k with rows := rows }) (.gscat g op.val
            ((Sys2Proof.Claims.activeLanes idx).map fun k =>
              (k, (Sys2Proof.Claims.lane64 idx k).toNat, Sys2Proof.Claims.lane64 x.regs.w[r].data k)))) 4))) ∧
    (∀ op typ, Sys2Proof.Claims.InRow s a → Sys2Proof.Claims.Defers s →
      Sys2Proof.Claims.field n 63 28 = 0 → Sys2Proof.Claims.field n 23 21 = 0 → Sys2Proof.Claims.field n 2 0 = 0 →
      (∀ j, j < 32 → (Sys2Proof.Machine.localLoc s s.cur (Sys2Proof.Claims.field n 20 0 + 8 * j) 8).isSome = true) →
      ∃ rows, ∀ nd : Bool, ∃ c, Sys2Proof.Machine.exec (if nd then .nredNd op typ a b else .nred op typ a b) s =
        .next (Sys2Proof.Claims.advance (Sys2Proof.Claims.deferred
          (Sys2Proof.Machine.modCell s s.cur.cell fun k => { k with rows := rows }) (.nred c)) len) ∧
        c.data = x.regs.w[a].data ∧ c.op = op ∧ c.typ = typ ∧ c.nd = nd ∧ c.n.val = Sys2Proof.Claims.field n 27 24 ∧
        c.dstOff = Sys2Proof.Claims.field n 20 0 ∧ c.lslot = x.ident.lslot.toNat)

namespace Sys2Proof.Claims
open Sys2Proof.Machine

/-! ## Moves of the ordering machine -/

/-- The move is made and leaves `u`. -/
def leads (s : State) (i : Instr) (p : State → Prop) : Prop := ∃ u, exec i s = .next u ∧ p u

/-- Memory after a masked store to an aligned word: the masked bits are new, every other byte stays (R48). -/
def Merged (m m' : Memory) (w : WordStore) : Prop :=
  readWord m' w.addr = (readWord m w.addr &&& ~~~w.mask) ||| (w.data &&& w.mask) ∧
  ∀ b, b < w.addr ∨ w.addr + 8 ≤ b → readByte m' b = readByte m b

/-- The word that `a` names in the tiers of a module's memory (R72). -/
def isTier (a : Nat) : Prop := a % 8 = 0 ∧ keySpace a = 0

/-- The value that the sum, say, of an atomic leaves: Table 6.10 as a number of its size. -/
def atomicResult (a : AtomicOp) (old : Nat) : Option Nat :=
  combine a.op a.size old (a.b.toNat % 2 ^ (8 * a.size)) (a.cmp.toNat % 2 ^ (8 * a.size))

end Sys2Proof.Claims

/-- R52, R53, R46, R60: the oldest entry of a registration queue, to a word homed on the cell's own die, leaves the queue, its masked bits
are in memory, and the cell that stored it owns the word; to a word homed elsewhere it leaves for the home as the last entry of the
gateway queue. The head of a gateway queue that is a store is in memory at the home, a request gives a reply with the home's word,
a fill and an update are the gateway copy of their die; what a peer says its word holds counts as the word before a store delivered there,
and a peer's own store to a word homed here is in memory. An atomic that waited executes at its home when no older store stands before
it. A home slice of this module that the access looks up has a miss entry to give (R84). -/
def Obligations.StoresReachTheirHomes : Prop :=
  ∀ (s : Sys2Proof.Machine.State),
    (∀ cell e q, (Sys2Proof.Machine.getCell s cell).regq = e :: q → Sys2Proof.Claims.isTier e.store.addr →
      let w := e.store
      (Sys2Proof.Machine.homedHere s (cell / 512) w.addr = true → Sys2Proof.Machine.sliceBusy s w.addr = false →
        Sys2Proof.Claims.leads s (.registrationMove cell 0) fun u =>
        (Sys2Proof.Machine.getCell u cell).regq = q ∧ Sys2Proof.Claims.Merged s.mem u.mem w ∧ u.ctxs = s.ctxs ∧
        (∀ c, e.origin = .ctx c → Sys2Proof.Machine.tfind u.owners w.addr = some cell ∧
          Sys2Proof.Machine.tfind (Sys2Proof.Machine.getCell u cell).view w.addr =
            some { owned := true, value := Sys2Proof.Machine.readWord u.mem w.addr })) ∧
      (Sys2Proof.Machine.homedHere s (cell / 512) w.addr = false → Sys2Proof.Claims.leads s (.registrationMove cell 0) fun u =>
        let g := Sys2Proof.Machine.queueToHome s (cell / 512) w.addr
        (Sys2Proof.Machine.getCell u cell).regq = q ∧ u.mem = s.mem ∧ u.ctxs = s.ctxs ∧
        Sys2Proof.Machine.gwEntries u g = Sys2Proof.Machine.gwEntries s g ++ [.store e.origin w])) ∧
    (∀ g r o w, Sys2Proof.Machine.gwEntries s g = .store o w :: r → Sys2Proof.Claims.isTier w.addr →
      (Sys2Proof.Machine.toPeer s g = false → Sys2Proof.Machine.sliceBusy s w.addr = false) →
      Sys2Proof.Claims.leads s (.gatewayQueueDelivery g none) (fun u => Sys2Proof.Claims.Merged s.mem u.mem w ∧ u.ctxs = s.ctxs) ∧
      (Sys2Proof.Machine.toPeer s g = true → ∀ v, Sys2Proof.Claims.leads s (.gatewayQueueDelivery g (some (.word v))) fun u =>
        Sys2Proof.Machine.readWord u.mem w.addr = (v &&& ~~~w.mask) ||| (w.data &&& w.mask) ∧ u.ctxs = s.ctxs)) ∧
    (∀ p a mask data, p ≠ Sys2Proof.Machine.ownModule s →
      Sys2Proof.Machine.gwEntries s (.module p (Sys2Proof.Machine.ownModule s)) = [] → Sys2Proof.Machine.ownWord s a = true →
      Sys2Proof.Claims.leads s (.gatewayQueueDelivery (.module p (Sys2Proof.Machine.ownModule s)) (some (.store a mask data))) fun u =>
        Sys2Proof.Claims.Merged s.mem u.mem { addr := a, mask := mask, data := data } ∧ u.ctxs = s.ctxs) ∧
    (∀ g r cell a who cls na view, Sys2Proof.Machine.gwEntries s g = .fillReq cell a who cls na view :: r →
      (Sys2Proof.Machine.toPeer s g = false → Sys2Proof.Machine.sliceBusy s a = false) →
      Sys2Proof.Claims.leads s (.gatewayQueueDelivery g none) fun u =>
        u.mem = s.mem ∧ (∀ d e, g = .die d e → d ≠ e →
          Sys2Proof.Machine.gwEntries u (.die e d) =
            Sys2Proof.Machine.gwEntries s (.die e d) ++ [.fill cell a (Sys2Proof.Machine.readWord s.mem a) who view])) ∧
    (∀ d e r o n a v, Sys2Proof.Machine.gwEntries s (.die d e) = .update o n a v :: r →
      Sys2Proof.Claims.leads s (.gatewayQueueDelivery (.die d e) none) fun u =>
        u.mem = s.mem ∧ Sys2Proof.Machine.tfind (Sys2Proof.Machine.getDie u e).copies a = some v) ∧
    (∀ (c : Sys2Proof.CtxId) p a post, (Sys2Proof.Machine.getCtx s c).loads = p :: post → p.atomic = some a →
      (∀ q ∈ post, q.id ≠ p.id) → Sys2Proof.Machine.leftAtomic s c = none → Sys2Proof.Machine.olderStore s c a.byteAddr = false →
      Sys2Proof.Machine.keySpace a.byteAddr = 1 → a.size = 4 ∨ a.size = 8 → a.byteAddr % a.size = 0 →
      (∃ r n, p.dest = .x r n (n == 4) ∧ n = a.size) →
      let old := Sys2Proof.Machine.readLE s.mem a.byteAddr a.size
      Sys2Proof.Claims.leads s (.atomicAtHome c) fun u =>
        (∀ new, Sys2Proof.Claims.atomicResult a old = some new →
          Sys2Proof.Machine.readLE u.mem a.byteAddr a.size = new % 2 ^ (8 * a.size)) ∧
        (∀ b, b < a.byteAddr ∨ a.byteAddr + a.size ≤ b →
          Sys2Proof.Machine.readByte u.mem b = Sys2Proof.Machine.readByte s.mem b) ∧
        ∃ q, (Sys2Proof.Machine.getCtx u c).loads = q :: post ∧ q.atomic = none ∧
          q.value = some ((BitVec.ofNat (8 * a.size) old).signExtend 64))

/-- R122, R50, R56, R109, R180: a value that has been taken returns to its x register, and its load is no longer outstanding; the
oldest effect of an irrevocable section, a store, enters the registration queue; a commit that waited completes once nothing is left
to wait for: an HCOMMIT's context goes on after it in its next section. Nothing else of the context changes. -/
def Obligations.ValuesReturnAndEffectsLeave : Prop :=
  ∀ (s : Sys2Proof.Machine.State) (c : Sys2Proof.CtxId),
    let x := Sys2Proof.Machine.getCtx s c
    (∀ pre p post r n b v, x.loads = pre ++ p :: post → p.value = some v → p.dest = .x r n b → n ≠ 0 → r ≠ 0 → p.acq = false →
      Sys2Proof.Machine.exec (.loadValueReturn c pre.length) s = .next (Sys2Proof.Machine.modCtx s c fun y =>
        { y with loads := pre ++ post, regs := { y.regs with x := y.regs.x.set r.val v r.isLt } })) ∧
    (∀ ws r, x.state = .running → x.dbg.halted = false → x.sec.irrevocable = true → x.sec.buffer = .stores false ws :: r →
      Sys2Proof.Claims.leads s (.releasePerformed c) fun u =>
        (Sys2Proof.Machine.getCell u c.cell).regq = (Sys2Proof.Machine.getCell s c.cell).regq ++
          ws.map (fun w => { origin := .ctx c, store := w }) ∧
        (Sys2Proof.Machine.getCtx u c) = { x with sec := { x.sec with buffer := r } } ∧ u.mem = s.mem) ∧
    (Sys2Proof.Machine.canIssue x = true → x.sec.commit = some .hcommit → x.sec.buffer = [] → c.slot < 16 →
      Sys2Proof.Machine.unpropagated s c.cell (.ctx c) = false → x.dbg.step = false → x.dbg.haltReq = false →
      Sys2Proof.Claims.leads s (.sectionCommitComplete c) fun u =>
        let y := Sys2Proof.Machine.getCtx u c
        y.pc = x.pc + 4 ∧ y.regs = x.regs ∧ y.sec.commit = none ∧ y.sec.committed = x.sec.committed + 1 ∧
        y.sec.irrevocable = false ∧ y.sec.heldExpiry = x.sec.heldExpiry ∧ y.wdog = x.wdogBudget ∧
        y.counters.commits = x.counters.commits + 1)

namespace Sys2Proof.Claims
open Sys2Proof.Machine

/-- A TLB entry that an invalidation names (R97): all, an ASID's, or one page's. -/
def invalidated (mode asid vpn : Nat) (e : TlbEntry) : Prop :=
  mode = 0 ∨ (e.asid.toNat = asid ∧ (mode = 1 ∨ if e.block then e.vpn / 2 ^ 13 = vpn / 2 ^ 13 else e.vpn = vpn))

/-- Some section's deferred store came through an entry that an invalidation names (R154). -/
def DeferredThrough (s : State) (mode asid vpn : Nat) : Prop :=
  ∃ p ∈ s.ctxs, ∃ rel ws, Effect.stores rel ws ∈ p.2.sec.buffer ∧ ∃ w ∈ ws, ∃ l, w.leaf = some l ∧
    invalidated mode asid vpn { asid := p.2.ident.asid, vpn := l.1, block := l.2, pte := 0 }

/-- The target mode of bank b after CSMODE is written: 3 leaves it (Table 4.2). -/
def targetAfter (old value : BitVec 32) (b : Nat) : BitVec 2 :=
  if value.extractLsb' (2 * b) 2 = 3 then old.extractLsb' (2 * b) 2 else value.extractLsb' (2 * b) 2

/-- The service core that owns an ASID, by the steering table's byte in populated memory (R413). -/
def Steered (s : State) (asid : Nat) (core : Fin 4) : Prop :=
  let pa := s.hub.fsteer.toNat / 2 ^ 16 % 2 ^ 36 * 2 ^ 16 + asid
  populated s pa 1 = true ∧ (readByte s.mem (ownModule s * 2 ^ 60 + pa)).toNat % 4 = core.val

end Sys2Proof.Claims

/-- R92, R94 to R97, R154, R413: a walk for a running ASID that finds a leaf leaves it in the cluster's TLB, and in that of every cluster of
the die that has asked for the walk; TLBINV while not BUSY takes its mode,
ASID and page and is BUSY, and while BUSY is dropped; it ends only when no deferred store came through an entry it
names, and then no such entry is left anywhere and every other one is; TRESP by
the owner frees the token's entry, and with FATAL 0 its one access goes on, with FATAL 1 it traps, and its record carries the token. -/
def Obligations.TranslationMoves : Prop :=
  ∀ (s : Sys2Proof.Machine.State),
    (∀ cluster asid va kind pa e block t, Sys2Proof.Machine.clusterUses s cluster asid = true →
      Sys2Proof.Machine.isLocal va = false → Sys2Proof.Machine.isWindow va = false →
      Sys2Proof.Machine.walk s (BitVec.ofNat 16 asid) va kind = .ok pa e block t →
      let die := Sys2Proof.Machine.dieOfCluster cluster
      let js := Sys2Proof.Machine.joinedWalks s die (BitVec.ofNat 16 asid) va
      js = [] ∨ ((BitVec.ofNat 16 asid, Sys2Proof.Machine.vpnOf va) ∈ Sys2Proof.Machine.walkedPages s die ∧
        ∃ j ∈ js, ∃ w ∈ j.2.2.waiters, w.kind = kind) →
      Sys2Proof.Claims.leads s (.translationWalk cluster asid va kind) fun u => u.ctxs = t.ctxs ∧ u.mem = t.mem ∧
        ∀ cl ∈ (if js = [] then [cluster] else js.map (·.1)), ∃ q,
          (q ∈ (Sys2Proof.Machine.getCluster u cl).tlbPages ∨ q ∈ (Sys2Proof.Machine.getCluster u cl).tlbBlocks) ∧
          q.pte = e ∧ q.block = block ∧ q.asid = BitVec.ofNat 16 asid) ∧
    (∀ (mode : Fin 3) asid, asid < 2 ^ 16 → (mode = 0 → asid = 0) →
      let i := match mode with
        | 0 => Sys2Proof.Instr.tlbinvAll
        | 1 => .tlbinvAsid asid
        | 2 => .tlbinvPage asid
      (s.hub.tlbinvSt.getLsbD 0 = false → Sys2Proof.Claims.leads s i fun u =>
        u.hub.tlbinvSt.getLsbD 0 = true ∧ u.hub.tlbinv = some (mode.val, asid, s.hub.tlbinvVa.toNat / 2 ^ 16 % 2 ^ 39) ∧
        u.mem = s.mem ∧ u.ctxs = s.ctxs) ∧
      (s.hub.tlbinvSt.getLsbD 0 = true → Sys2Proof.Claims.leads s i fun u =>
        u.hub.tlbinvSt.getLsbD 1 = true ∧ u.hub.tlbinv = s.hub.tlbinv ∧ u.mem = s.mem ∧ u.clusters = s.clusters)) ∧
    (∀ mode asid vpn, mode < 3 → s.hub.tlbinv = some (mode, asid, vpn) → Sys2Proof.Claims.DeferredThrough s mode asid vpn →
      Sys2Proof.Machine.exec .tlbInvalidationDone s = .next s) ∧
    (∀ mode asid vpn, mode < 3 → s.hub.tlbinv = some (mode, asid, vpn) → ¬ Sys2Proof.Claims.DeferredThrough s mode asid vpn →
      Sys2Proof.Claims.leads s .tlbInvalidationDone fun u =>
        u.hub.tlbinvSt.getLsbD 0 = false ∧ u.hub.tlbinv = none ∧ u.mem = s.mem ∧ u.ctxs = s.ctxs ∧
        ∀ cl e, (e ∈ (Sys2Proof.Machine.getCluster u cl).tlbPages ↔ e ∈ (Sys2Proof.Machine.getCluster s cl).tlbPages ∧
            ¬ Sys2Proof.Claims.invalidated mode asid vpn e) ∧
          (e ∈ (Sys2Proof.Machine.getCluster u cl).tlbBlocks ↔ e ∈ (Sys2Proof.Machine.getCluster s cl).tlbBlocks ∧
            ¬ Sys2Proof.Claims.invalidated mode asid vpn e)) ∧
    (∀ (core die : Fin 4) (cl token : Nat) (m : Sys2Proof.Machine.Miss) (w : Sys2Proof.Machine.Waiter), cl < 128 → token < 64 →
      Sys2Proof.Machine.tfind (Sys2Proof.Machine.getCluster s (die.val * 128 + cl)).misses token = some m →
      m.walking = false →
      Sys2Proof.Claims.Steered s m.asid.toNat core → m.waiters = [w] →
      Sys2Proof.Claims.leads s (.trespRetry core die (cl * 64 + token)) (fun u =>
        Sys2Proof.Machine.tfind (Sys2Proof.Machine.getCluster u (die.val * 128 + cl)).misses token = none ∧
        Sys2Proof.Machine.getCtx u w.ctx = { Sys2Proof.Machine.getCtx s w.ctx with wait := .none } ∧ u.mem = s.mem) ∧
      Sys2Proof.Claims.leads s (.trespFatal core die (cl * 64 + token)) fun u =>
        ∃ t r, u = Sys2Proof.Machine.takeTrap t w.ctx r ∧ r.code = w.code.toNat ∧ r.pc = some w.pc ∧ r.lane = w.lane ∧
          r.cursor = BitVec.ofNat 64 (cl * 64 + token) ∧ r.vaddr.toNat % 2 ^ 55 = w.va.toNat % 2 ^ 55 ∧ t.mem = s.mem ∧ t.ctxs = s.ctxs)

/-- R75 to R78, R88, R223, R365: CSMODE sets the bank targets; a free bank whose target differs takes it, its undefined contents aside
only its own bytes; a CACHE bank that leaves its mode first gives up the lines that it holds, one by one; HBMCNTCTL.CLEAR clears the die's traffic counts; a w register in no row gets one and keeps its value;
a gather lane that was answered fills its lane of the register, whose row is in the cell. -/
def Obligations.BankRowAndLaneMoves : Prop :=
  ∀ (s : Sys2Proof.Machine.State),
    (∀ cl value, cl < 512 → ∃ v : BitVec 32, Sys2Proof.Machine.exec (.csmodeWrite cl value) s =
        .next (Sys2Proof.Machine.modCluster s cl fun k => { k with csmode := v }) ∧
      ∀ b, b < 16 → v.extractLsb' (2 * b) 2 =
        Sys2Proof.Claims.targetAfter (Sys2Proof.Machine.getCluster s cl).csmode value b) ∧
    (∀ cl (b : Fin 16), let k := Sys2Proof.Machine.getCluster s cl
      k.modes.extractLsb' (2 * b.val) 2 ≠ k.csmode.extractLsb' (2 * b.val) 2 → Sys2Proof.Machine.bankFree s cl b.val = true →
      Sys2Proof.Claims.leads s (.bankModeMove cl b) fun u =>
        let k' := Sys2Proof.Machine.getCluster u cl
        (∀ j, j < 16 → k'.modes.extractLsb' (2 * j) 2 = if j = b.val then k.csmode.extractLsb' (2 * j) 2 else
          k.modes.extractLsb' (2 * j) 2) ∧ k'.csmode = k.csmode ∧ u.ctxs = s.ctxs ∧
        let base := Sys2Proof.Machine.ownModule s * 2 ^ 60 + 2 ^ 56 + cl * 2 ^ 21 + b.val * 2 ^ 17
        ∀ a, a < base ∨ base + 2 ^ 17 ≤ a → Sys2Proof.Machine.readByte u.mem a = Sys2Proof.Machine.readByte s.mem a) ∧
    (∀ cl (b : Fin 16) set line, let k := Sys2Proof.Machine.getCluster s cl
      k.modes.extractLsb' (2 * b.val) 2 = 0 → k.csmode.extractLsb' (2 * b.val) 2 ≠ 0 →
      Sys2Proof.Machine.bankLine k b.val = some (set, line) →
      Sys2Proof.Claims.leads s (.bankModeMove cl b) fun u =>
        let k' := Sys2Proof.Machine.getCluster u cl
        (Sys2Proof.Machine.clusterWays k' set).getD b.val none = none ∧ k'.modes = k.modes ∧ k'.csmode = k.csmode ∧
        u.ctxs = s.ctxs ∧ u.mem = s.mem) ∧
    (∀ die : Fin 4, Sys2Proof.Claims.leads s (.hbmCounterClear die) fun u =>
      (Sys2Proof.Machine.getDie u die.val).hbm = [] ∧ u.mem = s.mem ∧ u.ctxs = s.ctxs) ∧
    (∀ (c : Sys2Proof.CtxId) (w : Sys2Proof.Reg), let x := Sys2Proof.Machine.getCtx s c
      x.state = .running → x.regs.w[w].bound = none → x.regs.w[w].spilled = false → x.wait = .none →
      Sys2Proof.Machine.rowOf s c w.val = none → (Sys2Proof.Machine.getCell s c.cell).rows.length < 256 →
      Sys2Proof.Claims.leads s (.vectorRowFill c w) fun u =>
        (∃ q, Sys2Proof.Machine.rowOf u c w.val = some q) ∧ u.ctxs = s.ctxs ∧ u.mem = s.mem) ∧
    (∀ (c : Sys2Proof.CtxId) (lane n : Nat) (w : Sys2Proof.Reg) p q v,
      (Sys2Proof.Machine.getCtx s c).loads = [p] → p.dest = .lane w n lane → p.value = some v → n = 2 ∨ n = 4 ∨ n = 8 → lane < 32 →
      Sys2Proof.Machine.rowOf s c w.val = some q →
      Sys2Proof.Claims.leads s (.gatherLaneReturn c lane) fun u =>
        let y := Sys2Proof.Machine.getCtx u c
        let old := (Sys2Proof.Machine.getCtx s c).regs.w[w].data
        y.loads = [] ∧ u.mem = s.mem ∧
        ∀ j, j < 256 / n → y.regs.w[w].data.extractLsb' (8 * n * j) (8 * n) =
          if j = lane then v.setWidth (8 * n) else old.extractLsb' (8 * n * j) (8 * n))

namespace Sys2Proof.Claims
open Sys2Proof.Machine

/-! ## Messages, notices, strands, barriers -/

/-- The actor of this module that an address names is resident at `c`, in an active launch of the ASID (R21, R26). -/
def ResidentAt (s : State) (dest : BitVec 40) (asid : BitVec 16) (l : Launch) (c : CtxId) : Prop :=
  dest.toNat / 2 ^ 32 = ownModule s ∧ launchAt s (dest.toNat % 2 ^ 32 / 2 ^ 24) = some l ∧ l.packet.asid = asid ∧
  (actorOf l (dest.toNat % 2 ^ 24)).place = .at c ∧
  (getCtx s c).ident.lslot.toNat = dest.toNat % 2 ^ 32 / 2 ^ 24 ∧ (getCtx s c).ident.root = dest ∧
  (actorOf l (dest.toNat % 2 ^ 24)).mooring = []

/-- A mailbox that takes the message into its FIFO: declared for its class and type, the class bound, room, no overflow (R116,
R117). -/
def TakesMessage (x : Ctx) (m : Message) : Prop :=
  let b := x.mailboxes[m.mb]
  b.valid = true ∧ m.cls = b.cls ∧ m.typ = b.typ ∧ m.len ≤ 16 ∧ (x.routines.toList.getD m.cls 0).getLsbD 0 = true ∧
  b.ovf = [] ∧ b.fifo.length + 1 < b.cap

/-- A mailbox that the message suits but that is full, with no overflow ring. -/
def FullFor (x : Ctx) (m : Message) : Prop :=
  let b := x.mailboxes[m.mb]
  b.valid = true ∧ m.cls = b.cls ∧ m.typ = b.typ ∧ m.len ≤ 16 ∧ (x.routines.toList.getD m.cls 0).getLsbD 0 = true ∧
  b.ovf = [] ∧ b.ovflog = 0 ∧ b.cap ≤ b.fifo.length

/-- An arrived message: its arrival time is DTC. -/
def stored (s : State) (m : Message) : StoredMsg := { msg := m, arrival := s.dtc, counted := false }

/-- The context after an arrival in its mailbox: an IDLE actor is READY (Table 5.1). -/
def withMail (s : State) (c : CtxId) (m : Message) : Ctx :=
  let x := getCtx s c
  { x with mailboxes := x.mailboxes.set m.mb.val { x.mailboxes[m.mb] with fifo := x.mailboxes[m.mb].fifo ++ [stored s m] } m.mb.isLt,
           state := if x.state = .idle then .ready else x.state }

/-- Nothing of a strand's launch stands in its way: active, not being evicted or evicted, none of its strands moored or in its
overflow ring (R124, R384). -/
def StrandsRun (s : State) (m : StrandMsg) (l : Launch) : Prop :=
  launchAt s (strandLslot s m.msg) = some l ∧ l.evicting = false ∧ l.evicted = false ∧ l.strandMooring = [] ∧ l.sov = []

/-- What a strand's run starts with (R105): its registers, its pc from the code base, its FSTAT, FRM zero. -/
def StrandRuns (y : Ctx) (m : StrandMsg) (l : Launch) : Prop :=
  y.state = .running ∧ y.pc = l.packet.codebase + BitVec.ofNat 64 m.msg.pcoff.toNat ∧ y.fstat = m.fstat ∧ y.frm = 0 ∧
  (∀ k : Fin 32, y.regs.x[k] = if k = 0 then 0 else m.msg.payload.getD (k.val - 1) 0) ∧ y.regs.c = l.consts ∧
  y.ident.root = m.msg.sender ∧ y.ident.gtid = m.msg.gtid ∧ y.sec.irrevocable = false ∧ y.sec.buffer = [] ∧ y.sec.committed = 0

end Sys2Proof.Claims

/-- R109, R116 to R118, R102: the oldest outbound message to a resident actor enters its mailbox with DTC as its arrival and leaves the
queue; to a launch slot that is not active it is rejected: counted, with a REJECT notice of reason 4 to its sender; to a full
mailbox it stays, held for 128 cycles, and is counted as refused; a retry whose delay is over enters the mailbox, or is held for
twice as long. One for a peer module leaves, or is held once the peer refuses it. A notice enters the queue of a resident actor, sent at once or after it was held. -/
def Obligations.MessagesAndNoticesArrive : Prop :=
  ∀ (s : Sys2Proof.Machine.State) (cell : Nat) (o : Sys2Proof.Machine.OutMsg) (q : List Sys2Proof.Machine.OutMsg)
    (m : Sys2Proof.Message) (l : Sys2Proof.Machine.Launch) (c : Sys2Proof.CtxId),
    let k := Sys2Proof.Machine.getCell s cell
    (k.outq = o :: q → o.kind = .actor m → m.dest.toNat / 2 ^ 32 = Sys2Proof.Machine.ownModule s →
      let arrives := fun (i : Sys2Proof.Instr) => Sys2Proof.Claims.leads s i fun u =>
        (Sys2Proof.Machine.getCell u cell).outq = q ∧ Sys2Proof.Machine.getCtx u c = Sys2Proof.Claims.withMail s c m ∧ u.mem = s.mem
      let waits := fun (i : Sys2Proof.Instr) (n : Nat) => Sys2Proof.Claims.leads s i fun u =>
        (Sys2Proof.Machine.getCell u cell).outq = { o with held := some (n, n) } :: q ∧
        (Sys2Proof.Machine.getCell u cell).refused = k.refused + 1 ∧ u.ctxs = s.ctxs ∧ u.mem = s.mem
      (Sys2Proof.Claims.ResidentAt s m.dest o.asid l c →
        (Sys2Proof.Claims.TakesMessage (Sys2Proof.Machine.getCtx s c) m →
          (o.held = none → arrives (.messageArrival (.outbound cell 0))) ∧
          (∀ d, o.held = some (d, 0) → arrives (.refusedMessageRetry cell 0))) ∧
        (Sys2Proof.Claims.FullFor (Sys2Proof.Machine.getCtx s c) m →
          (o.held = none → waits (.messageArrival (.outbound cell 0)) 128) ∧
          (∀ d, o.held = some (d, 0) → waits (.refusedMessageRetry cell 0) (min 8192 (2 * d))))) ∧
      (o.held = none → Sys2Proof.Machine.launchAt s (m.dest.toNat % 2 ^ 32 / 2 ^ 24) = none →
        Sys2Proof.Claims.leads s (.messageArrival (.outbound cell 0)) fun u =>
          (Sys2Proof.Machine.getCell u cell).outq = q ∧ (Sys2Proof.Machine.getCell u cell).rejected = k.rejected + 1 ∧
          u.ctxs = s.ctxs ∧ ∃ n, u.hub.notices = s.hub.notices ++ [n] ∧ n.dest = m.sender ∧ n.msg.cls = 6 ∧
            n.msg.payload = [BitVec.ofNat 64 (m.sender.toNat + m.seq.toNat * 2 ^ 40), 4])) ∧
    (k.outq = o :: q → o.kind = .actor m → o.held = none → m.dest.toNat / 2 ^ 32 ≠ Sys2Proof.Machine.ownModule s →
      Sys2Proof.Machine.moduleReachable s (m.dest.toNat / 2 ^ 32) = true →
      Sys2Proof.Claims.leads s (.messageArrival (.outbound cell 0)) (fun u => (Sys2Proof.Machine.getCell u cell).outq = q ∧
        u.hub.toPeers = s.hub.toPeers ++ [o.kind] ∧ u.ctxs = s.ctxs ∧ u.mem = s.mem) ∧
      Sys2Proof.Claims.leads s (.messageArrival (.refused cell 0)) fun u =>
        (Sys2Proof.Machine.getCell u cell).outq = { o with held := some (128, 128) } :: q ∧
        (Sys2Proof.Machine.getCell u cell).refused = k.refused + 1 ∧ u.ctxs = s.ctxs ∧ u.mem = s.mem) ∧
    (∀ n r, s.hub.notices = n :: r → n.die = none → n.result = none → Sys2Proof.Claims.ResidentAt s n.dest n.asid l c →
      (Sys2Proof.Machine.getCtx s c).notices.length < 7 →
      ∀ i, (i = .noticeArrival (.own 0) ∧ n.held = none) ∨ (i = .heldNoticeSend 0 ∧ ∃ d, n.held = some (d, 0)) →
        Sys2Proof.Claims.leads s i fun u => u.hub.notices = r ∧ u.mem = s.mem ∧
          (Sys2Proof.Machine.getCtx u c).notices = (Sys2Proof.Machine.getCtx s c).notices ++ [Sys2Proof.Claims.stored s n.msg])

/-- R105, R112, R123 to R125, R183: a strand that arrives at a cell with a free slot and none waiting runs in it; so does a waiting one
in a slot that is free; the root's cell grants a spawn count below SPAWNLIM and refuses one at it; the answer ends the stall; a
decrement lowers the root's count. -/
def Sys2Proof.Claims.StrandsArriveAndCount : Prop :=
  ∀ (s : Sys2Proof.Machine.State) (l : Sys2Proof.Machine.Launch) (c : Sys2Proof.CtxId),
    (∀ cell o m, (Sys2Proof.Machine.getCell s cell).outq = [o] → o.kind = .strand m → o.held = none →
      m.msg.dest.toNat / 2 ^ 32 = Sys2Proof.Machine.ownModule s → m.msg.payload.length ≤ 31 →
      Sys2Proof.Claims.StrandsRun s m l → (Sys2Proof.Machine.getCell s m.destCell).arrivals = [] →
      (Sys2Proof.Machine.getCell s m.destCell).returns = [] →
      (Sys2Proof.Machine.getCtx s { cell := m.destCell, slot := 16 }).state = .free → l.packet.flags.getLsbD 3 = false →
      Sys2Proof.Claims.leads s (.strandArrival (.outbound cell 0)) fun u =>
        (Sys2Proof.Machine.getCell u cell).outq = [] ∧
        Sys2Proof.Claims.StrandRuns (Sys2Proof.Machine.getCtx u { cell := m.destCell, slot := 16 }) m l) ∧
    (∀ m r, 16 ≤ c.slot → c.slot < 32 → (Sys2Proof.Machine.getCtx s c).state = .free →
      (Sys2Proof.Machine.getCell s c.cell).returns = [] → (Sys2Proof.Machine.getCell s c.cell).arrivals = m :: r →
      m.faulted = false → m.msg.payload.length ≤ 31 → Sys2Proof.Claims.StrandsRun s m l → s.hub.launches.length = 1 →
      l.packet.flags.getLsbD 3 = false →
      Sys2Proof.Claims.leads s (.strandResumption c) fun u =>
        (Sys2Proof.Machine.getCell u c.cell).arrivals = r ∧ Sys2Proof.Claims.StrandRuns (Sys2Proof.Machine.getCtx u c) m l) ∧
    (∀ q r, s.hub.spawnReqs = q :: r → let root := q.root
      root.toNat / 2 ^ 32 = Sys2Proof.Machine.ownModule s → q.ctx ≠ c → q.aborted = false →
      Sys2Proof.Machine.launchAt s (root.toNat % 2 ^ 32 / 2 ^ 24) = some l →
      (Sys2Proof.Machine.actorOf l (root.toNat % 2 ^ 24)).place = .at c → q.ctx.slot < 32 → c.slot < 32 →
      let x := Sys2Proof.Machine.getCtx s c
      Sys2Proof.Claims.leads s (.spawnCountRequest 0 none) fun u => u.hub.spawnReqs = r ∧
        (Sys2Proof.Machine.getCtx u q.ctx).wait = .spawn (some (decide (x.strands < x.spawnlim.toNat))) ∧
        (Sys2Proof.Machine.getCtx u c).strands = if x.strands < x.spawnlim.toNat then x.strands + 1 else x.strands) ∧
    (∀ yes, (Sys2Proof.Machine.getCtx s c).wait = .spawn (some yes) →
      Sys2Proof.Claims.leads s (.spawnCountAnswer c) fun u =>
        let y := Sys2Proof.Machine.getCtx u c
        y.wait = .none ∧ y.sec.spawned = (Sys2Proof.Machine.getCtx s c).sec.spawned + (if yes then 1 else 0) ∧
        y.pc = (Sys2Proof.Machine.getCtx s c).pc ∧ y.regs = (Sys2Proof.Machine.getCtx s c).regs) ∧
    (∀ root r, s.hub.decrements = root :: r → root.toNat / 2 ^ 32 = Sys2Proof.Machine.ownModule s →
      Sys2Proof.Machine.launchAt s (root.toNat % 2 ^ 32 / 2 ^ 24) = some l →
      (Sys2Proof.Machine.actorOf l (root.toNat % 2 ^ 24)).place = .at c →
      Sys2Proof.Machine.exec (.spawnDecrementArrival 0 none) s = .next (Sys2Proof.Machine.modCtx
        { s with hub := { s.hub with decrements := r } } c fun y => { y with strands := y.strands - 1 }))

/-- R128, R129: the arrival of the one actor of a group at a barrier of the group releases it at once: it leaves the queue, its
barrier counts a generation more with nobody arrived, and a notice of class 2 with the number, the generation and the value is the
last on its way, to that actor. -/
def Sys2Proof.Claims.BarriersRelease : Prop :=
  ∀ (s : Sys2Proof.Machine.State) (b : Sys2Proof.Machine.BarrMsg) (r : List Sys2Proof.Machine.BarrMsg)
    (l : Sys2Proof.Machine.Launch) (g : Sys2Proof.Machine.Group) (c : Sys2Proof.CtxId),
    let key := b.lslot * 2 ^ 28 + b.aindex * 16 + b.n
    let old := Sys2Proof.Machine.tget (Sys2Proof.Machine.getCluster s g.cluster).barriers Sys2Proof.Machine.Barrier.fresh key
    s.hub.barrs = b :: r → b.launchScope = false → b.n < 16 → b.op < 5 →
    Sys2Proof.Machine.launchAt s b.lslot = some l → l.packet.actors = 1 → l.savedGroups = [] →
    Sys2Proof.Machine.tfind l.groups b.aindex = some g → (Sys2Proof.Machine.actorOf l b.aindex).place = .at c →
    old.arrived = [] → old.later = [] → old.op = none → old.mixed = false →
    Sys2Proof.Claims.leads s (.barrierArrival 0 none) fun u =>
      u.hub.barrs = r ∧ u.ctxs = s.ctxs ∧ u.mem = s.mem ∧
      Sys2Proof.Machine.tfind (Sys2Proof.Machine.getCluster u g.cluster).barriers key =
        some { gen := old.gen + 1, value := 0, op := none, mixed := false, arrived := [], later := [] } ∧
      ∃ n, u.hub.notices = s.hub.notices ++ [n] ∧ n.asid = l.packet.asid ∧ n.msg.cls = 2 ∧
        n.dest = BitVec.ofNat 40 (Sys2Proof.Machine.ownModule s * 2 ^ 32 + b.lslot * 2 ^ 24 + b.aindex) ∧
        n.msg.payload = [BitVec.ofNat 64 b.n, old.gen, b.value]

/-- R105, R112, R123 to R125, R128, R129, R183: strands, their counts, and barriers. -/
def Obligations.StrandsCountsAndBarriers : Prop :=
  Sys2Proof.Claims.StrandsArriveAndCount ∧
  Sys2Proof.Claims.BarriersRelease

/-- R113, R181, R387, R416: the watchdog of a running context that has run down raises WATCHDOG, or is held while
a commit or an immediate effect empties the section buffer; a machine check of a revocable section that can rerun starts it again,
registers, SEQ and pc as at its start and its effects gone, a DEFER among them may be given again; another raises MACHINE_CHECK; a breakpoint that matches halts the context at its pc. -/
def Obligations.StopsFromOutsideTheInstruction : Prop :=
  ∀ (s : Sys2Proof.Machine.State) (c : Sys2Proof.CtxId),
    let x := Sys2Proof.Machine.getCtx s c
    let releasing := x.sec.commit ≠ none ∨ (x.sec.irrevocable = true ∧ x.sec.buffer ≠ [])
    x.state = .running → x.dbg.halted = false →
    (x.wdog = 0 → ¬ releasing →
      Sys2Proof.Machine.exec (.watchdogExpiry c) s = .next (Sys2Proof.Machine.takeTrap s c { code := 10 })) ∧
    (x.wdog = 0 → releasing → x.sec.heldExpiry = false →
      Sys2Proof.Machine.exec (.watchdogExpiry c) s = .next (Sys2Proof.Machine.modCtx s c fun y =>
        { y with sec := { y.sec with heldExpiry := true } })) ∧
    (¬ releasing → x.sec.irrevocable = true ∨ x.sec.rerun = true ∨ x.sec.rerunnable = false →
      Sys2Proof.Machine.exec (.machineCheck c) s = .next (Sys2Proof.Machine.takeTrap s c { code := 11 })) ∧
    (x.sec.commit = none → x.sec.irrevocable = false → x.sec.rerun = false → x.sec.rerunnable = true → c.slot < 16 →
      Sys2Proof.Claims.leads s (.machineCheck c) fun u =>
        let y := Sys2Proof.Machine.getCtx u c
        y.state = .running ∧ y.regs = x.sec.start.regs ∧ y.pc = x.sec.start.pc ∧ y.seq = x.sec.start.seq ∧
        y.fstat = x.sec.start.fstat ∧ y.frm = x.sec.start.frm ∧ y.sec.buffer = [] ∧ y.sec.journal = [] ∧ y.sec.rerun = true ∧
        y.sec.committed = x.sec.committed ∧ y.loads = [] ∧ y.counters.aborts = x.counters.aborts + 1 ∧
        y.mailboxes = x.mailboxes ∧ y.trigger = x.trigger.map fun t => { t with deferred := t.deferred && !x.sec.buffer.any Sys2Proof.Machine.isDefer }) ∧
    (∀ n, Sys2Proof.Machine.bpUnit s c = some n → Sys2Proof.Claims.leads s (.breakpointHalt c) fun u =>
      let y := Sys2Proof.Machine.getCtx u c
      y.dbg.halted = true ∧ y.dbg.reason = 1 ∧ y.dbg.detail = n ∧ y.pc = x.pc ∧ y.regs = x.regs ∧ u.mem = s.mem)

namespace Sys2Proof.Claims
open Sys2Proof.Machine

/-! ## The moves of the engines -/

/-- The one operation in a cluster's command queue, its launch not being evicted. -/
def OnlyOp (s : State) (cl : Nat) (o : EmeOp) : Prop := (getCluster s cl).eme = [o] ∧ launchEvicting s o.lslot = false

/-- Signed byte k of row (or column) i of an INT8 tile, 32 to a row, at `a` (R287). -/
def int8At (m : Memory) (a i k : Nat) : Int := (readByte m (a + 32 * i + k)).toInt

/-- A dense INT8 ring without side lanes (R286). -/
def PlainInt8 (n : Ring) (role : BitVec 1) : Prop :=
  n.fmt = 6 ∧ n.role = role ∧ n.normw = 7 ∧ n.sparse = 0 ∧ n.demand = 0 ∧ n.lanes = [] ∧ 0 < n.slots.toNat ∧ n.slots.toNat ≤ 64

/-- The slot of a ring of an actor of a cluster for a sequence number. -/
def slotOf (s : State) (c : CtxId) (n : Ring) (seq : Nat) : Nat :=
  ownModule s * 2 ^ 60 + 2 ^ 56 + c.cell / 4 * 2 ^ 21 +
    ((getCtx s c).grants.scratchOff + n.base.toNat + seq % n.slots.toNat * tileSize n)

/-- Element (i, j) of an accumulator: 64 rows of 32 (R285). -/
def accAt (s : State) (cl p i j : Nat) : Word32 := (accElems (accOf s cl p)).getD (32 * i + j) 0

end Sys2Proof.Claims

/-- R285, R291, R293, R306, R307, R311, R317, R208: a VACCWR that heads its accumulator puts its elements there; an MMA that passes the
start checks is checked, one that needs more tiles than a ring has slots is dropped with an engine fault; a k-step over the whole of
an INT8 MMA of K up to 32 adds to each element, modulo 2^32, the sum of the K products of its row and its column, and retires it; ACCZ clears
the accumulator; RPOP moves its ring's HEAD on. -/
def Obligations.MatrixEngineMoves : Prop :=
  ∀ (s : Sys2Proof.Machine.State) (cl : Nat) (o : Sys2Proof.Machine.EmeOp), Sys2Proof.Claims.OnlyOp s cl o →
    let acc := Sys2Proof.Machine.accOf s cl o.acc
    let x := Sys2Proof.Machine.getCtx s o.owner
    let ra := Sys2Proof.Machine.ringOf x o.ringA
    let rb := Sys2Proof.Machine.ringOf x o.ringB
    let eme := fun (u : Sys2Proof.Machine.State) => (Sys2Proof.Machine.getCluster u cl).eme
    (o.checked = false → acc.status.getLsbD 7 = false →
      (o.kind = .vaccwr → o.rowFirst + o.data.length ≤ 2048 → acc.elems.length ≤ 2048 →
        Sys2Proof.Claims.leads s (.emeOperationStart cl 0) fun u => eme u = [] ∧ u.mem = s.mem ∧
          ∀ j, j < 2048 → (Sys2Proof.Machine.accElems (Sys2Proof.Machine.accOf u cl o.acc)).getD j 0 =
            if o.rowFirst ≤ j ∧ j < o.rowFirst + o.data.length then o.data.getD (j - o.rowFirst) 0
            else (Sys2Proof.Machine.accElems acc).getD j 0) ∧
      (o.kind = .mma ∨ o.kind = .mmas → Sys2Proof.Machine.startFault o ra rb acc = none →
        Sys2Proof.Machine.exec (.emeOperationStart cl 0) s = .next (Sys2Proof.Machine.modCluster s cl fun k =>
          { k with eme := [{ o with checked := true }] })) ∧
      (o.kind = .mma ∨ o.kind = .mmas → ra.slots.toNat < (o.k + 31) / 32 ∨ rb.slots.toNat < (o.k + 31) / 32 →
        Sys2Proof.Claims.leads s (.emeOperationStart cl 0) fun u => eme u = [] ∧
          (Sys2Proof.Machine.accOf u cl o.acc).status.getLsbD 7 = true ∧
          ∃ r, u.hub.records = s.hub.records ++ [r] ∧ r.code = 15 ∧ r.unit = 1 ∧ r.asid = o.asid ∧ r.pc = o.pc)) ∧
    (o.kind = .mma → (Sys2Proof.Machine.getCluster s cl).running = some o.id → o.kpos = 0 → o.stop = false →
      Sys2Proof.Machine.opPair o = 8 → o.owner.cell / 4 = cl → 0 < o.k → o.k ≤ 32 → o.k % 8 = 0 →
      Sys2Proof.Claims.PlainInt8 ra 0 → Sys2Proof.Claims.PlainInt8 rb 1 →
      Sys2Proof.Claims.leads s (.emeKStep cl) fun u => eme u = [] ∧ u.mem = s.mem ∧
        ∀ i j, i < 64 → j < 32 → Sys2Proof.Claims.accAt u cl o.acc i j = Sys2Proof.Claims.accAt s cl o.acc i j +
          BitVec.ofInt 32 ((List.range o.k).map fun k =>
            Sys2Proof.Claims.int8At s.mem (Sys2Proof.Claims.slotOf s o.owner ra (Sys2Proof.Machine.firstTile ra o.id % 65536)) i k *
            Sys2Proof.Claims.int8At s.mem (Sys2Proof.Claims.slotOf s o.owner rb (Sys2Proof.Machine.firstTile rb o.id % 65536)) j k).sum) ∧
    (o.kind = .accz → Sys2Proof.Claims.leads s (.acczRun cl 0) fun u => eme u = [] ∧ u.mem = s.mem ∧
      let a := Sys2Proof.Machine.accOf u cl o.acc
      a.var = 0 ∧ a.status = 0 ∧ a.typed = false ∧ ∀ j, j < 2048 → (Sys2Proof.Machine.accElems a).getD j 0 = 0) ∧
    (∀ r, o.kind = .rpop → ra.reservations = [r] → r.opId = o.id → r.first = ra.head.toNat → r.count = o.count →
      o.count < 2 ^ 16 → o.count ≤ (ra.tail - ra.head).toNat → Sys2Proof.Claims.leads s (.rpopRetire cl 0) fun u =>
        eme u = [] ∧ u.mem = s.mem ∧
        let n := Sys2Proof.Machine.ringOf (Sys2Proof.Machine.getCtx u o.owner) o.ringA
        n.head = ra.head + BitVec.ofNat 16 o.count ∧ n.tail = ra.tail ∧ n.reservations = [])

namespace Sys2Proof.Claims
open Sys2Proof.Machine

/-- The one transfer of a cluster, running: not suspended, its launch not being evicted, no hand-over to wait for (R64, R341). -/
def OnlyTransfer (s : State) (cl : Nat) (t : Transfer) : Prop :=
  (getCluster s cl).transfers = [t] ∧ t.suspended = false ∧ t.written = false ∧ t.handOver = false ∧
  launchEvicting s t.ident.lslot = false ∧ t.ctx.cell / 4 = cl ∧ cl < 512

/-- A shadow of the snapshot. -/
def taken (t : Transfer) (n : Fin 22) : Word := t.snap[n]

/-- The walk is n doublewords, one after another, from a LOCAL place `off` bytes into the window. -/
def Straight (t : Transfer) (base : Fin 22) (step : Fin 22) (n off : Nat) : Prop :=
  field (taken t 14) 6 5 = 3 ∧ (taken t 2).toNat = n ∧ taken t 3 = 1 ∧ taken t 4 = 1 ∧ taken t 5 = 1 ∧ taken t step = 8 ∧
  (taken t base).toNat = localBase + off ∧ off % 8 = 0 ∧ off + 8 * n ≤ 2 ^ 21

/-- The byte of a cluster's store at a LOCAL offset. -/
def storeAt (s : State) (cl off : Nat) : Nat := ownModule s * 2 ^ 60 + 2 ^ 56 + cl * 2 ^ 21 + off

/-- `m` has at `b` the n bytes that `m0` has at `a`, and elsewhere what `m0` has. -/
def Copied (m0 m : Memory) (a b n : Nat) : Prop :=
  (∀ j, j < n → readByte m (b + j) = readByte m0 (a + j)) ∧ ∀ c, c < b ∨ b + n ≤ c → readByte m c = readByte m0 c

end Sys2Proof.Claims

/-- R324, R327, R328, R330, R339: a chunk of up to 4,096 bytes between places of the cluster store is read whole and then written, and counted;
a ring fill, none of whose next tile is written, copies it into the slot of SEQ, and SEQ and TAIL count up; a slice that the engine asks of a demand fill, once
read, is counted and marked as fetched; a transfer whose writes are made, with no follow-on, leaves, its tag is set and its status is its
code and byte count. -/
def Obligations.CopyEngineMoves : Prop :=
  ∀ (s : Sys2Proof.Machine.State) (cl : Nat) (t : Sys2Proof.Machine.Transfer),
    let xfer := fun (u : Sys2Proof.Machine.State) => (Sys2Proof.Machine.getCluster u cl).transfers
    let n := Sys2Proof.Machine.ringOf (Sys2Proof.Machine.getCtx s t.ctx) (Sys2Proof.Claims.field (Sys2Proof.Claims.taken t 14) 10 8)
    (Sys2Proof.Claims.OnlyTransfer s cl t →
      (∀ len src dst, Sys2Proof.Claims.field (Sys2Proof.Claims.taken t 14) 2 0 = 0 → 0 < len → len ≤ 512 → t.cursor = 0 →
        Sys2Proof.Claims.Straight t 0 6 len src → Sys2Proof.Claims.Straight t 1 10 len dst →
        Sys2Proof.Claims.leads s (.copyChunk cl 0) fun u =>
          Sys2Proof.Claims.Copied s.mem u.mem (Sys2Proof.Claims.storeAt s cl src) (Sys2Proof.Claims.storeAt s cl dst) (8 * len) ∧
          u.ctxs = s.ctxs ∧ ∃ t', xfer u = [t'] ∧ t'.written = true ∧ t'.bytes = t.bytes + 8 * len ∧ t'.cursor = len) ∧
      (∀ tiles src, Sys2Proof.Claims.field (Sys2Proof.Claims.taken t 14) 2 0 = 1 →
        Sys2Proof.Claims.field (Sys2Proof.Claims.taken t 14) 13 11 = 0 → n.normw = 7 → n.sparse = 0 → n.demand = 0 →
        n.fmt.toNat ∈ [2, 3, 4, 5, 6] → 0 < n.slots.toNat → n.slots.toNat ≤ 64 → n.reservations = [] →
        (n.tail - n.head).toNat < n.slots.toNat → t.pushed < tiles →
        (t.tileSeq = n.seq → t.cursor ≤ t.pushed * (Sys2Proof.Claims.tileSize n / 8)) →
        Sys2Proof.Claims.Straight t 0 6 (tiles * (Sys2Proof.Claims.tileSize n / 8)) src →
        Sys2Proof.Claims.leads s (.ringTilePush cl 0) fun u =>
          Sys2Proof.Claims.Copied s.mem u.mem (Sys2Proof.Claims.storeAt s cl src + t.pushed * Sys2Proof.Claims.tileSize n)
            (Sys2Proof.Claims.slotOf s t.ctx n n.seq.toNat) (Sys2Proof.Claims.tileSize n) ∧
          Sys2Proof.Machine.ringOf (Sys2Proof.Machine.getCtx u t.ctx) (Sys2Proof.Claims.field (Sys2Proof.Claims.taken t 14) 10 8) =
            { n with seq := n.seq + 1, tail := n.tail + 1 } ∧
          ∃ t', xfer u = [t'] ∧ t'.pushed = t.pushed + 1 ∧ t'.bytes = t.bytes + Sys2Proof.Claims.tileSize n ∧
            t'.written = decide (tiles ≤ t.pushed + 1)) ∧
      (∀ i sl vs u0 e, Sys2Proof.Claims.field (Sys2Proof.Claims.taken t 14) 2 0 = 2 →
        Sys2Proof.Machine.askedSlice s cl t n = some (i, sl) →
        let size := Sys2Proof.Machine.xferElem t
        let units := Sys2Proof.Machine.sliceUnits n size (Sys2Proof.Machine.ringWidth n) sl
        Sys2Proof.Machine.xferReads s cl t size (units.map fun u => Sys2Proof.Machine.walkAddr (Sys2Proof.Claims.taken t 0)
          (Sys2Proof.Machine.xferDims t) (Sys2Proof.Machine.srcSteps t) (i * (Sys2Proof.Machine.ringTile n / size) + u)) =
            .ok (some vs, u0) → xfer u0 = [t] → u0.ctxs = s.ctxs →
        Sys2Proof.Machine.slotLanes n ((t.firstSeq + i) % 65536) = some e →
        Sys2Proof.Claims.leads s (.demandSliceFetch cl 0) fun u =>
          (∃ t', xfer u = [t'] ∧ t'.bytes = t.bytes + units.length * size) ∧
          ∃ e', Sys2Proof.Machine.slotLanes (Sys2Proof.Machine.ringOf (Sys2Proof.Machine.getCtx u t.ctx)
              (Sys2Proof.Claims.field (Sys2Proof.Claims.taken t 14) 10 8)) ((t.firstSeq + i) % 65536) = some e' ∧
            e'.fetched = e.fetched ||| Sys2Proof.Machine.sliceMask (Sys2Proof.Machine.ringWidth n) sl)) ∧
    ((Sys2Proof.Machine.getCluster s cl).transfers = [t] → t.written = true →
      Sys2Proof.Machine.launchEvicting s t.ident.lslot = false → Sys2Proof.Claims.field (Sys2Proof.Claims.taken t 14) 2 0 = 0 →
      Sys2Proof.Claims.taken t 17 = 0 → (Sys2Proof.Claims.taken t 14).getLsbD 4 = false → t.tag < 64 → t.bytes < 2 ^ 48 →
      (Sys2Proof.Machine.getCtx s t.ctx).ident = t.ident →
      Sys2Proof.Claims.leads s (.copyTransferCompletion cl 0) fun u =>
        xfer u = [] ∧ u.mem = s.mem ∧
        let y := Sys2Proof.Machine.getCtx u t.ctx
        let x := Sys2Proof.Machine.getCtx s t.ctx
        y.regs = x.regs ∧ y.pc = x.pc ∧
        ∀ k : Fin 64, (k.val = t.tag → y.tag.tags.getLsbD k.val = true ∧
            y.tag.status[k] = BitVec.ofNat 64 (t.bytes + t.code.toNat * 2 ^ 48)) ∧
          (k.val ≠ t.tag → y.tag.tags.getLsbD k.val = x.tag.tags.getLsbD k.val ∧ y.tag.status[k] = x.tag.status[k]))

namespace Sys2Proof.Claims
open Sys2Proof.Machine

/-- A resident owner, not faulted, of a part of the grid that its slot is bound to. -/
def HoldsPart (s : State) (l : Launch) (lslot owner part : Nat) (g : Fin 4) (c : CtxId) (d : BitVec 1024) : Prop :=
  launchAt s lslot = some l ∧ (actorOf l owner).place = .at c ∧ (getCtx s c).state ≠ .faulted ∧
  (getCtx s c).grid[g].desc = some d ∧ (getCtx s c).grid[g].part = some part

/-- A part's storage (R351). -/
def partStore (s : State) (c : CtxId) (d : BitVec 1024) : Nat :=
  ownModule s * 2 ^ 60 + 2 ^ 56 + c.cell / 4 * 2 ^ 21 + (getCtx s c).grants.scratchOff + localOffset d

/-- The parity that a generation uses (R353). -/
def parityOf (d : BitVec 1024) (n : Nat) : Nat := (n - firstStep d) / strideOfSteps d % 2

/-- A slot's parity 0 or 1. -/
def parityAt (q : GridSlot) (k : Nat) : Parity := if k = 0 then q.par0 else q.par1

/-- The slot takes the strip at once: the parity holds nothing, this generation, not released, or an earlier one of the same parity that
is released (R356). -/
def TakesStrip (q : GridSlot) (d : BitVec 1024) (n : Nat) : Prop :=
  let par := parityAt q (parityOf d n)
  par.gen = none ∨ (par.gen = some (BitVec.ofNat 64 n) ∧ par.rel = false) ∨
  ∃ m, par.gen = some m ∧ m.toNat < n ∧ par.rel = true ∧ parityOf d m.toNat = parityOf d n

end Sys2Proof.Claims

/-- R353, R356, R365, R118: a strip of one cell, first or on retry, that its receiver's slot takes is written to the slab of its face and
parity, and the parity's generation is the strip's; one that it does not take stays, held for 128 cycles, or for twice as long.
A gather lane at a resident owner answers its requester, here or on a peer, with the element; a scatter lane that adds 32-bit integers
adds to it. -/
def Obligations.GridAgentMoves : Prop :=
  ∀ (s : Sys2Proof.Machine.State) (cl : Nat) (l : Sys2Proof.Machine.Launch) (c : Sys2Proof.CtxId) (d : BitVec 1024),
    (∀ h k v, let st := h.strip
      (Sys2Proof.Machine.getCluster s cl).strips = [h] → h.toModule = none → st.cells = [(k, v)] →
      Sys2Proof.Claims.HoldsPart s l st.lslot st.owner st.dstPart st.slotNo c d → st.gen < 2 ^ 64 →
      let q := (Sys2Proof.Machine.getCtx s c).grid[st.slotNo]
      let parity := Sys2Proof.Claims.parityOf d st.gen
      let size := Sys2Proof.Machine.gElemSize d
      let a := Sys2Proof.Claims.partStore s c d + Sys2Proof.Machine.slabOffset d st.dstPart st.face parity + k * size
      0 < Sys2Proof.Claims.strideOfSteps d →
      (∀ i, (i = .haloStripArrival cl (.own 0) ∧ h.held = none) ∨ (i = .haloStripRetry cl 0 ∧ ∃ n, h.held = some (n, 0)) →
        Sys2Proof.Claims.TakesStrip q d st.gen → Sys2Proof.Claims.leads s i fun u =>
          (Sys2Proof.Machine.getCluster u cl).strips = [] ∧
          Sys2Proof.Claims.StoredInOrder s.mem u.mem 1 size (fun _ => a) (fun _ => v.toNat) ∧
          let p' := Sys2Proof.Claims.parityAt (Sys2Proof.Machine.getCtx u c).grid[st.slotNo] parity
          p'.gen = some (BitVec.ofNat 64 st.gen) ∧ (st.face, st.srcPart) ∈ p'.got ∧ p'.rel = false) ∧
      (∀ m, let p := Sys2Proof.Claims.parityAt q parity
        p.gen = some m → m.toNat < st.gen → p.rel = false → Sys2Proof.Claims.parityOf d m.toNat = parity →
        (h.held = none → Sys2Proof.Claims.leads s (.haloStripArrival cl (.own 0)) fun u =>
          (Sys2Proof.Machine.getCluster u cl).strips = [{ h with held := some (128, 128) }] ∧ u.mem = s.mem ∧ u.ctxs = s.ctxs) ∧
        (∀ n, h.held = some (n, 0) → Sys2Proof.Claims.leads s (.haloStripRetry cl 0) fun u =>
          (Sys2Proof.Machine.getCluster u cl).strips = [{ h with held := some (min 8192 (2 * n), min 8192 (2 * n)) }] ∧
          u.mem = s.mem ∧ u.ctxs = s.ctxs))) ∧
    (∀ e, (Sys2Proof.Machine.getCluster s cl).lanes = [e] → e.away = none →
      Sys2Proof.Claims.HoldsPart s l e.lslot e.ownerIndex e.part e.slotNo c d →
      let size := Sys2Proof.Machine.gElemSize d
      let a := Sys2Proof.Claims.partStore s c d + e.elem * size
      (e.scatter = false → Sys2Proof.Claims.leads s (.gridActiveMessage cl (.own 0)) fun u =>
        (Sys2Proof.Machine.getCluster u cl).lanes = [] ∧ u.mem = s.mem ∧
        (Sys2Proof.Machine.getCtx u e.from_).loads = (Sys2Proof.Machine.getCtx s e.from_).loads.map fun p =>
          if p.id = e.id then { p with value := some (BitVec.ofNat 64 (Sys2Proof.Machine.readLE s.mem a size)) } else p) ∧
      (e.scatter = true → e.op = 0 → Sys2Proof.Claims.typeOf d = 7 → Sys2Proof.Claims.leads s (.gridActiveMessage cl (.own 0)) fun u =>
        (Sys2Proof.Machine.getCluster u cl).lanes = [] ∧ u.ctxs = s.ctxs ∧
        Sys2Proof.Claims.StoredInOrder s.mem u.mem 1 4 (fun _ => a)
          (fun _ => Sys2Proof.Machine.readLE s.mem a 4 + e.value.toNat))) ∧
    (∀ p : Sys2Proof.PeerLane, p.fromModule ≠ Sys2Proof.Machine.ownModule s → p.toModule = Sys2Proof.Machine.ownModule s →
      Sys2Proof.Claims.HoldsPart s l p.lslot p.owner p.part p.slotNo c d → p.scatter = false →
      Sys2Proof.Claims.leads s (.gridActiveMessage cl (.peer p)) fun u => u.mem = s.mem ∧ u.ctxs = s.ctxs ∧
        u.hub.laneReplies = s.hub.laneReplies ++ [(p, some (BitVec.ofNat 64 (Sys2Proof.Machine.readLE s.mem
          (Sys2Proof.Claims.partStore s c d + p.elem * Sys2Proof.Machine.gElemSize d) (Sys2Proof.Machine.gElemSize d))))])

namespace Sys2Proof.Claims
open Sys2Proof.Machine

/-! ## What the service cores do -/

/-- The faulted actor of a cell that ACTCTLID names, and no other actor of the cell has that identifier (R131). -/
def FaultedActor (s : State) (die : Fin 4) (c : CtxId) : Prop :=
  let names := fun (k : Nat) => (getCtx s { cell := c.cell, slot := k }).state ≠ .free ∧
    (getCtx s { cell := c.cell, slot := k }).ident.root.toNat % 2 ^ 32 = (getDie s die.val).actctlId.toNat % 2 ^ 32
  c.slot < 16 ∧ (getCtx s c).state = .faulted ∧ names c.slot ∧ ∀ k, k < 16 → names k → k = c.slot

/-- READY when a message or a notice waits, IDLE otherwise (R131, Table 5.1). -/
def readyOrIdle (x : Ctx) : RunState :=
  if x.notices = [] ∧ ∀ n : Fin 8, x.mailboxes[n].fifo = [] then .idle else .ready

/-- A suspended transfer of the die that CPCTLID names, and the only one with that identifier (R340). -/
def SuspendedTransfer (s : State) (die : Fin 4) (cl : Nat) (t : Transfer) : Prop :=
  cl / 128 = die.val ∧ t ∈ (getCluster s cl).transfers ∧ t.suspended = true ∧ t.tid = (getDie s die.val).cpctlId ∧
  (s.clusters.map (·.1)).Nodup ∧
  ∀ cl' t', t' ∈ (getCluster s cl').transfers → t'.tid = t.tid → cl' = cl ∧ t' = t

/-- A record's eight words (Table 22.1). -/
def recordWord (r : FaultRecord) : Fin 8 → Word
  | 0 => r.sections ++ r.asid ++ r.unitIdx ++ r.unit ++ r.code
  | 1 => r.ident
  | 2 => r.msgid
  | 3 => r.pc
  | 4 => r.vaddr
  | 5 => r.cursor
  | 6 => (r.flags ++ r.lane).setWidth 64
  | 7 => r.dtc

end Sys2Proof.Claims

/-- R131: ACTCTL by the owner of the ASID: action 0, and action 1 on an actor whose trigger is gone, make the actor READY or IDLE;
action 1 on a trigger that was returned consumes it; action 2 ends the actor, which counts as FAULTED; action 0 on a faulted strand's
message takes its mark off, actions 1 and 2 discard it and send its root a decrement; where nothing is named so, NOTFOUND alone is set. -/
def Obligations.ActctlResumesSkipsAndEnds : Prop :=
  ∀ (s : Sys2Proof.Machine.State) (core die : Fin 4) (cellInDie : Fin 512) (c : Sys2Proof.CtxId),
    let x := Sys2Proof.Machine.getCtx s c
    c.cell = die.val * 512 + cellInDie.val →
    (Sys2Proof.Claims.FaultedActor s die c → Sys2Proof.Claims.Steered s x.ident.asid.toNat core →
      let goesOn := Sys2Proof.Machine.modCtx s c fun y => { y with state := Sys2Proof.Claims.readyOrIdle y }
      Sys2Proof.Machine.exec (.actctlResume core die cellInDie false) s = .next goesOn ∧
      (x.resumeFrom = none → Sys2Proof.Machine.exec (.actctlSkip core die cellInDie false) s = .next goesOn) ∧
      (∀ n m r, x.resumeFrom = some (.mailbox n) → x.mailboxes[n].fifo = m :: r → x.mailboxes[n].ovf = [] →
        (∀ l, Sys2Proof.Machine.launchAt s x.ident.lslot.toNat = some l →
          (Sys2Proof.Machine.actorOf l (x.ident.root.toNat % 2 ^ 24)).mooring = []) →
        Sys2Proof.Claims.leads s (.actctlSkip core die cellInDie false) fun u =>
          let y := Sys2Proof.Machine.getCtx u c
          y.mailboxes[n].fifo = r ∧ y.resumeFrom = none ∧ y.state = Sys2Proof.Claims.readyOrIdle y ∧ u.hub = s.hub) ∧
      (∀ l, Sys2Proof.Machine.launchAt s x.ident.lslot.toNat = some l → l.gang = none → x.resumeFrom = none →
        Sys2Proof.Claims.leads s (.actctlEnd core die cellInDie false) fun u =>
          let y := Sys2Proof.Machine.getCtx u c
          y.state = .ended ∧ y.notices = [] ∧ (∀ n : Fin 8, y.mailboxes[n].fifo = []) ∧
          ∃ l', Sys2Proof.Machine.launchAt u x.ident.lslot.toNat = some l' ∧ l'.faultedEnded = l.faultedEnded + 1 ∧
            (Sys2Proof.Machine.actorOf l' (x.ident.root.toNat % 2 ^ 24)).place = .ended)) ∧
    (∀ m, let k := Sys2Proof.Machine.getCell s c.cell
      k.returns = [m] → k.returnWait = [] → m.faulted = true → m.msg.gtid = (Sys2Proof.Machine.getDie s die.val).actctlId →
      Sys2Proof.Claims.Steered s m.asid.toNat core →
      Sys2Proof.Machine.exec (.actctlResume core die cellInDie true) s = .next (Sys2Proof.Machine.modCell s c.cell fun k =>
        { k with returns := [{ m with faulted := false }] }) ∧
      ∀ i, i = .actctlSkip core die cellInDie true ∨ i = .actctlEnd core die cellInDie true →
        Sys2Proof.Claims.leads s i fun u => (Sys2Proof.Machine.getCell u c.cell).returns = [] ∧ u.ctxs = s.ctxs ∧
          u.hub.decrements = s.hub.decrements ++ [m.msg.sender]) ∧
    ((∀ k, k < 16 → (Sys2Proof.Machine.getCtx s { cell := c.cell, slot := k }).state ≠ .faulted) →
      ∀ i, i = .actctlResume core die cellInDie false ∨ i = .actctlSkip core die cellInDie false ∨
          i = .actctlEnd core die cellInDie false →
        Sys2Proof.Claims.leads s i fun u => (Sys2Proof.Machine.getDie u die.val).actctlSt.getLsbD 0 = true ∧
          u.ctxs = s.ctxs ∧ u.hub = s.hub ∧ u.mem = s.mem)

/-- R132, R340, R388: NOTECTL that names the cell of a resident actor gives it a notice of class 5 with NOTEM0 and NOTEM1; CPCTL by the
owner of the ASID lets a suspended transfer go on from its cursor, or completes it with the code and without a follow-on; LCANCEL
cancels the launch of its slot and ASID and sends each placed actor a TERMINATE notice, and another ASID's sets NOTFOUND. -/
def Obligations.NoticesTransfersAndCancels : Prop :=
  ∀ (s : Sys2Proof.Machine.State) (core die : Fin 4) (l : Sys2Proof.Machine.Launch) (c : Sys2Proof.CtxId),
    (∀ (cellInDie : Fin 512), let d := Sys2Proof.Machine.getDie s die.val
      let id := d.noteId.toNat % 2 ^ 32
      let dest : BitVec 40 := BitVec.ofNat 40 (Sys2Proof.Machine.ownModule s * 2 ^ 32 + id)
      d.noteSt.getLsbD 1 = false → c.cell = die.val * 512 + cellInDie.val →
      Sys2Proof.Claims.ResidentAt s dest l.packet.asid l c → id % 2 ^ 24 < l.packet.groups * l.packet.actors →
      Sys2Proof.Claims.Steered s l.packet.asid.toNat core → (Sys2Proof.Machine.getCtx s c).notices.length < 7 →
      Sys2Proof.Claims.leads s (.notectl core die cellInDie) fun u => u.mem = s.mem ∧
        ∃ m, (Sys2Proof.Machine.getCtx u c).notices = (Sys2Proof.Machine.getCtx s c).notices ++ [m] ∧
          m.msg.cls = 5 ∧ m.msg.payload = [d.noteM0, d.noteM1] ∧ m.msg.typ = 0 ∧ m.msg.sender = BitVec.allOnes 40 ∧
          m.arrival = s.dtc) ∧
    (∀ cl t, Sys2Proof.Claims.SuspendedTransfer s die cl t → Sys2Proof.Claims.Steered s t.ident.asid.toNat core →
      let others := fun (u : Sys2Proof.Machine.State) => u.mem = s.mem ∧
        ∀ q, q ∈ (Sys2Proof.Machine.getCluster s cl).transfers → q.tid ≠ t.tid → q ∈ (Sys2Proof.Machine.getCluster u cl).transfers
      Sys2Proof.Claims.leads s (.cpctlReplay core die) (fun u => others u ∧
        { t with suspended := false } ∈ (Sys2Proof.Machine.getCluster u cl).transfers) ∧
      ∀ code, Sys2Proof.Claims.leads s (.cpctlComplete core die code) fun u => others u ∧
        { t with suspended := false, written := true, code := code, placed := true, folHeld := false } ∈
          (Sys2Proof.Machine.getCluster u cl).transfers) ∧
    (∀ lslot gi g, Sys2Proof.Machine.launchAt s lslot = some l → Sys2Proof.Claims.Steered s l.packet.asid.toNat core →
      l.gang = none → l.reserved = false → Sys2Proof.Machine.tfind l.groups gi = some g → g.retired = false →
      Sys2Proof.Claims.leads s (.lcancel core l.packet.asid.toNat lslot) fun u =>
        (∃ l', Sys2Proof.Machine.launchAt u lslot = some l' ∧ l'.cancelled = true ∧ l'.groups = l.groups) ∧
        ∀ ai a, Sys2Proof.Machine.tfind l.actors ai = some a → a.place = .at c →
          ∃ n, n ∈ u.hub.notices ∧ n.msg.cls = 63 ∧ n.asid = l.packet.asid ∧
            n.dest = BitVec.ofNat 40 (Sys2Proof.Machine.ownModule s * 2 ^ 32 + lslot * 2 ^ 24 + ai)) ∧
    (∀ lslot asid, (Sys2Proof.Machine.launchAt s lslot = none ∨
        Sys2Proof.Machine.launchAt s lslot = some l ∧ l.packet.asid.toNat ≠ asid) →
      Sys2Proof.Claims.leads s (.lcancel core asid lslot) fun u =>
        u.hub.lcancelSt.getLsbD 0 = true ∧ u.hub.launches = s.hub.launches ∧ u.ctxs = s.ctxs ∧ u.mem = s.mem)

/-- R411 to R414: a fault record with no earlier one of its source unit goes to the ring of the core that owns its ASID, or with ASID 0
from the hub to FSTEERDEF's: its 64 bytes stand at FRTAIL's entry, FRTAIL counts one more and the core's interrupt is raised; to a full
ring it waits. An uncorrectable memory error that no access meets is a record of its controller; one that an access meets is its trap. -/
def Obligations.FaultRecordsReachTheirCore : Prop :=
  ∀ (s : Sys2Proof.Machine.State),
    (∀ r q (core : Fin 4), s.hub.records = r :: q →
      (r.asid = 0 ∧ r.unit = 5 ∧ s.hub.fsteerDef.toNat % 4 = core.val ∨
        ¬ (r.asid = 0 ∧ r.unit = 5) ∧ Sys2Proof.Claims.Steered s r.asid.toNat core) →
      let g := s.hub.rings[core]
      let pa := g.base.toNat / 2 ^ 18 % 2 ^ 34 * 2 ^ 18 + g.tail.toNat % 4096 * 64
      ((g.tail - g.head).toNat < 4096 → Sys2Proof.Machine.populated s pa 64 = true →
        Sys2Proof.Claims.leads s (.faultRecordDelivery 0) fun u =>
          u.hub.records = q ∧ u.hub.rings[core] = { g with tail := g.tail + 1 } ∧ u.hub.irq.getLsbD core.val = true ∧
          u.ctxs = s.ctxs ∧
          ∀ i : Fin 8, Sys2Proof.Machine.readWord u.mem (Sys2Proof.Machine.physKey s pa + 8 * i.val) =
            Sys2Proof.Claims.recordWord r i) ∧
      (4096 ≤ (g.tail - g.head).toNat → Sys2Proof.Machine.exec (.faultRecordDelivery 0) s = .next s)) ∧
    (∀ die controller asid, Sys2Proof.Claims.leads s (.uncorrectableMemoryError die controller asid .nobody) fun u =>
      u.ctxs = s.ctxs ∧ u.mem = s.mem ∧ ∃ r, u.hub.records = s.hub.records ++ [r] ∧ r.code = 12 ∧ r.unit = 6 ∧
        r.unitIdx.toNat = die.val * 256 + controller.toNat ∧ r.asid = BitVec.ofNat 16 asid ∧ r.dtc = s.dtc) ∧
    (∀ die controller asid (c : Sys2Proof.CtxId), Sys2Proof.Machine.canIssue (Sys2Proof.Machine.getCtx s c) = true →
      (Sys2Proof.Machine.getCtx s c).sec.commit = none →
      Sys2Proof.Machine.exec (.uncorrectableMemoryError die controller asid (.access c)) s =
        .next (Sys2Proof.Machine.takeTrap s c { code := 12 }))

namespace Sys2Proof.Claims
open Sys2Proof.Machine

/-- The halted context of a cell that DBGCTLID names, and no other actor of the cell has that identifier (R417). -/
def HaltTarget (s : State) (die : Fin 4) (c : CtxId) : Prop :=
  let names := fun (k : Nat) => (getCtx s { cell := c.cell, slot := k }).state ≠ .free ∧
    (getCtx s { cell := c.cell, slot := k }).ident.root.toNat % 2 ^ 32 = (getDie s die.val).dbgctlId.toNat % 2 ^ 32
  c.slot < 16 ∧ names c.slot ∧ ∀ k, k < 16 → names k → k = c.slot

/-- The six words of a timing record (Table 22.12). -/
def timingWord (valid : Bool) (t : Timing) : Fin 6 → Word
  | 0 => t.sender.setWidth 64 + if valid then 0x10000000000 else 0
  | 1 => t.count
  | 2 => t.transit
  | 3 => t.qwait
  | 4 => t.run
  | 5 => 0

end Sys2Proof.Claims

/-- R415, R417, R421: BPCTL starts a unit's broadcast, and when it is done the cells hold the hub's values; DBGCTL lets a halted context go
on, step, or trap, and asks a running one under debug to halt; TTDUMP starts a dump, unless one runs, and its end writes the 33
records at TTADDR and with CLEAR empties the table. -/
def Obligations.DebugControl : Prop :=
  ∀ (s : Sys2Proof.Machine.State) (core die : Fin 4) (cellInDie : Fin 512),
    (∀ n v, Sys2Proof.Claims.leads s (.bpctlWrite n v) fun u =>
      u.hub.bps[n] = { s.hub.bps[n] with ctl := v &&& 0xFFFF0003 } ∧ n.val ∈ u.hub.bpBusy ∧ u.hub.cellBps = s.hub.cellBps ∧
      u.ctxs = s.ctxs ∧ u.mem = s.mem ∧ ∀ k : Fin 8, k ≠ n → u.hub.bps[k] = s.hub.bps[k]) ∧
    Sys2Proof.Claims.leads s .breakpointBroadcastDone (fun u =>
      u.hub.bpBusy = [] ∧ u.hub.bps = s.hub.bps ∧ u.ctxs = s.ctxs ∧ u.mem = s.mem ∧
      ∀ k : Fin 8, u.hub.cellBps[k] = if k.val ∈ s.hub.bpBusy then s.hub.bps[k] else s.hub.cellBps[k]) ∧
    (∀ (c : Sys2Proof.CtxId), let x := Sys2Proof.Machine.getCtx s c
      c.cell = die.val * 512 + cellInDie.val → Sys2Proof.Claims.HaltTarget s die c →
      Sys2Proof.Claims.Steered s x.ident.asid.toNat core →
      (x.dbg.halted = true → x.dbg.reason ≠ 2 →
        Sys2Proof.Machine.exec (.dbgctlResume core die cellInDie false) s = .next (Sys2Proof.Machine.modCtx s c fun y =>
          { y with dbg := { y.dbg with halted := false, pass := true } }) ∧
        Sys2Proof.Machine.exec (.dbgctlStep core die cellInDie false) s = .next (Sys2Proof.Machine.modCtx s c fun y =>
          { y with dbg := { y.dbg with halted := false, pass := true, step := true } })) ∧
      (x.dbg.halted = true → x.dbg.reason = 2 →
        Sys2Proof.Claims.leads s (.dbgctlResume core die cellInDie false) fun u =>
          (Sys2Proof.Machine.getCtx u c).pc = x.pc + 4 ∧ (Sys2Proof.Machine.getCtx u c).regs = x.regs ∧
          (Sys2Proof.Machine.getCtx u c).dbg.halted = false) ∧
      (x.dbg.halted = true → x.dbg.reason < 2 ^ 16 → x.dbg.detail < 2 ^ 16 →
        Sys2Proof.Machine.exec (.dbgctlAbort core die cellInDie false) s = .next (Sys2Proof.Machine.takeTrap s c
          { code := 25, cursor := BitVec.ofNat 64 (x.dbg.reason * 2 ^ 16 + x.dbg.detail) })) ∧
      (x.dbg.halted = false → x.state = .running → Sys2Proof.Machine.underDebug s c = true →
        Sys2Proof.Machine.exec (.dbgctlHaltRequest core die cellInDie false) s = .next (Sys2Proof.Machine.modCtx s c fun y =>
          { y with dbg := { y.dbg with haltReq := true } })) ∧
      (x.dbg.halted = false → ∀ i, i = .dbgctlResume core die cellInDie false ∨ i = .dbgctlStep core die cellInDie false ∨
          i = .dbgctlAbort core die cellInDie false →
        Sys2Proof.Claims.leads s i fun u => (Sys2Proof.Machine.getDie u die.val).dbgctlSt.getLsbD 0 = true ∧ u.ctxs = s.ctxs)) ∧
    (∀ clear, let d := Sys2Proof.Machine.getDie s die.val
      (d.ttDump = none → Sys2Proof.Claims.leads s (.ttdump die cellInDie clear) fun u =>
        (Sys2Proof.Machine.getDie u die.val) = { d with ttDump := some (cellInDie.val, clear) } ∧ u.mem = s.mem) ∧
      (∀ b, d.ttDump = some b → Sys2Proof.Claims.leads s (.ttdump die cellInDie clear) fun u =>
        (Sys2Proof.Machine.getDie u die.val) = d ∧ u.mem = s.mem) ∧
      (d.ttDump = some (cellInDie.val, clear) →
        let pa := d.ttAddr.toNat / 64 % 2 ^ 46 * 64
        let cell := die.val * 512 + cellInDie.val
        let k := Sys2Proof.Machine.getCell s cell
        Sys2Proof.Machine.populated s pa 1584 = true →
        Sys2Proof.Claims.leads s (.timingDumpDone die) fun u =>
          (Sys2Proof.Machine.getDie u die.val).ttDump = none ∧ u.ctxs = s.ctxs ∧
          (∀ (i : Fin 33) (j : Fin 6), Sys2Proof.Machine.readWord u.mem (Sys2Proof.Machine.physKey s pa + 48 * i.val + 8 * j.val) =
            if i.val = 32 then Sys2Proof.Claims.timingWord true k.timingOthers j
            else match k.timing[i.val]? with
              | some t => Sys2Proof.Claims.timingWord true t j
              | none => 0) ∧
          (Sys2Proof.Machine.getCell u cell).timing = if clear then [] else k.timing))

namespace Sys2Proof.Claims
open Sys2Proof.Machine

/-- Registers of a die's block that read what was last written: the register and its bits (R98 and the tables it names). -/
def dieRegister (d : Die) : Nat → Option (Word × Word)
  | 0x040000 => some (d.actctlId, BitVec.allOnes 64)
  | 0x040020 => some (d.noteId, BitVec.allOnes 64)
  | 0x040028 => some (d.noteM0, BitVec.allOnes 64)
  | 0x040030 => some (d.noteM1, BitVec.allOnes 64)
  | 0x050000 => some (d.cpctlId, BitVec.allOnes 64)
  | 0x060000 => some (d.dbgctlId, BitVec.allOnes 64)
  | 0x080000 => some (d.ttAddr, 0x000FFFFFFFFFFFC0)
  | _ => none

/-- Those of the hub's block: TLBINVVA, ASIDTAB, EVPOOL, EVPOOLSZ, FSTEER, FSTEERDEF, TRBASE, PWRLIM. -/
def hubRegister (h : Hub) : Nat → Option (Word × Word)
  | 0x010008 => some (h.tlbinvVa, 0x007FFFFFFFFF0000)
  | 0x010020 => some (h.asidtab, 0x000FFFFFFFF00000)
  | 0x070010 => some (h.evpool, 0x000FFFFFFFFF0000)
  | 0x070018 => some (h.evpoolSz, 0xFFFFFFFF)
  | 0x080080 => some (h.fsteer, 0x000FFFFFFFFF0000)
  | 0x080088 => some (h.fsteerDef, 3)
  | 0x090000 => some (h.trbase, 0x000FFFFFFFFF001F)
  | 0x0B0010 => some (h.pwrlim, 0xFFF)
  | _ => none

end Sys2Proof.Claims

/-- R98 and its tables, R373, R414: a write of a register that keeps what it is given leaves the bits of its fields there; of a launch
queue QBASE, QCTL, QTAILPA and QSLACK so too; a 1 written to QSTAT's bit, which is write-one-to-clear, clears it and a 0 keeps it;
FRHEAD takes a value up to FRTAIL, and the core's interrupt is raised while they differ. Contexts and memory stay. R6: a read of such a
register returns what it holds, and of one that is write-only zero. -/
def Obligations.ServiceCoreRegisterWrites : Prop :=
  ∀ (s : Sys2Proof.Machine.State) (v : Sys2Proof.Word),
    (∀ (die : Fin 4) offset r mask, Sys2Proof.Claims.dieRegister (Sys2Proof.Machine.getDie s die.val) offset = some (r, mask) →
      Sys2Proof.Claims.leads s (.registerWrite (.die die) offset v) fun u => u.ctxs = s.ctxs ∧ u.mem = s.mem ∧ u.hub = s.hub ∧
        Sys2Proof.Claims.dieRegister (Sys2Proof.Machine.getDie u die.val) offset = some (v &&& mask, mask)) ∧
    (∀ offset r mask, Sys2Proof.Claims.hubRegister s.hub offset = some (r, mask) →
      Sys2Proof.Claims.leads s (.registerWrite .hub offset v) fun u => u.ctxs = s.ctxs ∧ u.mem = s.mem ∧ u.dies = s.dies ∧
        Sys2Proof.Claims.hubRegister u.hub offset = some (v &&& mask, mask)) ∧
    (∀ q : Fin 64, let old := s.hub.queues[q]
      let leaves := fun (r : Nat) (new : Sys2Proof.Machine.Queue) =>
        Sys2Proof.Claims.leads s (.registerWrite .hub (0x060000 + 64 * q.val + r) v) fun u => u.ctxs = s.ctxs ∧ u.mem = s.mem ∧
          ∀ k : Fin 64, u.hub.queues[k] = if k = q then new else s.hub.queues[k]
      leaves 0x00 { old with qbase := v &&& 0x000FFFFFFFFFFF80 } ∧ leaves 0x08 { old with qctl := v &&& 0xFFFFC01F } ∧
      leaves 0x10 { old with qtailpa := v &&& 0x000FFFFFFFFFFFF8 } ∧ leaves 0x18 { old with qslack := v } ∧
      leaves 0x28 { old with qstat := if v.getLsbD 0 then old.qstat &&& ~~~1 else old.qstat }) ∧
    (∀ core : Fin 4, let g := s.hub.rings[core]
      let head : BitVec 32 := v.setWidth 32
      Sys2Proof.Claims.leads s (.registerWrite .hub (0x080008 + 32 * core.val) v) fun u => u.ctxs = s.ctxs ∧ u.mem = s.mem ∧
        let g' := u.hub.rings[core]
        g' = (if (head - g.head).toNat ≤ (g.tail - g.head).toNat then { g with head := head } else g) ∧
        (u.hub.irq.getLsbD core.val = true ↔ g'.head ≠ g'.tail)) ∧
    (∀ (die : Fin 4) offset r mask, Sys2Proof.Claims.dieRegister (Sys2Proof.Machine.getDie s die.val) offset = some (r, mask) →
      Sys2Proof.Machine.readReg s (.die die) offset = r) ∧
    (∀ offset r mask, Sys2Proof.Claims.hubRegister s.hub offset = some (r, mask) → Sys2Proof.Machine.readReg s .hub offset = r) ∧
    (∀ (die : Fin 4), ∀ offset ∈ [0x010010, 0x040008, 0x040038, 0x050008, 0x060008, 0x080008],
      Sys2Proof.Machine.readReg s (.die die) offset = 0) ∧
    (∀ offset ∈ [0x010000, 0x070000], Sys2Proof.Machine.readReg s .hub offset = 0)

namespace Sys2Proof.Claims
open Sys2Proof.Machine

/-! ## Dispatch -/

/-- Slots of a queue that is not disabled: 2^QLOG (Table 20.5). -/
def queueSlots (q : Queue) : Nat := 2 ^ (q.qctl.toNat % 32)

/-- A queue whose QLOG is 1 to 16. -/
def QueueWorks (q : Queue) : Prop := 1 ≤ q.qctl.toNat % 32 ∧ q.qctl.toNat % 32 ≤ 16

/-- Physical addresses of a queue's tail word and of the slot of a sequence number (R373). -/
def tailAddr (q : Queue) : Nat := q.qtailpa.toNat / 8 % 2 ^ 49 * 8
def slotAddr (q : Queue) (seq : Nat) : Nat := q.qbase.toNat / 128 % 2 ^ 45 * 128 + seq % queueSlots q * 128

/-- Bring-up has ended, and queue q alone has packets: its head is `p`, which waits for nothing (R373 to R375). -/
def OnlyHead (s : State) (q : Fin 64) (p : Packet) (arrival : Word) : Prop :=
  let x := s.hub.queues[q]
  s.hub.bootStep = 9 ∧ QueueWorks x ∧ x.qctl.getLsbD 15 = true ∧ x.tail ≠ x.qhead ∧ (x.tail - x.qhead).toNat ≤ queueSlots x ∧
  populated s (slotAddr x x.qhead.toNat) 128 = true ∧
  p = parsePacket (homeReadWords s (physKey s (slotAddr x x.qhead.toNat)) 16) ∧ p.waitn = 0 ∧
  (p.flags.getLsbD 1 = false ∨ x.last = none) ∧ (∃ r, x.arrivals = arrival :: r) ∧
  ∀ k : Fin 64, k ≠ q → s.hub.queues[k].tail = s.hub.queues[k].qhead

/-- EFFDL of a head (R375). -/
def effectiveDeadline (x : Queue) (p : Packet) (arrival : Word) : Word := if p.deadline = 0 then arrival + x.qslack else p.deadline

/-- A packet without GANG that passes every check of Table 20.2 after the reads. -/
def PacketGood (x : Queue) (p : Packet) (t : Tables) : Prop :=
  (x.qctl.getLsbD 14 = true → p.asid.toNat = x.qctl.toNat / 2 ^ 16 % 2 ^ 16) ∧
  1 ≤ p.actors ∧ p.actors ≤ 16 ∧ 1 ≤ p.groups ∧ p.groups * p.actors ≤ 2 ^ 24 ∧
  (∀ n : Fin 8, t.boxes[n].valid = true → 8 ≤ t.boxes[n].cls ∧ t.boxes[n].cls ≤ 61 ∧ t.boxes[n].ovflog ≤ 20) ∧
  p.accs ≤ 16 ∧ p.rings ≤ 8 ∧ p.frame ≤ 1024 ∧ p.scratch ≤ 2 ^ 20 ∧ p.scratch % 64 = 0 ∧ p.sovlog ≤ 20 ∧
  fitsEmpty p t.boxes = true ∧ p.codebase.toNat % 32 = 0 ∧ p.rtab.toNat % 8 = 0 ∧ p.const.toNat % 8 = 0 ∧
  p.mbdecl.toNat % 8 = 0 ∧ p.spill.toNat % 65536 = 0 ∧ p.waittab.toNat % 8 = 0 ∧ p.compl.toNat % 64 = 0 ∧
  p.sovbase.toNat % 64 = 0 ∧ p.flags.getLsbD 0 = false ∧ p.gangn = 1

/-- The lowest free launch slot. -/
def LowestFree (s : State) (n : Nat) : Prop :=
  n < 256 ∧ launchAt s n = none ∧ ∀ k, k < n → (launchAt s k).isSome = true

/-- The little-endian bytes of a completion record's fields (Table 20.4): offset, size, value. -/
def completionFields (s : State) (c : Completion) : List (Nat × Nat × Nat) :=
  [(0, 2, c.status), (2, 2, c.reason), (4, 1, c.lslot), (8, 8, c.arrival.toNat), (16, 8, c.start.toNat), (24, 8, s.dtc.toNat),
   (32, 8, c.effdl.toNat), (40, 4, c.evictions), (44, 4, c.faulted)]

end Sys2Proof.Claims

/-- R373, R374, R186, R375, R372: a tail word within 2^QLOG of HEAD is seen, and what it adds arrives now; one farther ahead sets OVF; a
LAUNCH request becomes the packet at the queue's tail, under its ASID, and the tail word counts one more, unless the queue is full; a
head that passes the checks takes the lowest free launch slot, late when DTC is past its deadline; one marked DROPLATE that is late, or
that has no actors or groups, takes none, and HEAD passes it (each as soon as the walk for its record has a miss entry, R84); a completion
record has the fields of Table 20.4. R95: a read of a LAUNCH request's packet that meets a translation fault leaves a record of the
dispatcher with a stall token, and the request waits. -/
def Obligations.DispatchQueuesAndSelection : Prop :=
  ∀ (s : Sys2Proof.Machine.State),
    (∀ q : Fin 64, let x := s.hub.queues[q]
      s.hub.bootStep = 9 → Sys2Proof.Claims.QueueWorks x → Sys2Proof.Machine.populated s (Sys2Proof.Claims.tailAddr x) 8 = true →
      let t : BitVec 32 := (Sys2Proof.Machine.readWord s.mem (Sys2Proof.Machine.physKey s (Sys2Proof.Claims.tailAddr x))).setWidth 32
      let n := (t - x.qhead).toNat
      x.arrivals.length ≤ n →
      let leaves := fun (new : Sys2Proof.Machine.Queue) => Sys2Proof.Claims.leads s (.queueTailObservation q) fun u =>
        u.mem = s.mem ∧ u.ctxs = s.ctxs ∧ ∀ k : Fin 64, u.hub.queues[k] = if k = q then new else s.hub.queues[k]
      (n ≤ Sys2Proof.Claims.queueSlots x →
        leaves { x with tail := t, arrivals := x.arrivals ++ List.replicate (n - x.arrivals.length) s.dtc }) ∧
      (Sys2Proof.Claims.queueSlots x < n → leaves { x with qstat := x.qstat ||| 1 })) ∧
    (∀ r q ws s1, s.hub.launchReqs = r :: q → r.queue < 64 →
      Sys2Proof.Machine.hubWords s r.asid r.va 16 = .ok (ws, s1) →
      let x := Sys2Proof.Machine.queueOf s1 r.queue
      let tail := Sys2Proof.Claims.tailAddr x
      Sys2Proof.Claims.QueueWorks x → Sys2Proof.Machine.populated s1 tail 8 = true →
      let t : BitVec 32 := (Sys2Proof.Machine.readWord s1.mem (Sys2Proof.Machine.physKey s1 tail)).setWidth 32
      let slot := Sys2Proof.Claims.slotAddr x t.toNat
      ((t - x.qhead).toNat < Sys2Proof.Claims.queueSlots x → Sys2Proof.Machine.populated s1 slot 128 = true →
        tail + 8 ≤ slot ∨ slot + 128 ≤ tail →
        Sys2Proof.Claims.leads s (.launchRequestAppend 0) fun u => u.ctxs = s1.ctxs ∧
          u.hub.launchReqs = q ∧
          (Sys2Proof.Machine.readWord u.mem (Sys2Proof.Machine.physKey s1 tail)).setWidth 32 = t + 1 ∧
          (∀ i : Fin 16, Sys2Proof.Machine.readWord u.mem (Sys2Proof.Machine.physKey s1 slot + 8 * i.val) =
            if i.val = 0 then (ws.getD 0 0 &&& ~~~0xFFFF) ||| r.asid.setWidth 64 else ws.getD i.val 0)) ∧
      (Sys2Proof.Claims.queueSlots x ≤ (t - x.qhead).toNat → Sys2Proof.Machine.exec (.launchRequestAppend 0) s = .next s)) ∧
    (∀ r q va code cause, s.hub.launchReqs = r :: q → Sys2Proof.Machine.hubWords s r.asid r.va 16 = .error (.stall va code cause) →
      Sys2Proof.Claims.leads s (.launchRequestAppend 0) fun u => u.hub.launchReqs = r :: q ∧ u.ctxs = s.ctxs ∧ u.mem = s.mem ∧
        ∃ f h, u.hub.records = s.hub.records ++ [f] ∧ f.unit = 4 ∧ f.code = BitVec.ofNat 8 code ∧ f.asid = r.asid ∧ f.flags = 4 ∧
          u.hub.stalls = s.hub.stalls ++ [h] ∧ h.asid = r.asid ∧ h.va = va ∧ h.fatal = false ∧
          f.cursor = BitVec.ofNat 64 h.token) ∧
    (∀ (q : Fin 64) p arrival t s1 n, Sys2Proof.Claims.OnlyHead s q p arrival → Sys2Proof.Claims.LowestFree s n →
      Sys2Proof.Machine.readTables s p = .ok (t, s1) → Sys2Proof.Machine.completionWaits s p = false →
      let x := s.hub.queues[q]
      let effdl := Sys2Proof.Claims.effectiveDeadline x p arrival
      let late := decide (effdl.toNat < s.dtc.toNat)
      let passed := fun (u : Sys2Proof.Machine.State) => u.hub.queues[q].qhead = x.qhead + 1 ∧ u.ctxs = s1.ctxs
      (Sys2Proof.Claims.PacketGood x p t → late = false ∨ p.flags.getLsbD 2 = false →
        Sys2Proof.Claims.leads s .launchSelection fun u => passed u ∧
          ∃ l, Sys2Proof.Machine.launchAt u n = some l ∧ l.packet = p ∧ l.queue = q.val ∧ l.arrival = arrival ∧ l.effdl = effdl ∧
            l.late = late ∧ l.routines = t.routines ∧ l.consts = t.consts ∧ l.mailboxes = t.boxes ∧ l.groups = [] ∧
            l.nextGroup = 0 ∧ l.gang = none ∧ ∀ k, k ≠ n → Sys2Proof.Machine.launchAt u k = Sys2Proof.Machine.launchAt s k) ∧
      ((Sys2Proof.Claims.PacketGood x p t ∧ late = true ∧ p.flags.getLsbD 2 = true) ∨ p.actors = 0 ∨ p.groups = 0 →
        Sys2Proof.Claims.leads s .launchSelection fun u => passed u ∧ u.hub.launches = s.hub.launches)) ∧
    (∀ (p : Sys2Proof.Machine.Packet) c a b s1, Sys2Proof.Machine.completionPlaces s p = .ok (a, b, s1) → p.compl.toNat % 64 = 0 →
      a % 64 = 0 → a / 2 ^ 60 = Sys2Proof.Machine.ownModule s →
      Sys2Proof.Machine.foldedAway s.hub.outMem (Sys2Proof.Machine.keyPa a) = false →
      Sys2Proof.Machine.foldedAway s.hub.outMem (Sys2Proof.Machine.keyPa b) = false →
      ∀ f ∈ Sys2Proof.Claims.completionFields s c,
        Sys2Proof.Machine.readLE (Sys2Proof.Machine.writeCompletion s p c).mem (a + f.1) f.2.1 = f.2.2 % 2 ^ (8 * f.2.1))

namespace Sys2Proof.Claims
open Sys2Proof.Machine

/-- The only launch, and nothing stands in the way of placing its next groups (R377). -/
def OnlyLaunch (s : State) (ls : Nat) (l : Launch) : Prop :=
  s.hub.launches = [(ls, l)] ∧ l.evicting = false ∧ l.cancelled = false ∧ l.reserved = false ∧ l.packet.csmode = 0 ∧
  1 ≤ l.packet.actors ∧ l.packet.actors ≤ 16 ∧ l.moving = none

/-- A group is set up on the contexts `cs` of a cluster with the offsets of a choice (R100, R378, R379). -/
def SetUp (u : State) (ls : Nat) (l : Launch) (g cl : Nat) (cs : List CtxId) (ch : PlaceChoice) : Prop :=
  ∃ l' gr, launchAt u ls = some l' ∧ tfind l'.groups g = some gr ∧ gr.cluster = cl ∧ gr.ctxs = cs ∧ gr.retired = false ∧
  cs.length = l.packet.actors ∧
  (∀ i, i < l.packet.scratch → readByte u.mem (storeKey (ownModule u) cl (ch.scratchOff + i)) = 0) ∧
  ∀ (m : Nat) (c : CtxId), cs[m]? = some c →
    c.cell = cl * 4 + m % 4 ∧ c.slot < 16 ∧ (actorOf l' (g * l.packet.actors + m)).place = .at c ∧
    let y := getCtx u c
    y.state = .ready ∧ y.regs.c = l.consts ∧ (∀ k : Fin 32, y.regs.x[k] = 0) ∧ y.fstat = 0 ∧ y.frm = 0 ∧ y.ident.asid = l.packet.asid ∧
    y.ident.root.toNat % 2 ^ 24 = g * l.packet.actors + m ∧ y.routines = l.routines ∧ y.mailboxes = l.mailboxes ∧
    (∃ n, y.notices = [n] ∧ n.msg.cls = 0 ∧ n.msg.payload = [l.packet.args]) ∧
    ∀ i, i < 64 * l.packet.frame → readByte u.mem (storeKey (ownModule u) cl (ch.frameOffs.getD m 0 + i)) = 0

end Sys2Proof.Claims

/-- R377 to R379, R100: the next group of the one launch that waits goes to the first cluster that fits on the die whose turn it is: its
members' contexts are READY with INIT, their registers, frames and scratch zero. R383: an actor that has stopped, none of whose
operations MQDRAIN has withdrawn, is saved and EVICTED; when all have stopped and no strand of the launch waits, the group's scratch is
saved and its contexts are free. R386: a saved group is placed anew with what was saved. R24, R25: a launch whose one group has finished
frees its contexts and its slot, as soon as the walk for its record has a miss entry (R84). -/
def Obligations.PlacementEvictionAndRetirement : Prop :=
  ∀ (s : Sys2Proof.Machine.State) (ls : Nat) (l : Sys2Proof.Machine.Launch) (die : Fin 4) (cl : Nat) (ch : Sys2Proof.PlaceChoice),
    (∀ r, Sys2Proof.Claims.OnlyLaunch s ls l → l.gang = none → l.evicted = false → l.nextGroup < l.packet.groups →
      l.packet.groups * l.packet.actors ≤ 2 ^ 24 → ls < 256 → (∀ m, (Sys2Proof.Machine.actorOf l m).mooring = []) →
      Sys2Proof.Machine.nextDie s l = some (die.val, cl :: r) → Sys2Proof.Machine.choiceOk s l.packet cl ch = true →
      Sys2Proof.Claims.leads s (.groupPlacement ls die [ch]) fun u => ∃ cs,
        Sys2Proof.Claims.SetUp u ls l l.nextGroup cl cs ch ∧ u.hub.rotation = (die.val + 1) % 4) ∧
    (∀ (c : Sys2Proof.CtxId), let x := Sys2Proof.Machine.getCtx s c
      c.slot < 16 → x.state = .idle ∨ x.state = .ready ∨ x.state = .faulted →
      Sys2Proof.Machine.launchAt s x.ident.lslot.toNat = some l → l.evicting = true →
      (∀ o ∈ (Sys2Proof.Machine.getCluster s (c.cell / 4)).eme, o.stop = false) →
      Sys2Proof.Claims.leads s (.contextEviction (.ctx c)) fun u => u.mem = s.mem ∧
        Sys2Proof.Machine.getCtx u c = { x with state := .evicted } ∧
        ∃ l' v, Sys2Proof.Machine.launchAt u x.ident.lslot.toNat = some l' ∧ l'.saved = l.saved ++ [v] ∧
          v.ctx = { x with state := if x.state = .faulted then .faulted else .idle } ∧
          v.frame.length = x.grants.frameSize ∧
          (∀ i, i < x.grants.frameSize → v.frame[i]? = some (Sys2Proof.Machine.readByte s.mem
            (Sys2Proof.Machine.storeKey (Sys2Proof.Machine.ownModule s) (c.cell / 4) (x.grants.frameOff + i)))) ∧
          (Sys2Proof.Machine.actorOf l' (x.ident.root.toNat % 2 ^ 24)).place = .evicted) ∧
    (∀ g gi c, s.hub.launches = [(ls, l)] → l.gang = none → l.evicting = true → l.groups = [(gi, g)] → g.retired = false →
      g.ctxs = [c] → (Sys2Proof.Machine.getCtx s c).state = .evicted → (∀ p ∈ s.ctxs, 16 ≤ p.1 % 32 → p.2.state ≠ .running) →
      (∀ p ∈ s.cells, p.2.returns = [] ∧ p.2.arrivals = [] ∧ p.2.returnWait = []) → l.sov = [] →
      Sys2Proof.Claims.leads s (.evictionSharedSave ls []) fun u =>
        (Sys2Proof.Machine.getCtx u c).state = .free ∧
        ∃ l' sg, Sys2Proof.Machine.launchAt u ls = some l' ∧ l'.evicting = false ∧ l'.evicted = true ∧ l'.groups = [] ∧
          l'.savedGroups = l.savedGroups ++ [sg] ∧ sg.group = gi ∧ sg.scratch.length = l.packet.scratch ∧
          ∀ i, i < l.packet.scratch → sg.scratch[i]? = some (Sys2Proof.Machine.readByte s.mem
            (Sys2Proof.Machine.storeKey (Sys2Proof.Machine.ownModule s) g.cluster (g.scratchOff + i)))) ∧
    (∀ r sg (v : Sys2Proof.Machine.SavedCtx), Sys2Proof.Claims.OnlyLaunch s ls l → l.gang = none → l.evicted = true →
      l.packet.actors = 1 → l.groups = [] → l.savedGroups = [sg] → l.saved = [v] → v.group = sg.group → v.member = 0 → v.ops = [] →
      v.transfers = [] → v.ctx.state = .idle → sg.scratch.length = l.packet.scratch → v.frame.length = 64 * l.packet.frame →
      (∀ m, (Sys2Proof.Machine.actorOf l m).mooring = []) → l.strandMooring = [] →
      v.ctx.routines[1].getLsbD 0 = false →
      Sys2Proof.Machine.nextDie s l = some (die.val, cl :: r) → Sys2Proof.Machine.choiceOk s l.packet cl ch = true →
      Sys2Proof.Claims.leads s (.rePlacement ls die [ch]) fun u => ∃ (c : Sys2Proof.CtxId) (l' : Sys2Proof.Machine.Launch),
        c.cell = cl * 4 ∧ c.slot < 16 ∧ Sys2Proof.Machine.launchAt u ls = some l' ∧ l'.evicted = false ∧ l'.savedGroups = [] ∧
        (Sys2Proof.Machine.actorOf l' sg.group).place = .at c ∧
        (∃ g, Sys2Proof.Machine.tfind l'.groups sg.group = some g ∧ g.ctxs = [c] ∧ g.cluster = cl) ∧
        let y := Sys2Proof.Machine.getCtx u c
        y.state = Sys2Proof.Claims.readyOrIdle v.ctx ∧ y.regs = v.ctx.regs ∧ y.fstat = v.ctx.fstat ∧ y.frm = v.ctx.frm ∧
        y.mailboxes = v.ctx.mailboxes ∧ y.notices = v.ctx.notices ∧ y.tag = v.ctx.tag ∧ y.shadows = v.ctx.shadows ∧
        y.strands = v.ctx.strands ∧ y.spawnlim = v.ctx.spawnlim ∧ y.ident = v.ctx.ident ∧
        ∀ i, i < 64 * l.packet.frame → some (Sys2Proof.Machine.readByte u.mem
          (Sys2Proof.Machine.storeKey (Sys2Proof.Machine.ownModule s) cl (ch.frameOffs.getD 0 0 + i))) = v.frame[i]?) ∧
    (∀ g gi c, s.hub.launches = [(ls, l)] → l.gang = none → l.cancelled = false → l.reserved = false → l.groups = [(gi, g)] →
      g.retired = false → g.ctxs = [c] → l.packet.groups ≤ l.nextGroup → l.savedGroups = [] →
      (Sys2Proof.Machine.getCtx s c).state = .ended → (Sys2Proof.Machine.getCtx s c).sec.buffer = [] →
      (Sys2Proof.Machine.getCluster s (c.cell / 4)).eme = [] → (Sys2Proof.Machine.getCluster s (c.cell / 4)).transfers = [] →
      (∀ k ∈ s.cells, k.2.regq = []) → s.gwq = [] → Sys2Proof.Machine.unpropagated s c.cell (.ctx c) = false →
      Sys2Proof.Machine.completionWaits (Sys2Proof.Machine.freeGroup s ls gi g) l.packet = false →
      Sys2Proof.Claims.leads s (.groupRetirement ls gi [] []) fun u =>
        Sys2Proof.Machine.launchAt u ls = none ∧ (Sys2Proof.Machine.getCtx u c).state = .free)

namespace Sys2Proof.Claims
open Sys2Proof.Machine

/-- The gang of a launch. -/
def GangIs (u : State) (ls : Nat) (p : Gang → Prop) : Prop := ∃ l g, launchAt u ls = some l ∧ l.gang = some g ∧ p g

/-- A word on the control channel goes to a module, unless it is this one (Table 21.1). -/
def Told (s u : State) (m : Nat) (w : CtlMsg) : Prop :=
  u.hub.ctlOut = if m = ownModule s then s.hub.ctlOut else s.hub.ctlOut ++ [(m, w)]

/-- What a reservation held is free: the launch has no groups but retired ones (R381). -/
def Unheld (u : State) (ls : Nat) : Prop := ∃ l, launchAt u ls = some l ∧ l.reserved = false ∧ ∀ e ∈ l.groups, e.2.retired = true

/-- No effect of the context's section is on its way out (R181). -/
def NotReleasing (x : Ctx) : Prop := x.sec.commit = none ∧ (x.sec.irrevocable = false ∨ x.sec.buffer = [])

/-- The gateway queue to a peer has a Keystone request at its head, and what follows (R401). -/
def ShareHead (s : State) (b : Nat) (r : KeyReq) (rest : List GwEntry) : Prop :=
  b ≠ ownModule s ∧ gwEntries s (.module (ownModule s) b) = .share r :: rest

/-- The request has left its queue, and the reply is the last entry of the queue back. -/
def Replied (s u : State) (b : Nat) (r : KeyReq) (rest : List GwEntry) (v : Word) : Prop :=
  gwEntries u (.module (ownModule s) b) = rest ∧
  gwEntries u (.module b (ownModule s)) = gwEntries s (.module b (ownModule s)) ++ [.shareReply r v]

end Sys2Proof.Claims

/-- R381: a request that names a gang of this module is answered and changes no context and no memory; a module with a free slot and room
for all groups holds both and answers yes, and without room it keeps no slot and answers no. An answer that is not the last is noted; the
last one, all being yes, commits the gang and tells the others, and a no among all of them frees what the coordinator held. A commit that
is due sets up a group that was held, and the window with KSHARE is ACTIVE; on abandon what was held is free, and the slot of a gang
never placed. R382: a peer's dispatcher has a gang evicted. R404: a departed member collapses the window; requests not answered trap,
unless effects are on their way out. -/
def Sys2Proof.Claims.GangsReserveAndCommit : Prop :=
  ∀ (s : Sys2Proof.Machine.State) (ls : Nat) (l : Sys2Proof.Machine.Launch) (g : Sys2Proof.Machine.Gang),
    (∀ req, Sys2Proof.Machine.requestOk s req = true →
      Sys2Proof.Claims.leads s (.gangReserve req) (fun u => u.ctxs = s.ctxs ∧ u.mem = s.mem) ∧
      ∀ n, Sys2Proof.Machine.gangLaunch s req = none → Sys2Proof.Claims.LowestFree s n →
        let new := Sys2Proof.Machine.requestLaunch s n req
        let t := Sys2Proof.Machine.modHub s fun h => { h with launches := Sys2Proof.Machine.tput h.launches n new }
        (∀ f, Sys2Proof.Machine.fitAll t new (Sys2Proof.Machine.dieOrder t) new.packet.groups = some f →
          Sys2Proof.Claims.leads s (.gangReserve req) fun u =>
            Sys2Proof.Claims.Told s u req.coordinator (.answer req.gangId req.member (.yes n)) ∧
            ∃ l', Sys2Proof.Machine.launchAt u n = some l' ∧ l'.reserved = true ∧ l'.packet = new.packet ∧
              ∀ i cl, f[i]? = some cl → ∃ gr, Sys2Proof.Machine.tfind l'.groups i = some gr ∧ gr.cluster = cl ∧
                gr.ctxs.length = new.packet.actors) ∧
        (Sys2Proof.Machine.fitAll t new (Sys2Proof.Machine.dieOrder t) new.packet.groups = none →
          Sys2Proof.Claims.leads s (.gangReserve req) fun u => u.hub.launches = s.hub.launches ∧
            Sys2Proof.Claims.Told s u req.coordinator (.answer req.gangId req.member .no) ∧
            u.hub.gangWaits = s.hub.gangWaits ++ [(req.coordinator, req.gangId, req.member)])) ∧
    (Sys2Proof.Machine.launchAt s ls = some l → l.gang = some g →
      (∀ m, g.coordinator = true → l.cancelled = false → m < g.modules.length → m ≠ g.member → m ∉ g.departed →
        let open_ := g.asked = true ∧ ∀ b, (m, b) ∉ g.answers
        let last := ∀ k, k < g.modules.length → k ≠ m → k ∈ g.departed ∨ ∃ b, (k, b) ∈ g.answers
        let yes := fun (slot : Nat) => { g with answers := g.answers ++ [(m, true)], slots := Sys2Proof.Machine.setAt g.slots m slot }
        let leaves := fun (a : Sys2Proof.GangAnswer) (g' : Sys2Proof.Machine.Gang) =>
          Sys2Proof.Machine.exec (.gangReserveAnswer ls m a) s = .next (Sys2Proof.Machine.modLaunch s ls fun x => { x with gang := some g' })
        leaves .freed { g with blocked := false } ∧
        (∀ slot, open_ → ¬ last → leaves (.yes slot) (yes slot)) ∧
        (open_ → ¬ last → leaves .no { g with answers := g.answers ++ [(m, false)] }) ∧
        (∀ slot, open_ → last → (∀ a ∈ g.answers, a.2 = true) →
          Sys2Proof.Claims.leads s (.gangReserveAnswer ls m (.yes slot)) fun u => u.ctxs = s.ctxs ∧ u.mem = s.mem ∧
            Sys2Proof.Claims.GangIs u ls (fun g' => g' = { yes slot with committed := true, asked := false }) ∧
            ∀ k, k < g.modules.length → k ≠ g.member → k ∉ g.departed → g.modules.getD k 0 ≠ Sys2Proof.Machine.ownModule s →
              (g.modules.getD k 0, .commit l.packet.gangid (yes slot).slots) ∈ u.hub.ctlOut) ∧
        (open_ → last → Sys2Proof.Claims.leads s (.gangReserveAnswer ls m .no) fun u => u.ctxs = s.ctxs ∧
          Sys2Proof.Claims.GangIs u ls (fun g' => g' = { g with answers := [], asked := false, blocked := true }) ∧
          (l.reserved = true → Sys2Proof.Claims.Unheld u ls))) ∧
      (l.reserved = true → g.coordinator = false → Sys2Proof.Claims.leads s (.gangAbandon ls) fun u => u.ctxs = s.ctxs ∧
        u.hub.gangWaits = s.hub.gangWaits ++ [(g.chief, l.packet.gangid, g.member)] ∧
        (l.evicted = false → Sys2Proof.Machine.launchAt u ls = none) ∧ (l.evicted = true → Sys2Proof.Claims.Unheld u ls)) ∧
      (g.committed = true → l.reserved = false → l.evicting = false → l.evicted = false → l.cancelled = false →
        (Sys2Proof.Machine.beginEviction s ls l).isSome = true →
        Sys2Proof.Claims.leads s (.contextEviction (.request ls)) fun u => u.mem = s.mem ∧ u.ctxs = s.ctxs ∧
          ∃ l', Sys2Proof.Machine.launchAt u ls = some l' ∧ l'.evicting = true ∧ l'.evictions = l.evictions + 1) ∧
      (∀ departed cause, departed < g.modules.length → departed ≠ g.member → g.committed = true → departed ∉ g.departed →
        cause ≠ 0 →
        Sys2Proof.Claims.leads s (.windowCollapse ls departed cause) fun u =>
          Sys2Proof.Claims.GangIs u ls (fun g' => g'.state = 3 ∧ g'.departed = g.departed ++ [departed] ∧
            g'.cause = (if g.departed = [] then cause.val else g.cause)) ∧
          (∀ a, a < l.packet.groups * l.packet.actors → (Sys2Proof.Machine.actorOf l a).place ≠ .ended →
            ∃ n ∈ u.hub.notices, n.msg.cls = 3 ∧ n.msg.payload = [BitVec.ofNat 64 departed, BitVec.ofNat 64 cause.val] ∧
              n.dest = BitVec.ofNat 40 (Sys2Proof.Machine.ownModule s * 2 ^ 32 + ls * 2 ^ 24 + a)) ∧
          ∀ (c : Sys2Proof.CtxId), let x := Sys2Proof.Machine.getCtx s c
            c.slot < 16 → x.state = .running → x.ident.lslot.toNat = ls → (∃ p ∈ x.loads, p.window = true ∧ p.value = none) →
            Sys2Proof.Claims.NotReleasing x → (Sys2Proof.Machine.getCtx u c).state = .faulted)) ∧
    (∀ gi gr cs slots ch, s.hub.launches = [(ls, l)] → l.gang = some g → Sys2Proof.Machine.commitReady l g = true →
      l.reserved = true → l.evicted = false → l.savedGroups = [] → ls < 256 → l.packet.csmode = 0 → 1 ≤ l.packet.actors →
      l.packet.actors ≤ 16 → l.packet.groups * l.packet.actors ≤ 2 ^ 24 → gi < l.packet.groups → l.groups = [(gi, gr)] →
      gr.ctxs = cs → gr.retired = false → cs.length = l.packet.actors →
      (∀ (m : Nat) (c : Sys2Proof.CtxId), cs[m]? = some c →
        c.cell = gr.cluster * 4 + m % 4 ∧ c.slot < 16 ∧ (Sys2Proof.Machine.getCtx s c).state = .free) → cs.Nodup →
      (∀ m, (Sys2Proof.Machine.actorOf l m).mooring = []) →
      let s1 := Sys2Proof.Machine.modLaunch s ls fun k =>
        { k with reserved := false, gang := some (Sys2Proof.Machine.committedGang l g ls slots) }
      ∀ s2, Sys2Proof.Machine.storeGangSlot s1 ls l g = some s2 → Sys2Proof.Machine.choiceOk s2 l.packet gr.cluster ch = true →
        Sys2Proof.Claims.leads s (.gangCommit ls slots [ch]) fun u =>
          Sys2Proof.Claims.SetUp u ls l gi gr.cluster cs ch ∧
          Sys2Proof.Claims.GangIs u ls fun g' => g'.committed = true ∧ g'.state = if l.packet.kshare = 0 then 0 else 1)

/-- R401, R404: a request to a peer's share leaves its queue and is served there: a store is merged into its word, a load or atomic is
answered on the queue back with the word it met, which a peer may name; where the window is known to have collapsed nothing is served. A
reply that arrives is the load's value. A peer's load of this member's share is answered with the word, and its store is merged, or,
after a collapse, discarded and counted. R409, R410: the only participant's contribution is its result; a peer member's joins the
count. -/
def Sys2Proof.Claims.WindowServesAndReduces : Prop :=
  ∀ (s : Sys2Proof.Machine.State) (l : Sys2Proof.Machine.Launch) (b : Nat),
    let own := Sys2Proof.Machine.ownModule s
    let out : Sys2Proof.GwId := .module own b
    let back : Sys2Proof.GwId := .module b own
    (∀ r rest, Sys2Proof.Claims.ShareHead s b r rest →
      (Sys2Proof.Machine.collapsed s r.lslot = true → Sys2Proof.Claims.leads s (.keystoneRequestServe out none) fun u =>
        Sys2Proof.Machine.gwEntries u out = rest ∧ u.mem = s.mem ∧ u.ctxs = s.ctxs) ∧
      (Sys2Proof.Machine.collapsed s r.lslot = false →
        (∀ w, r.store = some w → w.addr % 8 = 0 → Sys2Proof.Machine.keySpace w.addr = 2 →
          Sys2Proof.Claims.leads s (.keystoneRequestServe out none) fun u => Sys2Proof.Machine.gwEntries u out = rest ∧
            Sys2Proof.Claims.Merged s.mem u.mem w ∧ u.ctxs = s.ctxs) ∧
        (r.store = none → r.atomic = none → Sys2Proof.Claims.leads s (.keystoneRequestServe out none) fun u =>
          Sys2Proof.Claims.Replied s u b r rest (Sys2Proof.Machine.readWord s.mem r.addr) ∧ u.mem = s.mem ∧ u.ctxs = s.ctxs) ∧
        (∀ a, r.store = none → r.atomic = some a → Sys2Proof.Machine.keySpace a.byteAddr = 2 →
          Sys2Proof.Claims.leads s (.keystoneRequestServe out none) fun u => u.ctxs = s.ctxs ∧
            Sys2Proof.Claims.Replied s u b r rest (BitVec.ofNat 64 (Sys2Proof.Machine.readLE s.mem a.byteAddr a.size)))) ∧
      (∀ v, r.store = none → r.atomic = none → r.addr % 8 = 0 →
        Sys2Proof.Claims.leads s (.keystoneRequestServe out (some (.word v))) fun u =>
          Sys2Proof.Claims.Replied s u b r rest v ∧ u.ctxs = s.ctxs)) ∧
    (∀ r v rest p d, b ≠ own → Sys2Proof.Machine.gwEntries s back = .shareReply r v :: rest → r.origin = .ctx r.ctx →
      r.atomic = none → (Sys2Proof.Machine.getCtx s r.ctx).loads = [p] → p.id = r.id → p.dest = .x d 8 false → p.byteOff = 0 →
      p.haveMask = 0 → Sys2Proof.Claims.leads s (.gatewayQueueDelivery back none) fun u =>
        Sys2Proof.Machine.gwEntries u back = rest ∧ u.mem = s.mem ∧
        (Sys2Proof.Machine.getCtx u r.ctx).loads = [{ p with value := some v }]) ∧
    (∀ ls off g gr, b ≠ own → Sys2Proof.Machine.gwEntries s back = [] → Sys2Proof.Machine.launchAt s ls = some l → l.gang = some g →
      b ∈ g.modules → l.evicted = false → Sys2Proof.Machine.tfind l.groups 0 = some gr →
      let a := Sys2Proof.Machine.storeKey own gr.cluster gr.scratchOff + off / 8 * 8
      (g.state ≠ 3 → Sys2Proof.Claims.leads s (.keystoneRequestServe back (some (.shareLoad ls off))) fun u => u.mem = s.mem ∧
        u.ctxs = s.ctxs ∧ ∃ r, Sys2Proof.Machine.gwEntries u out =
          Sys2Proof.Machine.gwEntries s out ++ [.shareReply r (Sys2Proof.Machine.readWord s.mem a)]) ∧
      (∀ mask data, a % 8 = 0 →
        Sys2Proof.Claims.leads s (.keystoneRequestServe back (some (.shareStore ls off mask data))) fun u => u.ctxs = s.ctxs ∧
          if g.state = 3 then u.mem = s.mem ∧ u.hub.keystoneDiscards = s.hub.keystoneDiscards + 1
          else Sys2Proof.Claims.Merged s.mem u.mem { addr := a, mask := mask, data := data })) ∧
    (∀ con q (c : Sys2Proof.CtxId), s.hub.nreds = con :: q → con.typ = 2 → con.rank = 0 →
      Sys2Proof.Machine.launchAt s con.lslot = some l → l.gang = none → l.packet.groups = 1 → l.packet.actors = 1 →
      Sys2Proof.Machine.tfind l.reductions con.n.val = none → (Sys2Proof.Machine.actorOf l 0).place = .at c →
      Sys2Proof.Claims.leads s (.nredContributionArrival 0 none []) fun u => u.hub.nreds = q ∧ u.ctxs = s.ctxs ∧
        Sys2Proof.Machine.readLE u.mem (Sys2Proof.Machine.storeKey own (c.cell / 4) con.dstOff) 256 = con.data.toNat ∧
        ∃ n ∈ u.hub.notices, n.msg.cls = 2 ∧ n.msg.payload = [BitVec.ofNat 64 (con.n.val + 0x500), 0, 0]) ∧
    (∀ con i plan g, Sys2Proof.Machine.launchAt s con.lslot = some l → l.gang = some g → 1 ≤ l.packet.groups * l.packet.actors →
      let m := con.rank / (l.packet.groups * l.packet.actors)
      m < g.modules.length → m ≠ g.member → Sys2Proof.Machine.rankEnded l con.rank = false →
      g.member < g.modules.length → g.member ∉ g.departed → Sys2Proof.Machine.tfind l.reductions con.n.val = none →
      (∃ k, k < l.packet.groups * l.packet.actors ∧ (Sys2Proof.Machine.actorOf l k).place ≠ .ended) →
      Sys2Proof.Claims.leads s (.nredContributionArrival i (some con) plan) fun u => u.ctxs = s.ctxs ∧ u.mem = s.mem ∧
        u.hub.nreds = s.hub.nreds ∧ ∃ l' r, Sys2Proof.Machine.launchAt u con.lslot = some l' ∧
          Sys2Proof.Machine.tfind l'.reductions con.n.val = some r ∧ r.contributions = [con])

/-- GangsReserveAndCommit and WindowServesAndReduces. -/
def Obligations.GangsAndTheirWindow : Prop := Sys2Proof.Claims.GangsReserveAndCommit ∧ Sys2Proof.Claims.WindowServesAndReduces

namespace Sys2Proof.Claims
open Sys2Proof.Machine

/-! ## Links and the device -/

/-- The partner of port p lies in the domain (R390). -/
def PortUsed (h : Hub) (p : Nat) : Prop :=
  let other := fun (own k : Nat) => if k < own then k else k + 1
  if p < 15 then other h.modCol.toNat p ≤ h.colsM1.toNat ∧ h.modRow.toNat ≤ h.rowsM1.toNat
  else other h.modRow.toNat (p - 15) ≤ h.rowsM1.toNat ∧ h.modCol.toNat ≤ h.colsM1.toNat

/-- The move changes port p alone, to one that satisfies `f`. -/
def portMove (s : State) (i : Instr) (p : Fin 30) (f : Port → Prop) : Prop :=
  leads s i fun u => f u.hub.ports[p] ∧ (∀ k : Fin 30, k ≠ p → u.hub.ports[k] = s.hub.ports[k]) ∧ u.mem = s.mem ∧ u.ctxs = s.ctxs

/-- The last pair's counter (R398). -/
def lastCounter : Nat := 2 ^ 48 - 2

/-- The data flits of a unit, flit 0 first. -/
def carried (w : WireUnit) (plain : BitVec 1024) : List (BitVec 512) :=
  (if w.kind0 = 0 then [plain.extractLsb' 0 512] else []) ++ (if w.kind1 = 0 then [plain.extractLsb' 512 512] else [])

/-- The link header of a sealed pair: SEALED, the kinds, ten zero bits, PSEQ. -/
def header (w : WireUnit) : BitVec 32 :=
  (1 : BitVec 1) ++ BitVec.ofNat 2 w.kind0.val ++ BitVec.ofNat 2 w.kind1.val ++ (0 : BitVec 11) ++ w.pseq

/-- A direction that runs: the port is up, its key is there, and it does not wait for one. -/
def Sends (x : Port) : Prop := x.up = true ∧ x.out.key.isSome = true ∧ x.out.keywait = false

/-- A port that may send a control flit, in class 1 of CTL: it sends, is not at its key's last pair, and has a place within CTL's limit
beside the two that each other class keeps (R393, R395, R398). -/
def SendsControl (x : Port) : Prop :=
  Sends x ∧ x.out.counter ≠ lastCounter ∧ x.inFlight.length = 6 ∧ x.limits.length = 6 ∧ x.inClass.length = 24 ∧
  x.inFlight.getD 3 0 + 1 + (2 - x.inClass.getD 13 0) + (2 - x.inClass.getD 14 0) + (2 - x.inClass.getD 15 0) ≤ x.limits.getD 3 0

/-- The port after a control flit: a sealed pair of it and an idle flit is on the wire, has taken two counters, and holds a place on
CTL. -/
def SentControl (x : Port) (f : LinkCtl) (y : Port) : Prop :=
  ∃ w : WireUnit, w.sealed = true ∧ w.kind0 = 1 ∧ w.kind1 = 2 ∧ w.pseq = BitVec.ofNat 16 (x.out.counter / 2) ∧
    (∃ k plain, x.out.key = some k ∧
      (w.cipher, w.tag) = Sys2Proof.Config.gcmSeal k (x.out.salt ++ BitVec.ofNat 48 x.out.counter) (header w) plain) ∧
    y = { x with ctlSent := x.ctlSent ++ [f], out := { x.out with counter := x.out.counter + 2 }, wire := x.wire ++ [w],
                 inFlight := x.inFlight.set 3 (x.inFlight.getD 3 0 + 1), inClass := x.inClass.set 12 (x.inClass.getD 12 0 + 1) }

/-- Nothing waits for the port: no packet, no credit, no rest of a packet; and no packet waits for a route. -/
def NothingWaits (s : State) (x : Port) : Prop := x.outQ = [] ∧ x.ctlQ = [] ∧ x.cutOff = [] ∧ s.hub.noRoute = []

/-- The module at the other end of a port (R390). -/
def partnerModule (s : State) (p : Nat) : Nat := (partnerOf s.hub p).1 * 16 + (partnerOf s.hub p).2

/-- Flits of a channel in the input buffer (R395). -/
def occupied (x : Port) (ch : Nat) : Nat := ((x.inBuf.filter fun q => q.channel.val == ch).map fun q => q.flits.length).sum

/-- Flits of a receiver's buffer that are announced, free to be lent, or on their way back to the pool (R395). -/
def bufferFlits (x : Port) : Nat := x.announced.sum + x.pool + (x.waiting.map (·.freed)).sum

/-- The sealed unit that a receiving direction takes next (R398). -/
def DueUnit (s : State) (p : Fin 30) (w : WireUnit) (k : BitVec 256) : Prop :=
  let x := s.hub.ports[p]
  PortUsed s.hub p.val ∧ x.up = true ∧ x.inn.key = some k ∧ x.inn.keywait = false ∧ w.sealed = true ∧
  w.pseq.toNat = x.inn.counter / 2 % 2 ^ 16 ∧ x.inn.counter < 2 ^ 48

/-- A packet for this module that R391 and R395 let come in by a port with these flits accepted. -/
def ComesIn (s : State) (x : Port) (flits : List (BitVec 512)) (q : RyPacket) : Prop :=
  1 ≤ q.flits.length ∧ q.flits.length ≤ 4 ∧ q.src ≠ ownModule s ∧ q.dst = ownModule s ∧ q.route = [] ∧
  (∃ r, flits = q.flits ++ r) ∧ occupied x q.channel.val + q.flits.length ≤ x.announced.getD q.channel.val 0

end Sys2Proof.Claims

/-- R391, R398: the sealed unit that is due is opened under the salt and counter: authentic, its data flits are accepted in order and the
counter goes two on; damaged, it is asked for again, and the link goes down at the 64th failure. R394: a packet for this module that the
flits make up is delivered if it is the next of its pair and channel, and waits if it is not. R395: a LEND gives each channel its share,
and loses no flit of the buffer; at the sender it sets the limits unless it is stale, and is acknowledged; acknowledged and drained, freed
flits join the pool; a credit lowers its counts. R398, R399, R429: the last pair switches to the next key or ends in KEYWAIT; an installed
key starts at 0, or waits as the next. R397: a vector that comes for another module is held, its reserved bits zero,
and, when it is new, relayed to the partners of the open ports. R390: a lost link is
down. A LEND, a credit and a key also start what waits for the link; here nothing does. -/
def Obligations.RyoftLinks : Prop :=
  ∀ (s : Sys2Proof.Machine.State) (p : Fin 30), let x := s.hub.ports[p]
    (∀ (w : Sys2Proof.WireUnit) k, Sys2Proof.Claims.DueUnit s p w k →
      let opened := Sys2Proof.Config.gcmOpen k (x.inn.salt ++ BitVec.ofNat 48 x.inn.counter) (Sys2Proof.Claims.header w) w.cipher w.tag
      (∀ plain, opened = some plain → x.inn.counter ≠ Sys2Proof.Claims.lastCounter →
        let flits := x.received ++ Sys2Proof.Claims.carried w plain
        Sys2Proof.Claims.portMove s (.flitReceive p w .none) p (fun y =>
          y = { x with inn := { x.inn with counter := x.inn.counter + 2 }, failures := 0, nak := x.nak.filter (fun n => n ≠ w.pseq),
                       received := flits }) ∧
        ∀ q, Sys2Proof.Claims.ComesIn s x flits q → s.hub.reorder = [] →
          Sys2Proof.Claims.leads s (.flitReceive p w (.packets [q])) fun u => u.mem = s.mem ∧ u.ctxs = s.ctxs ∧
            if Sys2Proof.Machine.tget s.hub.recvSeq 0 (q.src * 8 + q.channel.val) = q.seq
            then u.hub.inbox = s.hub.inbox ++ [q] ∧ u.hub.reorder = [] ∧
              Sys2Proof.Machine.tget u.hub.recvSeq 0 (q.src * 8 + q.channel.val) = q.seq + 1
            else u.hub.inbox = s.hub.inbox ∧ u.hub.reorder = [q]) ∧
      (∀ plain key salt, opened = some plain → x.inn.counter = Sys2Proof.Claims.lastCounter → x.inn.nextKey = some (key, salt) →
        Sys2Proof.Claims.leads s (.flitReceive p w .none) fun u =>
          u.hub.ports[p].inn = { key := some key, salt := salt, nextKey := none, counter := 0, keywait := false }) ∧
      (opened = none → w.pseq ∉ x.nak → x.failures < 64 →
        Sys2Proof.Claims.portMove s (.flitReceive p w .none) p fun y => y = { x with nak := x.nak ++ [w.pseq] }) ∧
      (opened = none → w.pseq ∈ x.nak → x.failures = 63 →
        Sys2Proof.Claims.leads s (.flitReceive p w .none) fun u => u.hub.ports[p].up = false)) ∧
    (∀ occ, occ = (List.range 6).map (Sys2Proof.Claims.occupied x) → 0 < occ.sum → Sys2Proof.Claims.SendsControl x → x.announced.length = 6 →
      Sys2Proof.Claims.leads s (.lendPeriod p) fun u => let y := u.hub.ports[p]
        y.lendSeq = x.lendSeq + 1 ∧ y.ctlSent = x.ctlSent ++ [.lend x.lendSeq y.announced] ∧ y.announced.length = 6 ∧
        Sys2Proof.Claims.bufferFlits y = Sys2Proof.Claims.bufferFlits x ∧ y.out.counter = x.out.counter + 2 ∧
        ∀ ch : Fin 6, let target := 8 + 208 * occ.getD ch 0 / occ.sum
          (target < x.announced.getD ch 0 → y.announced.getD ch 0 = target) ∧
          (x.announced.getD ch 0 ≤ target → x.announced.getD ch 0 ≤ y.announced.getD ch 0 ∧ y.announced.getD ch 0 ≤ target)) ∧
    (∀ seq limits, Sys2Proof.Claims.SendsControl x → Sys2Proof.Claims.NothingWaits s x →
      limits.length = 6 → (∀ n ∈ limits, 8 ≤ n) → limits.sum ≤ 256 →
      ((∀ n, x.lendApplied = some n → n ≤ seq) → Sys2Proof.Claims.portMove s (.lendReceived p seq limits) p
        (Sys2Proof.Claims.SentControl { x with limits := limits, lendApplied := some seq } (.ack seq))) ∧
      (∀ n, x.lendApplied = some n → seq < n → Sys2Proof.Claims.portMove s (.lendReceived p seq limits) p
        (Sys2Proof.Claims.SentControl x (.ack seq)))) ∧
    (∀ seq ch limit freed, x.up = true → seq < x.lendSeq → ch < 6 →
      x.waiting = [{ seq := seq, channel := ch, limit := limit, freed := freed, acked := false }] →
      Sys2Proof.Claims.portMove s (.lendAckReceived p seq) p fun y =>
        y = if Sys2Proof.Claims.occupied x ch < limit then { x with pool := x.pool + freed, waiting := [] }
          else { x with waiting := [{ seq := seq, channel := ch, limit := limit, freed := freed, acked := true }] }) ∧
    (∀ (ch : Fin 6) (cls : Fin 4), x.up = true → 0 < x.inFlight.getD ch 0 → 0 < x.inClass.getD (4 * ch.val + cls.val) 0 →
      Sys2Proof.Claims.NothingWaits s x → Sys2Proof.Claims.portMove s (.creditReturn p ch cls) p fun y =>
        y = { x with inFlight := x.inFlight.set ch (x.inFlight.getD ch 0 - 1),
                     inClass := x.inClass.set (4 * ch.val + cls.val) (x.inClass.getD (4 * ch.val + cls.val) 0 - 1) }) ∧
    (Sys2Proof.Claims.Sends x → x.out.counter = Sys2Proof.Claims.lastCounter → x.inFlight.getD 3 0 < x.limits.getD 3 0 →
      (∀ k salt, x.out.nextKey = some (k, salt) → Sys2Proof.Claims.NothingWaits s x →
        Sys2Proof.Claims.portMove s (.keySwitch p) p fun y => ∃ z, Sys2Proof.Claims.SentControl x .keySwitch z ∧
          y = { z with out := { key := some k, salt := salt, nextKey := none, counter := 0, keywait := false } }) ∧
      (x.out.nextKey = none → Sys2Proof.Claims.leads s (.keySwitch p) fun u =>
        u.hub.ports[p].out.keywait = true ∧
        u.hub.ports[p].ctlSent = x.ctlSent ++ [.keyFinal Sys2Proof.Claims.lastCounter] ∧
        ∃ r ∈ u.hub.records, r.code = 26 ∧ r.unit = 5 ∧ r.asid = 0 ∧ r.cursor = BitVec.ofNat 64 Sys2Proof.Claims.lastCounter ∧
          r.unitIdx = s.hub.modRow ++ s.hub.modCol ++ BitVec.ofNat 8 p.val)) ∧
    (∀ sending k salt, Sys2Proof.Claims.PortUsed s.hub p.val → p.val ∉ s.hub.outPorts → Sys2Proof.Claims.NothingWaits s x →
      let d := if sending then x.out else x.inn
      let new : Sys2Proof.Machine.LinkDir := if x.up = true ∧ d.key.isSome = true ∧ d.keywait = false then { d with nextKey := some (k, salt) }
        else { key := some k, salt := salt, nextKey := none, counter := 0, keywait := false }
      Sys2Proof.Claims.portMove s (.linkKeyInstall p sending k salt) p fun y =>
        y = if sending then { x with out := new } else { x with inn := new }) ∧
    (∀ m vec, m / 16 ≤ s.hub.rowsM1.toNat → m % 16 ≤ s.hub.colsM1.toNat → m ≠ Sys2Proof.Machine.ownModule s →
      let v := vec &&& 0x03FF1FFF
      Sys2Proof.Claims.leads s (.capabilityRelay m vec) fun u => u.mem = s.mem ∧ u.ctxs = s.ctxs ∧
        Sys2Proof.Machine.tfind u.hub.caps m = some v ∧
        ∀ q : Fin 30, Sys2Proof.Machine.portOpen s q.val = true → Sys2Proof.Claims.partnerModule s q.val ≠ m →
          Sys2Proof.Machine.tfind s.hub.caps m ≠ some v → (Sys2Proof.Claims.partnerModule s q.val, .capability m v) ∈ u.hub.ctlOut) ∧
    (x.up = true → (∀ e ∈ s.hub.launches, e.2.gang = none) →
      Sys2Proof.Claims.portMove s (.ryoftLinkLoss p) p fun y => y = { x with up := false })

namespace Sys2Proof.Claims
open Sys2Proof.Machine

/-- A journal record with these fields and a CRC over its first 28 bytes (Table 23.2). -/
def Journalled (r : BootRecord) (step outcome unit paramset boot detail : Nat) : Prop :=
  (r.extractLsb' 0 8).toNat = step ∧ (r.extractLsb' 8 8).toNat = outcome ∧ (r.extractLsb' 16 16).toNat = unit ∧
  (r.extractLsb' 32 8).toNat = paramset ∧ (r.extractLsb' 64 32).toNat = boot ∧ (r.extractLsb' 96 32).toNat = detail ∧
  (r.extractLsb' 224 32).toNat = crc32 ((List.range 28).map fun i => r.extractLsb' (8 * i) 8)

/-- The lists of marked-out units. -/
def marked (h : Hub) : List (List Nat) := [h.outMem, h.outLinks, h.outEther, h.outPorts, h.outClusters]

/-- Every image of a flash slot verifies (R427). -/
def Verifies (h : Hub) (k : Nat) : Prop :=
  ∃ b, h.flash[k]? = some b ∧ b.images.length = 8 ∧
    ∀ i ∈ b.images, i = [] ∨ Sys2Proof.Config.imageVerifies Sys2Proof.Config.rootKeyDigest i = true

end Sys2Proof.Claims

/-- R423 to R427: power-on begins step 1 with the boot count one higher; power loss keeps the flash and may spoil the last record; step 1
and step 8 end with a PASSED record; a first slot that verifies is measured and ends step 2; an attempt of an Ethernet port that passes
is PASSED, one that fails is FAILED, and a second is SKIPPED and marks the port out; a run-time FAILED record marks a cluster or a port
out at once, and a new beacon that is not FAILED is told to every hub of the domain; the journal is erased. -/
def Obligations.PowerBringUpAndMarks : Prop :=
  ∀ (s : Sys2Proof.Machine.State), let h := s.hub
    let boot := h.bootNo.toNat
    (s.power = false → Sys2Proof.Machine.exec .powerOn s =
      .next { s with power := true, hub := { h with bootNo := h.bootNo + 1, bootStep := 1 } }) ∧
    (∀ bad, Sys2Proof.Claims.leads s (.powerOff bad) fun u =>
      u.power = false ∧ u.mem = [] ∧ u.ctxs = [] ∧ u.cells = [] ∧ u.clusters = [] ∧ u.dies = [] ∧ u.hub.launches = [] ∧
      u.hub.flash = h.flash ∧ u.hub.bootNo = h.bootNo ∧
      (bad = false → u.hub.bootJournal = h.bootJournal) ∧
      (∀ j r, bad = true → h.bootJournal = j ++ [r] → ∃ r', u.hub.bootJournal = j ++ [r'] ∧
        r'.extractLsb' 0 224 = r.extractLsb' 0 224 ∧ r'.extractLsb' 224 32 ≠ r.extractLsb' 224 32)) ∧
    (h.bootJournal.length < 32768 →
      let grows := fun (u : Sys2Proof.Machine.State) (step outcome unit paramset detail : Nat) =>
        ∃ r, u.hub.bootJournal = h.bootJournal ++ [r] ∧ Sys2Proof.Claims.Journalled r step outcome unit paramset boot detail
      (∀ l sync d, h.bootStep = 1 → (0, true, d) ∈ l → Sys2Proof.Claims.leads s (.bringupStep l sync) fun u =>
        u.hub.bootStep = 2 ∧ grows u 1 0 0 0 0) ∧
      (∀ d sync, h.bootStep = 1 → Sys2Proof.Claims.leads s (.bringupStep [(0, false, d)] sync) fun u =>
        u.hub.bootStep = 0 ∧ grows u 1 1 0 0 d.toNat ∧ u.hub.beacon.extractLsb' 0 2 = 3) ∧
      (∀ l sync, h.bootStep = 8 → Sys2Proof.Claims.leads s (.bringupStep l sync) fun u =>
        u.hub.bootStep = 9 ∧ grows u 8 0 0 0 0 ∧ Sys2Proof.Claims.marked u.hub = Sys2Proof.Claims.marked h) ∧
      (∀ l sync b, h.bootStep = 2 → Sys2Proof.Claims.Verifies h 0 → h.flash[0]? = some b →
        Sys2Proof.Claims.leads s (.bringupStep l sync) fun u =>
          u.hub.bootStep = 3 ∧ u.hub.bootSlot = some 0 ∧ grows u 2 0 0 0 0 ∧
          ∀ i : Fin 8, let img := b.images.getD i []
            let d : BitVec 256 := if img = [] then 0 else Sys2Proof.Config.sha256 img
            u.hub.meas[i] = Sys2Proof.Config.sha256 ((List.range 32).map (fun j => h.meas[i].extractLsb' (8 * j) 8) ++
              (List.range 32).map fun j => d.extractLsb' (8 * j) 8)) ∧
      (∀ sync (e : Fin 2) (d d2 : Sys2Proof.Word32), h.bootStep = 5 → h.bootJournal = [] → h.outEther = [] →
        Sys2Proof.Claims.leads s (.bringupStep [(e.val, true, d)] sync) (fun u =>
          grows u 5 0 e.val 0 0 ∧ u.hub.outEther = [] ∧ u.hub.bootStep = 5) ∧
        Sys2Proof.Claims.leads s (.bringupStep [(0, true, d), (1, true, d2)] sync) (fun u =>
          u.hub.bootJournal.length = 2 ∧ u.hub.outEther = [] ∧ u.hub.bootStep = 6) ∧
        Sys2Proof.Claims.leads s (.bringupStep [(e.val, false, d), (e.val, false, d2)] sync) fun u =>
          u.hub.outEther = [e.val] ∧ u.hub.bootStep = 5 ∧ u.hub.beacon.extractLsb' 0 2 ≠ 0 ∧
          ∃ r r', u.hub.bootJournal = [r, r'] ∧ Sys2Proof.Claims.Journalled r 5 1 e.val 0 boot d.toNat ∧
            Sys2Proof.Claims.Journalled r' 5 2 e.val 1 boot d2.toNat) ∧
      (∀ n d, h.bootStep = 9 → n < 2 ^ 16 → Sys2Proof.Claims.leads s (.runtimeMarkOut (.cluster n) d) fun u =>
        grows u 7 1 n 0 d.toNat ∧ n ∈ u.hub.outClusters ∧ u.hub.beacon.extractLsb' 0 2 ≠ 0 ∧ u.mem = s.mem ∧ u.ctxs = s.ctxs ∧
        (u.hub.beacon ≠ h.beacon → u.hub.beacon.extractLsb' 0 2 ≠ 3 →
          ∀ r c : Nat, r ≤ h.rowsM1.toNat → c ≤ h.colsM1.toNat → r * 16 + c ≠ Sys2Proof.Machine.ownModule s →
            (r * 16 + c, .beacon u.hub.beacon) ∈ u.hub.ctlOut)) ∧
      (∀ (n : Nat) d (hn : n < 30), h.bootStep = 9 → Sys2Proof.Claims.leads s (.runtimeMarkOut (.port n) d) fun u =>
        grows u 6 1 n 0 d.toNat ∧ n ∈ u.hub.outPorts ∧ u.hub.ports[n].up = false ∧ u.hub.beacon.extractLsb' 0 2 ≠ 0)) ∧
    Sys2Proof.Machine.exec .journalErase s = .next { s with hub := { h with bootJournal := [] } }

/-- R428: the quote at its address has the fields of Table 23.4, signed over its first 304 bytes. R430: while the module's power exceeds its
limit, or the die is hot, the die goes one step of 100 MHz down to 1.2 GHz, and else one step up to 2.7 GHz. R374, R192: an RDMA write, or a service core's store, leaves its bytes in
memory and no other. R342: once a quiesced module's stores are in memory, a cluster's engine reads a chunk of memory, which leaves by an
Ethernet port, and memory stays. -/
def Obligations.QuotesThrottlingAndTheNetwork : Prop :=
  ∀ (s : Sys2Proof.Machine.State), let h := s.hub
    (∀ nonce pa k, h.bootSlot = some k → Sys2Proof.Machine.populated s pa 688 = true →
      Sys2Proof.Claims.leads s (.attestationQuote nonce pa) fun u => u.ctxs = s.ctxs ∧
        let at_ := fun (off n : Nat) => Sys2Proof.Machine.readLE u.mem (Sys2Proof.Machine.physKey s pa + off) n
        let body := (List.range 304).map fun i => Sys2Proof.Machine.readByte u.mem (Sys2Proof.Machine.physKey s pa + i)
        at_ 0 8 = h.devid.toNat ∧ at_ 8 32 = nonce.toNat ∧ (∀ i : Fin 8, at_ (40 + 32 * i.val) 32 = h.meas[i].toNat) ∧
        at_ 296 4 = h.bootNo.toNat ∧ at_ 300 4 = h.beacon.toNat % 2 ^ 32 ∧
        at_ 304 384 = (Sys2Proof.Config.identitySign (Sys2Proof.Config.sha256 body)).toNat) ∧
    (∀ (die : Fin 5) watts hot, let f := if die.val = 4 then h.hubFreq else (Sys2Proof.Machine.getDie s die.val).freq
      1200 ≤ f.toNat → f.toNat ≤ 2700 →
      let mustSlow := min 2400 (h.pwrlim.toNat % 2 ^ 12) < watts ∨ hot = true
      let g := if mustSlow then max 1200 (f.toNat - 100) else min 2700 (f.toNat + 100)
      Sys2Proof.Claims.leads s (.throttleStep die watts hot) fun u => u.mem = s.mem ∧ u.ctxs = s.ctxs ∧
        (if die.val = 4 then u.hub.hubFreq else (Sys2Proof.Machine.getDie u die.val).freq).toNat = g ∧
        ((if die.val = 4 then u.hub.hubThrottled else (Sys2Proof.Machine.getDie u die.val).throttled) = true ↔
          mustSlow ∨ g ≠ 2700)) ∧
    (∀ pa (bytes : List Sys2Proof.Byte) (core : Option (Fin 4)),
      (core = none → 5 < h.bootStep ∧ (0 ∉ h.outEther ∨ 1 ∉ h.outEther)) → (core ≠ none → h.bootSlot ≠ none) → bytes ≠ [] →
      Sys2Proof.Machine.populated s pa bytes.length = true →
      Sys2Proof.Claims.leads s (.ethernetRdmaWrite pa bytes core) fun u => u.ctxs = s.ctxs ∧
        ∀ a, Sys2Proof.Machine.readByte u.mem (Sys2Proof.Machine.physKey s 0 + a) =
          if pa ≤ a ∧ a < pa + bytes.length then bytes.getD (a - pa) 0
          else Sys2Proof.Machine.readByte s.mem (Sys2Proof.Machine.physKey s 0 + a)) ∧
    (∀ (cluster pa : Nat) (port : Fin 2), (∀ e ∈ h.launches, e.2.evicted = true) → (∀ k ∈ s.cells, k.2.regq = [] ∧ k.2.amos = []) →
      s.gwq = [] → h.bootStep = 9 → port.val ∉ h.outEther → cluster < 512 → cluster ∉ h.outClusters → pa % 4096 = 0 →
      Sys2Proof.Machine.populated s pa 4096 = true →
      Sys2Proof.Claims.leads s (.checkpointStream cluster pa port) fun u => u.mem = s.mem ∧ u.ctxs = s.ctxs ∧
        ∃ bs, u.hub.checkpoint = h.checkpoint ++ [(port.val, pa, bs)] ∧ bs.length = 4096 ∧
          ∀ i, i < 4096 → bs[i]? = some (Sys2Proof.Machine.readByte s.mem (Sys2Proof.Machine.physKey s pa + i)))

/-- For every well-formed instruction that has an encoding, decoding its parcels, whatever follows them, gives it back with every
operand, and takes exactly its own parcels (R28, R29, R34 to R43 and the encoding tables). -/
def Obligations.DecodeReadsWhatEncodeWrites : Prop :=
  ∀ (i : Sys2Proof.Instr) (rest : List Nat), i.wf = true → Sys2Proof.encode i ≠ [] →
    Sys2Proof.decode (Sys2Proof.encode i ++ rest) = .ok (i, (Sys2Proof.encode i).length)

/-- No two words have one meaning: parcels that decode are the encoding of the instruction that they decode to, which is well-formed, and
it takes one, two or four of them. So an encoding with a reserved field set decodes to nothing (R36 to R39). -/
def Obligations.DecodedParcelsAreTheEncoding : Prop :=
  ∀ (ps : List Nat) (i : Sys2Proof.Instr) (n : Nat), (∀ p ∈ ps, p < 2 ^ 16) → Sys2Proof.decode ps = .ok (i, n) →
    i.wf = true ∧ Sys2Proof.encode i = ps.take n ∧ n ≤ ps.length ∧ (n = 1 ∨ n = 2 ∨ n = 4)

/-- Words of the manual's encodings, written out parcel by parcel, one or two of each group of formats, decode to the instruction that
they stand for. -/
def Obligations.WordsOfTheManualDecode : Prop :=
  Sys2Proof.decode [0x6A0B, 0x0031] = .ok (.add 10 11 (.reg 12), 2) ∧
  Sys2Proof.decode [0x6A0F, 0x1C01, 0x0804, 0] = .ok (.bfx 10 11 (.lit 0x804), 4) ∧
  Sys2Proof.decode [0x284B, 0x0189] = .ok (.blt 8 9 (.imm 12), 2) ∧
  Sys2Proof.decode [0xC953, 0x0000] = .ok (.jal (.imm 100), 2) ∧
  Sys2Proof.decode [0x205B, 0x0000] = .ok (.jalr 0 1 (.imm 0), 2) ∧
  Sys2Proof.decode [0x6A63, 0x012D] = .ok (.ldD 10 11 (.imm 2) true, 2) ∧
  Sys2Proof.decode [0x6C6B, 0x004D] = .ok (.stD 12 11 (.imm 0) .rel, 2) ∧
  Sys2Proof.decode [0x6003, 0x5101] = .ok (.pref 11 (.imm 64) 0, 2) ∧
  Sys2Proof.decode [0x6A73, 0x2031] = .ok (.amoadd true .rlx 10 11 (.reg 12), 2) ∧
  Sys2Proof.decode [0x287B, 0x0529] = .ok (.fadd .d .rtz 8 9 (.reg 10), 2) ∧
  Sys2Proof.decode [0x088B, 0x11A5] = .ok (.fma .w 8 8 (.reg 9) (.bank 3), 2) ∧
  Sys2Proof.decode [0x0A03, 0x1802] = .ok (.csrr 10 0x010, 2) ∧
  Sys2Proof.decode [0x0F03, 0x30FF] = .ok (.waitc 15 0 15 15, 2) ∧
  Sys2Proof.decode [0xE002] = .ok (.cNop, 1)

namespace Sys2Proof.Claims
open Sys2Proof.Machine

/-- The parcels of a block of code from the pc on, at most four (R29). -/
def codeParcels (blk : Nat) (pc : Word) : List Nat :=
  ((List.range (16 - pc.toNat / 2 % 16)).map fun j => blk / 65536 ^ (pc.toNat / 2 % 16 + j) % 65536).take 4

end Sys2Proof.Claims

/-- R29, R70, R45: with nothing on the model's agenda, a context that can issue executes, in one step, the instruction that the parcels
of its code block at its pc decode to, or the exception of a reserved encoding, unless its window has collapsed under a request or
effects are on their way out (R404, R181); the block is memory's where the view holds none of it, the words are homed on the die, and
their slices have a miss entry to give (R84); a READY actor enters its handler; a move on the agenda is made. (The agenda is the model's
own, log 1.) -/
def Obligations.StepRunsTheDecodedInstruction : Prop :=
  ∀ (s : Sys2Proof.Machine.State), s.power = true →
    let c := s.cur
    let x := Sys2Proof.Machine.getCtx s c
    (∀ i r, s.agenda = .event i :: r → Sys2Proof.Machine.step s = Sys2Proof.Machine.exec i { s with agenda := r }) ∧
    (s.agenda = [] →
      (x.state = .ready → Sys2Proof.Machine.step s = Sys2Proof.Machine.exec (.handlerEntry c) s) ∧
      (x.state ≠ .ready → Sys2Proof.Machine.canIssue x = false → Sys2Proof.Machine.windowLost s c = false →
        Sys2Proof.Machine.step s = .next s) ∧
      (∀ blk s1, Sys2Proof.Machine.canIssue x = true → x.wdog ≠ 0 ∨ x.sec.heldExpiry = true →
        Sys2Proof.Machine.windowLost s c = false → Sys2Proof.Claims.NotReleasing x →
        Sys2Proof.Machine.bpUnit s c = none → x.entryFetch = false →
        (Sys2Proof.Machine.codeBlock c x.pc).run s = .ok (blk, s1) →
        let t := Sys2Proof.Machine.modCtx s1 c fun y => { y with entryFetch := false }
        (∀ i n, Sys2Proof.decode (Sys2Proof.Claims.codeParcels blk x.pc) = .ok (i, n) →
          Sys2Proof.Machine.step s = Sys2Proof.Machine.exec i t) ∧
        (∀ e, Sys2Proof.decode (Sys2Proof.Claims.codeParcels blk x.pc) = .error e →
          ∃ b, Sys2Proof.Machine.step s = Sys2Proof.Machine.exec (.reservedEncoding b) t))) ∧
    (∀ e, Sys2Proof.Machine.isLocal x.pc = false → Sys2Proof.Machine.isWindow x.pc = false →
      Sys2Proof.Machine.canonical x.pc = true →
      Sys2Proof.Machine.tlbFind (Sys2Proof.Machine.getCluster s (c.cell / 4)) x.ident.asid x.pc 3 = some e →
      let base := Sys2Proof.Machine.leafKey s e.pte (Sys2Proof.Machine.leafPa e.pte x.pc e.block) / 32 * 32
      (∀ k, k < 4 → Sys2Proof.Machine.homedHere s (c.cell / 512) (base + 8 * k) = true ∧ Sys2Proof.Machine.sliceBusy s (base + 8 * k) = false ∧
        Sys2Proof.Machine.tfind (Sys2Proof.Machine.getCell s c.cell).iview (base + 8 * k) = none) →
      ∃ s1, (Sys2Proof.Machine.codeBlock c x.pc).run s = .ok (Sys2Proof.Machine.readLE s.mem base 32, s1) ∧
        s1.ctxs = s.ctxs ∧ s1.mem = s.mem)

/-- What reset leaves where the manual gives a value: the power-on state of each cluster's banks (R75, Table 4.2), DTC 0 at reset (R423),
the launch queues' slack of 1 s and their zeros (Table 20.5), zero measurement registers (R427), the counters enabled on every die
(Table 4.10), the frequency point 2,700 (Table 23.5), no launch active, and no context bound (R99). Memory with nothing listed is the
model's choice for what the manual leaves open (log 5), and is in the canonical form of memory. -/
def Obligations.ResetLeavesTheManualsValues : Prop :=
  let s := Sys2Proof.Machine.State.reset
  s.dtc = 0 ∧ s.hub.launches = [] ∧ (∀ c, (Sys2Proof.Machine.getCtx s c).state = .free) ∧
  (∀ cl, (Sys2Proof.Machine.getCluster s cl).modes = 0xAA555500 ∧ (Sys2Proof.Machine.getCluster s cl).csmode = 0xAA555500) ∧
  (∀ d, (Sys2Proof.Machine.getDie s d).cntEn = true ∧ (Sys2Proof.Machine.getDie s d).freq = 2700) ∧
  (∀ q : Fin 64, s.hub.queues[q].qslack = 0x3B9ACA00 ∧ s.hub.queues[q].qctl = 0 ∧ s.hub.queues[q].qhead = 0) ∧
  (∀ i : Fin 8, s.hub.meas[i] = 0) ∧ s.mem = [] ∧ Sys2Proof.Machine.Memory.wf s.mem

/-- Memory keeps its one canonical form: from every state whose memory has it, a step that gives a next state gives one whose memory has
it. So two states that read alike at every address hold equal memories (the model's representation, log 5; no rule of the manual). -/
def Obligations.MemoryStaysCanonical : Prop :=
  ∀ (s t : Sys2Proof.Machine.State), Sys2Proof.Machine.Memory.wf s.mem → Sys2Proof.Machine.step s = .next t →
    Sys2Proof.Machine.Memory.wf t.mem
end

