-- ==== Sys2Proof/Laws/Encoding.lean ====
section
/-! SUPPORT. The fields of an encoded word (Tables 2.1 to 2.3), once per word shape: what each accessor of the decoder reads
from a word that the encoder built, and so what `decode` answers once `decodeWord` is known on such fields. -/

namespace Sys2Proof

theorem parcels_sum (w : Nat) : w % 65536 + 65536 * (w / 65536) = w := by omega

theorem decode_word (m hi : Nat) (rest : List Nat) (i : Instr) (h : decodeWord (3 + 8 * m + 256 * hi) none = .ok i) :
    decode (word m hi ++ rest) = .ok (i, (word m hi).length) := by
  have h1 : (3 + 8 * m + 256 * hi) % 65536 % 4 = 3 := by omega
  have h2 : (3 + 8 * m + 256 * hi) % 65536 / 4 % 2 = 0 := by omega
  simp only [word, parcels, List.cons_append, List.nil_append, decode, h1, h2, parcels_sum, h]
  rfl

theorem decode_wordL (m hi : Nat) (v : Word32) (rest : List Nat) (i : Instr)
    (h : decodeWord (7 + 8 * m + 256 * hi) (some v) = .ok i) :
    decode (wordL m hi v ++ rest) = .ok (i, (wordL m hi v).length) := by
  have h1 : (7 + 8 * m + 256 * hi) % 65536 % 4 = 3 := by omega
  have h2 : (7 + 8 * m + 256 * hi) % 65536 / 4 % 2 = 1 := by omega
  have h3 : BitVec.ofNat 32 v.toNat = v := by simp
  simp only [wordL, parcels, List.cons_append, List.nil_append, decode, h1, h2, h3, parcels_sum, h]
  rfl

theorem finIn_val {n : Nat} (x : Fin n) : finIn n x.val = .ok x := by simp [finIn]

/-- What the decoder reads from a word with register fields: d, a and b, and `t` in bits 31:23. -/
structure Fields (w m d a b t : Nat) : Prop where
  major : fld w 7 3 = m
  f31_24 : fld w 31 24 = t / 2
  f30_24 : fld w 30 24 = t / 2 % 128
  f31_26 : fld w 31 26 = t / 8
  f31_27 : fld w 31 27 = t / 16
  f31_30 : fld w 31 30 = t / 128
  f28_27 : fld w 28 27 = t / 16 % 4
  f28_28 : fld w 28 28 = t / 32 % 2
  f27_23 : fld w 26 23 = t % 16
  f25_24 : fld w 25 24 = t / 2 % 4
  f25_23 : fld w 25 23 = t % 8
  f23_23 : fld w 23 23 = t % 2
  f22_18 : fld w 22 18 = b
  f22_20 : fld w 22 20 = b / 4
  f22_13 : fld w 22 13 = a + 32 * b
  f25_18 : fld w 25 18 = b + 32 * (t % 8)
  f17_13 : fld w 17 13 = a
  f17_8 : fld w 17 8 = d + 32 * a
  f12_8 : fld w 12 8 = d
  f12_12 : fld w 12 12 = d / 16
  f12_11 : fld w 12 11 = d / 8
  f10_9 : fld w 10 9 = d / 2 % 4
  f10_8 : fld w 10 8 = d % 8
  f8_8 : fld w 8 8 = d % 2
  b31 : bitAt w 31 = (t / 256 % 2 == 1)
  b29 : bitAt w 29 = (t / 64 % 2 == 1)
  b26 : bitAt w 26 = (t / 8 % 2 == 1)
  b23 : bitAt w 23 = (t % 2 == 1)
  b22 : bitAt w 22 = (b / 16 % 2 == 1)
  b11 : bitAt w 11 = (d / 8 % 2 == 1)
  rd : regAt w 8 = Fin.ofNat 32 d
  ra : regAt w 13 = Fin.ofNat 32 a
  rb : regAt w 18 = Fin.ofNat 32 b
  rc : regAt w 23 = Fin.ofNat 32 t
  t8 : finAt 8 w 23 = Fin.ofNat 8 t
  g : finAt 4 w 18 = Fin.ofNat 4 b
  b16 : finAt 16 w 18 = Fin.ofNat 16 b
  d4 : finAt 4 w 11 = Fin.ofNat 4 (d / 8)
  d8 : finAt 8 w 8 = Fin.ofNat 8 d

theorem fields_W (l : Bool) (m d a b : Fin 32) (t : Fin 512) :
    Fields ((if l then 7 else 3) + 8 * m.val + 256 * (d.val + 32 * a.val + 1024 * b.val + 32768 * t.val))
      m.val d.val a.val b.val t.val := by
  obtain ⟨m, hm⟩ := m
  obtain ⟨d, hd⟩ := d
  obtain ⟨a, ha⟩ := a
  obtain ⟨b, hb⟩ := b
  obtain ⟨t, ht⟩ := t
  obtain ⟨q, hq, e⟩ : ∃ q, q < 8 ∧ (if l then 7 else 3) = q := by cases l <;> simp
  simp only [e]
  constructor <;>
    first
    | (simp only [fld]; omega)
    | (simp only [bitAt]; congr 1; omega)
    | (apply Fin.ext; simp only [regAt, finAt, Fin.val_ofNat]; omega)

/-- A word of RRR or V with all fields given. -/
theorem rrr_ok (m d a b : Fin 32) (t : Fin 512) (i : Instr) (rest : List Nat)
    (h : ∀ w, Fields w m.val d.val a.val b.val t.val → decodeWord w none = .ok i) :
    decode (rrr m.val t.val d.val a.val b.val ++ rest) = .ok (i, (rrr m.val t.val d.val a.val b.val).length) :=
  decode_word _ _ _ _ (h _ (by simpa using fields_W false m d a b t))

/-- A word whose b field is a register or a literal. -/
theorem rrrL_ok (m d a : Fin 32) (t : Fin 512) (b : OpL) (i : Instr) (rest : List Nat)
    (h : ∀ w lit (n : Fin 32), Fields w m.val d.val a.val n.val t.val → opL w lit = .ok b →
      (b = .reg n ∧ lit = none ∨ (∃ v, b = .lit v) ∧ lit.isNone = false) → decodeWord w lit = .ok i) :
    decode (rrrL m.val t.val d.val a.val b ++ rest) = .ok (i, (rrrL m.val t.val d.val a.val b).length) := by
  cases b with
  | reg r =>
    have hf := fields_W false m d a r t
    refine decode_word _ _ _ _ (h _ none r (by simpa using hf) ?_ (.inl ⟨rfl, rfl⟩))
    have h2 := hf.rb
    simp at h2
    simp [opL, h2]
  | lit v =>
    have hf := fields_W true m d a 0 t
    refine decode_wordL _ _ _ _ _ (h _ (some v) 0 (by simpa using hf) ?_ (.inr ⟨⟨v, rfl⟩, rfl⟩))
    have h2 := hf.f22_18
    simp at h2
    simp [opL, h2]

/-- What the decoder reads from a word of RRR with operand b: `top` in bits 31:24. -/
structure FieldsB (w m top d a : Nat) (lit : Option Word32) (b : OpB) : Prop where
  major : fld w 7 3 = m
  f31_24 : fld w 31 24 = top
  f30_24 : fld w 30 24 = top % 128
  f31_27 : fld w 31 27 = top / 8
  f25_24 : fld w 25 24 = top % 4
  f17_13 : fld w 17 13 = a
  f17_8 : fld w 17 8 = d + 32 * a
  f12_8 : fld w 12 8 = d
  f12_12 : fld w 12 12 = d / 16
  f12_11 : fld w 12 11 = d / 8
  f10_9 : fld w 10 9 = d / 2 % 4
  f10_8 : fld w 10 8 = d % 8
  f8_8 : fld w 8 8 = d % 2
  b31 : bitAt w 31 = (top / 128 % 2 == 1)
  b26 : bitAt w 26 = (top / 4 % 2 == 1)
  b11 : bitAt w 11 = (d / 8 % 2 == 1)
  rd : regAt w 8 = Fin.ofNat 32 d
  ra : regAt w 13 = Fin.ofNat 32 a
  opb : opB w lit = .ok b

theorem fieldsB_of {w m d a top : Nat} {n : Nat} {lit : Option Word32} {b : OpB} (c : Nat) (hc : c < 2)
    (h : Fields w m d a n (2 * top + c)) (ho : opB w lit = .ok b) : FieldsB w m top d a lit b := by
  constructor
  · exact h.major
  · rw [h.f31_24]; omega
  · rw [h.f30_24]; omega
  · rw [h.f31_27]; omega
  · rw [h.f25_24]; omega
  · exact h.f17_13
  · exact h.f17_8
  · exact h.f12_8
  · exact h.f12_12
  · exact h.f12_11
  · exact h.f10_9
  · exact h.f10_8
  · exact h.f8_8
  · rw [h.b31]; congr 1; omega
  · rw [h.b26]; congr 1; omega
  · exact h.b11
  · exact h.rd
  · exact h.ra
  · exact ho

/-- A word of RRR with operand b. -/
theorem rrrB_ok (m d a : Fin 32) (top : Fin 256) (b : OpB) (i : Instr) (rest : List Nat)
    (h : ∀ w lit, FieldsB w m.val top.val d.val a.val lit b → decodeWord w lit = .ok i) :
    decode (rrrB m.val top.val d.val a.val b ++ rest) = .ok (i, (rrrB m.val top.val d.val a.val b).length) := by
  cases b with
  | reg r =>
    have hf := fields_W false m d a r ⟨2 * top.val, by omega⟩
    have he : d.val + 32 * a.val + 1024 * r.val + 32768 * (2 * top.val) = d.val + 32 * a.val + 1024 * r.val + 65536 * top.val := by omega
    simp only [he, Bool.false_eq_true, if_false] at hf
    refine decode_word _ _ _ _ (h _ none (fieldsB_of 0 (by omega) hf ?_))
    have h1 := hf.f23_23
    have h2 := hf.rb
    simp only [opB, h1, h2]
    simp
  | bank r =>
    have hf := fields_W false m d a r ⟨2 * top.val + 1, by omega⟩
    have he : d.val + 32 * a.val + 1024 * r.val + 32768 * (2 * top.val + 1) = d.val + 32 * a.val + 1024 * r.val + 32768 + 65536 * top.val := by omega
    simp only [he, Bool.false_eq_true, if_false] at hf
    refine decode_word _ _ _ _ (h _ none (fieldsB_of 1 (by omega) hf ?_))
    have h1 := hf.f23_23
    have h2 := hf.rb
    simp only [opB, h1, h2]
    simp
  | lit v =>
    have hf := fields_W true m d a 0 ⟨2 * top.val, by omega⟩
    have he : d.val + 32 * a.val + 1024 * (0 : Fin 32).val + 32768 * (2 * top.val) = d.val + 32 * a.val + 65536 * top.val := by
      have : (0 : Fin 32).val = 0 := rfl
      omega
    simp only [he, if_true] at hf
    refine decode_wordL _ _ _ _ _ (h _ (some v) (fieldsB_of 0 (by omega) hf ?_))
    have h1 := hf.f23_23
    have h2 := hf.f22_18
    simp only [opB, h1, h2]
    simp

/-! ## Words with an immediate -/

theorem immAt_val (n k q m low : Nat) (v : BitVec n) (h : low < 2 ^ k) (hq : q + 8 * m < 256) :
    immAt n (q + 8 * m + 256 * (low + 2 ^ k * v.toNat)) (8 + k) none = .ok (.imm v) := by
  have h1 : (q + 8 * m + 256 * (low + 2 ^ k * v.toNat)) / 2 ^ (8 + k) = v.toNat := by
    have : q + 8 * m + 256 * (low + 2 ^ k * v.toNat) = (q + 8 * m + 256 * low) + 2 ^ (8 + k) * v.toNat := by
      rw [Nat.pow_add]; ring
    rw [this, Nat.add_mul_div_left _ _ (by positivity), Nat.div_eq_of_lt, Nat.zero_add]
    rw [Nat.pow_add]; omega
  simp [immAt, h1]

theorem immAt_lit (n k q m low : Nat) (v : Word32) (h : low < 2 ^ k) (hq : q + 8 * m < 256) :
    immAt n (q + 8 * m + 256 * low) (8 + k) (some v) = .ok (.lit v) := by
  have h1 : (q + 8 * m + 256 * low) / 2 ^ (8 + k) = 0 := by
    apply Nat.div_eq_of_lt
    rw [Nat.pow_add]; omega
  simp [immAt, h1]

/-- A word with an immediate field: what lies below it, whatever lies in it. -/
theorem immW_ok {n : Nat} (m : Fin 32) (low k : Nat) (v : Imm n) (i : Instr) (rest : List Nat) (hl : low < 2 ^ k)
    (h : ∀ w lit u q, q ≤ 7 → w = q + 8 * m.val + 256 * (low + 2 ^ k * u) → 3 ≤ q → immAt n w (8 + k) lit = .ok v →
      decodeWord w lit = .ok i) :
    decode (immW m.val low k v ++ rest) = .ok (i, (immW m.val low k v).length) := by
  cases v with
  | imm v =>
    exact decode_word _ _ _ _ (h _ none v.toNat 3 (by omega) rfl (by omega) (immAt_val _ _ _ _ _ _ hl (by omega)))
  | lit v =>
    exact decode_wordL _ _ _ _ _ (h _ (some v) 0 7 (by omega) (by simp) (by omega) (immAt_lit _ _ _ _ _ _ hl (by omega)))

/-- Fields below an immediate that starts at bit 18: d and a. -/
theorem low10 {w q m d a u : Nat} (h : w = q + 8 * m + 256 * (d + 32 * a + 2 ^ 10 * u)) (hq : 3 ≤ q ∧ q ≤ 7) (hm : m < 32)
    (hd : d < 32) : fld w 7 3 = m ∧ regAt w 8 = Fin.ofNat 32 d ∧ regAt w 13 = Fin.ofNat 32 a := by
  subst h
  refine ⟨by simp only [fld]; omega, ?_, ?_⟩ <;> apply Fin.ext <;> simp only [regAt, finAt, Fin.val_ofNat] <;> omega

/-- Fields below an immediate that starts at bit 13: d. -/
theorem low5 {w q m d u : Nat} (h : w = q + 8 * m + 256 * (d + 2 ^ 5 * u)) (hq : 3 ≤ q ∧ q ≤ 7) (hm : m < 32) :
    fld w 7 3 = m ∧ regAt w 8 = Fin.ofNat 32 d := by
  subst h
  refine ⟨by simp only [fld]; omega, ?_⟩
  apply Fin.ext; simp only [regAt, finAt, Fin.val_ofNat]; omega

/-- Fields below an immediate that starts at bit 21: a, b and the condition. -/
theorem low13 {w q m a b c u : Nat} (h : w = q + 8 * m + 256 * (a + 32 * b + 1024 * c + 2 ^ 13 * u)) (hq : 3 ≤ q ∧ q ≤ 7)
    (hm : m < 32) (ha : a < 32) (hb : b < 32) (hc : c < 8) :
    fld w 7 3 = m ∧ regAt w 8 = Fin.ofNat 32 a ∧ regAt w 13 = Fin.ofNat 32 b ∧ fld w 20 18 = c := by
  subst h
  refine ⟨by simp only [fld]; omega, ?_, ?_, by simp only [fld]; omega⟩ <;> apply Fin.ext <;>
    simp only [regAt, finAt, Fin.val_ofNat] <;> omega

/-- Fields below an immediate that starts at bit 9: the link bit. -/
theorem low1 {w q m l u : Nat} (h : w = q + 8 * m + 256 * (l + 2 ^ 1 * u)) (hq : 3 ≤ q ∧ q ≤ 7) (hm : m < 32) (hl : l < 2) :
    fld w 7 3 = m ∧ bitAt w 8 = (l == 1) := by
  subst h
  refine ⟨by simp only [fld]; omega, ?_⟩
  simp only [bitAt]; congr 1; omega

/-- Fields below an immediate that starts at bit 12: the register of FLI. -/
theorem low4 {w q m d u : Nat} (h : w = q + 8 * m + 256 * (d + 2 ^ 4 * u)) (hq : 3 ≤ q ∧ q ≤ 7) (hm : m < 32) :
    fld w 7 3 = m ∧ finAt 16 w 8 = Fin.ofNat 16 d := by
  subst h
  refine ⟨by simp only [fld]; omega, ?_⟩
  apply Fin.ext; simp only [finAt, Fin.val_ofNat]; omega

/-- Fields below an immediate that starts at bit 23: d, a, the size and the order. -/
theorem low15 {w q m d a z o u : Nat} (h : w = q + 8 * m + 256 * (d + 32 * a + 1024 * z + 8192 * o + 2 ^ 15 * u))
    (hq : 3 ≤ q ∧ q ≤ 7) (hm : m < 32) (hd : d < 32) (ha : a < 32) (hz : z < 8) (ho : o < 4) :
    fld w 7 3 = m ∧ regAt w 8 = Fin.ofNat 32 d ∧ regAt w 13 = Fin.ofNat 32 a ∧ fld w 20 18 = z ∧ fld w 22 21 = o ∧
      fld w 22 22 = o / 2 ∧ bitAt w 21 = (o % 2 == 1) := by
  subst h
  refine ⟨by simp only [fld]; omega, ?_, ?_, by simp only [fld]; omega, by simp only [fld]; omega, by simp only [fld]; omega, ?_⟩
  · apply Fin.ext; simp only [regAt, finAt, Fin.val_ofNat]; omega
  · apply Fin.ext; simp only [regAt, finAt, Fin.val_ofNat]; omega
  · simp only [bitAt]; congr 1; omega

/-- The register that a field numbers. -/
theorem ofNat_val (r : Reg) : Fin.ofNat 32 r.val = r := by apply Fin.ext; simp

end Sys2Proof
end

