-- ==== Sys2Proof/Laws/Memory.lean ====
section
/-! SUPPORT. Memory: a read after a write, and that every memory operation keeps the canonical form. -/

namespace Sys2Proof.Machine

/-! ## Read after write -/

@[simp] theorem readByte_nil (a : Nat) : readByte [] a = unlisted := rfl

/-- No listed address lies at or below `a` when all lie above. -/
theorem readByte_above (m : Memory) (a : Nat) (h : ∀ p ∈ m, a < p.1) : readByte m a = unlisted := by
  induction m with
  | nil => rfl
  | cons p r ih =>
    obtain ⟨k, v⟩ := p
    have hk : a < k := h (k, v) (by simp)
    have hne : k ≠ a := by omega
    simp [readByte, hne, ih (fun q hq => h q (by simp [hq]))]

theorem readByte_putByte (m : Memory) (a : Nat) (b : Byte) : readByte (putByte m a b) a = b := by
  induction m with
  | nil => simp [putByte, readByte]
  | cons p r ih =>
    obtain ⟨k, v⟩ := p
    by_cases h1 : a < k
    · simp [putByte, h1, readByte]
    · by_cases h2 : a = k
      · simp [putByte, h2, readByte]
      · simp [putByte, h1, h2, readByte, Ne.symm h2, ih]

theorem readByte_putByte_ne (m : Memory) {a x : Nat} (b : Byte) (h : x ≠ a) : readByte (putByte m a b) x = readByte m x := by
  induction m with
  | nil => simp [putByte, readByte, Ne.symm h]
  | cons p r ih =>
    obtain ⟨k, v⟩ := p
    by_cases h1 : a < k
    · simp [putByte, h1, readByte, Ne.symm h]
    · by_cases h2 : a = k
      · subst h2
        simp [putByte, readByte, Ne.symm h]
      · simp [putByte, h1, h2, readByte, ih]

/-- Entries removed read as unlisted. -/
theorem readByte_filter_ne (m : Memory) (a x : Nat) :
    readByte (m.filter fun p => p.1 != a) x = if x = a then unlisted else readByte m x := by
  induction m with
  | nil => simp
  | cons p r ih =>
    obtain ⟨k, v⟩ := p
    by_cases hk : k = a
    · subst hk
      by_cases hx : x = k
      · subst hx; simpa using ih
      · simp [ih, hx, readByte, Ne.symm hx]
    · by_cases hx : k = x
      · subst hx
        simp [hk, readByte]
      · simp [hk, readByte, hx, ih]

/-- A byte just written reads back. -/
theorem readByte_writeByte (m : Memory) (a : Nat) (b : Byte) : readByte (writeByte m a b) a = b := by
  unfold writeByte
  split
  · next h => rw [readByte_filter_ne, if_pos rfl, h]
  · exact readByte_putByte m a b

/-- Other bytes are untouched. -/
theorem readByte_writeByte_ne (m : Memory) {a x : Nat} (b : Byte) (h : x ≠ a) : readByte (writeByte m a b) x = readByte m x := by
  unfold writeByte
  split
  · rw [readByte_filter_ne, if_neg h]
  · exact readByte_putByte_ne m b h

/-- Bytes outside those stored are untouched by a store of a number. -/
theorem readByte_writeLE_ne (m : Memory) (a n v : Nat) {x : Nat} (h : x < a ∨ a + n ≤ x) :
    readByte (writeLE m a n v) x = readByte m x := by
  induction n generalizing m a v with
  | zero => rfl
  | succ n ih => rw [writeLE, ih _ _ _ (by omega), readByte_writeByte_ne _ _ (by omega)]

/-! ## The canonical form -/

theorem wf_nil : Memory.wf [] := by simp [Memory.wf]

theorem filter_wf (m : Memory) (p : Host.Cell → Bool) (h : m.wf) : Memory.wf (m.filter p) :=
  ⟨h.1.sublist List.filter_sublist, fun q hq => h.2 q (List.mem_filter.mp hq).1⟩

theorem mem_putByte (m : Memory) (a : Nat) (b : Byte) (p : Host.Cell) (h : p ∈ putByte m a b) : p ∈ m ∨ p = (a, b) := by
  induction m with
  | nil => exact .inr (by simpa [putByte] using h)
  | cons q r ih =>
    obtain ⟨k, v⟩ := q
    by_cases h1 : a < k
    · simp only [putByte, h1, if_true, List.mem_cons] at h ⊢; tauto
    · by_cases h2 : a = k
      · subst h2
        simp only [putByte, Nat.lt_irrefl, if_false, if_true, List.mem_cons] at h ⊢
        rcases h with h | h
        · exact .inr h
        · exact .inl (.inr h)
      · simp only [putByte, h1, h2, if_false, List.mem_cons] at h ⊢
        rcases h with h | h
        · exact .inl (.inl h)
        · rcases ih h with h | h
          · exact .inl (.inr h)
          · exact .inr h

theorem putByte_wf (m : Memory) (a : Nat) (b : Byte) (hb : b ≠ unlisted) (h : m.wf) : (putByte m a b).wf := by
  induction m with
  | nil => simp [putByte, hb, Memory.wf]
  | cons q r ih =>
    obtain ⟨k, v⟩ := q
    obtain ⟨hp, hz⟩ := h
    have hpk := List.pairwise_cons.mp hp
    have hr : Memory.wf r := ⟨hpk.2, fun q hq => hz q (by simp [hq])⟩
    by_cases h1 : a < k
    · simp only [putByte, h1, if_true]
      refine ⟨List.pairwise_cons.mpr ⟨?_, hp⟩, ?_⟩
      · intro q hq
        rcases List.mem_cons.mp hq with rfl | hq
        · exact h1
        · exact Nat.lt_trans h1 (hpk.1 q hq)
      · intro q hq
        rcases List.mem_cons.mp hq with rfl | hq
        · exact hb
        · exact hz q hq
    · by_cases h2 : a = k
      · subst h2
        simp only [putByte, Nat.lt_irrefl, if_false, if_true]
        refine ⟨List.pairwise_cons.mpr ⟨hpk.1, hpk.2⟩, ?_⟩
        intro q hq
        rcases List.mem_cons.mp hq with rfl | hq
        · exact hb
        · exact hr.2 q hq
      · simp only [putByte, h1, h2, if_false]
        refine ⟨List.pairwise_cons.mpr ⟨?_, (ih hr).1⟩, ?_⟩
        · intro q hq
          rcases mem_putByte r a b q hq with hq | rfl
          · exact hpk.1 q hq
          · show k < a; omega
        · intro q hq
          rcases List.mem_cons.mp hq with rfl | hq
          · exact hz _ (by simp)
          · exact (ih hr).2 q hq

theorem writeByte_wf (m : Memory) (a : Nat) (b : Byte) (h : m.wf) : (writeByte m a b).wf := by
  unfold writeByte
  split
  · exact filter_wf m _ h
  · next hb => exact putByte_wf m a b hb h

theorem writeLE_wf (m : Memory) (a n v : Nat) (h : m.wf) : (writeLE m a n v).wf := by
  induction n generalizing m a v with
  | zero => exact h
  | succ n ih => exact ih _ _ _ (writeByte_wf m a _ h)

theorem writeMasked_wf (m : Memory) (a : Nat) (k d : Word) (h : m.wf) : (writeMasked m a k d).wf := writeLE_wf _ _ _ _ h

theorem writeBytes_wf (m : Memory) (a : Nat) (bs : List Byte) (h : m.wf) : (writeBytes m a bs).wf := by
  induction bs generalizing m a with
  | nil => exact h
  | cons b r ih => exact ih _ _ (writeByte_wf m a b h)

theorem zeroRange_wf (m : Memory) (a n : Nat) (h : m.wf) : (zeroRange m a n).wf := filter_wf m _ h

/-- Two canonical memories that read alike are equal. -/
theorem eq_of_readByte (m n : Memory) (hm : m.wf) (hn : n.wf) (h : ∀ a, readByte m a = readByte n a) : m = n := by
  induction m generalizing n with
  | nil =>
    cases n with
    | nil => rfl
    | cons q r =>
      have := h q.1
      have hq := hn.2 q (by simp)
      simp [readByte] at this
      exact absurd this.symm hq
  | cons p r ih =>
    obtain ⟨k, v⟩ := p
    have hpk := List.pairwise_cons.mp hm.1
    have hr : Memory.wf r := ⟨hpk.2, fun q hq => hm.2 q (by simp [hq])⟩
    cases n with
    | nil =>
      have := h k
      simp [readByte] at this
      exact absurd this (hm.2 (k, v) (by simp))
    | cons q t =>
      obtain ⟨j, w⟩ := q
      have hqk := List.pairwise_cons.mp hn.1
      have ht : Memory.wf t := ⟨hqk.2, fun q hq => hn.2 q (by simp [hq])⟩
      have hkv : v ≠ unlisted := hm.2 (k, v) (by simp)
      have hjw : w ≠ unlisted := hn.2 (j, w) (by simp)
      have hkj : k = j := by
        rcases Nat.lt_trichotomy k j with hlt | heq | hgt
        · have := h k
          rw [readByte_above ((j, w) :: t) k (by
            intro q hq
            rcases List.mem_cons.mp hq with rfl | hq
            · exact hlt
            · exact Nat.lt_trans hlt (hqk.1 q hq))] at this
          simp [readByte] at this
          exact absurd this hkv
        · exact heq
        · have := h j
          rw [readByte_above ((k, v) :: r) j (by
            intro q hq
            rcases List.mem_cons.mp hq with rfl | hq
            · exact hgt
            · exact Nat.lt_trans hgt (hpk.1 q hq))] at this
          simp [readByte] at this
          exact absurd this.symm hjw
      subst hkj
      have hvw : v = w := by have := h k; simpa [readByte] using this
      subst hvw
      congr 1
      refine ih t hr ht fun a => ?_
      by_cases hak : k = a
      · subst hak
        rw [readByte_above r k hpk.1, readByte_above t k hqk.1]
      · have := h a; simpa [readByte, hak] using this

end Sys2Proof.Machine
end

