-- ==== Sys2Proof/Laws/Tables.lean ====
section
/-! SUPPORT. Tables: what a look-up finds after a key is listed or unlisted. -/

namespace Sys2Proof.Machine

variable {α : Type}

@[simp] theorem tfind_tput (t : Tbl α) (a : Nat) (x : α) : tfind (tput t a x) a = some x := by
  induction t with
  | nil => simp [tput, tfind]
  | cons p r ih =>
    obtain ⟨k, v⟩ := p
    by_cases h1 : a < k
    · simp [tput, h1, tfind]
    · by_cases h2 : a = k
      · subst h2; simp [tput, tfind]
      · simp [tput, h1, h2, tfind, Ne.symm h2, ih]

theorem tfind_tput_ne (t : Tbl α) {a b : Nat} (x : α) (h : b ≠ a) : tfind (tput t a x) b = tfind t b := by
  induction t with
  | nil => simp [tput, tfind, Ne.symm h]
  | cons p r ih =>
    obtain ⟨k, v⟩ := p
    by_cases h1 : a < k
    · simp [tput, h1, tfind, Ne.symm h]
    · by_cases h2 : a = k
      · subst h2; simp [tput, tfind, Ne.symm h]
      · simp [tput, h1, h2, tfind, ih]

@[simp] theorem tget_tput (t : Tbl α) (d : α) (a : Nat) (x : α) : tget (tput t a x) d a = x := by simp [tget]

theorem tget_tput_ne (t : Tbl α) (d : α) {a b : Nat} (x : α) (h : b ≠ a) : tget (tput t a x) d b = tget t d b := by
  simp [tget, tfind_tput_ne t x h]

/-- A key listed twice holds its last value. -/
@[simp] theorem tput_tput (t : Tbl α) (a : Nat) (x y : α) : tput (tput t a x) a y = tput t a y := by
  induction t with
  | nil => simp [tput]
  | cons p r ih =>
    obtain ⟨k, v⟩ := p
    by_cases h1 : a < k
    · simp [tput, h1]
    · by_cases h2 : a = k
      · subst h2; simp [tput]
      · simp [tput, h1, h2, ih]

/-- What a key finds once another, or it, is unlisted. -/
theorem tfind_tdel (t : Tbl α) (a b : Nat) : tfind (tdel t a) b = if b = a then none else tfind t b := by
  induction t with
  | nil => simp [tdel, tfind]
  | cons p r ih =>
    obtain ⟨k, v⟩ := p
    unfold tdel at ih ⊢
    by_cases hk : k = a
    · subst hk
      by_cases hb : b = k
      · subst hb; simpa using ih
      · simp [ih, hb, tfind, Ne.symm hb]
    · by_cases hb : k = b
      · subst hb; simp [hk, tfind]
      · simp [hk, tfind, hb, ih]

@[simp] theorem length_setAt {β : Type} (l : List β) (n : Nat) (y : β) : (setAt l n y).length = l.length := by
  induction l generalizing n with
  | nil => rfl
  | cons x r ih => cases n <;> simp [setAt, ih]

end Sys2Proof.Machine
end

