-- ==== Sys2Proof/Laws/State.lean ====
section
/-! SUPPORT. The state under its updates: what each update leaves, and what a look-up finds after it. -/

namespace Sys2Proof.Machine

/-! ## setCtx -/

@[simp] theorem setCtx_cur (s : State) (c : CtxId) (x : Ctx) : (setCtx s c x).cur = s.cur := rfl
@[simp] theorem setCtx_agenda (s : State) (c : CtxId) (x : Ctx) : (setCtx s c x).agenda = s.agenda := rfl
@[simp] theorem setCtx_freeCtr (s : State) (c : CtxId) (x : Ctx) : (setCtx s c x).freeCtr = s.freeCtr := rfl
@[simp] theorem setCtx_regCtr (s : State) (c : CtxId) (x : Ctx) : (setCtx s c x).regCtr = s.regCtr := rfl
@[simp] theorem setCtx_lateLoads (s : State) (c : CtxId) (x : Ctx) : (setCtx s c x).lateLoads = s.lateLoads := rfl
@[simp] theorem setCtx_lateWalks (s : State) (c : CtxId) (x : Ctx) : (setCtx s c x).lateWalks = s.lateWalks := rfl
@[simp] theorem setCtx_power (s : State) (c : CtxId) (x : Ctx) : (setCtx s c x).power = s.power := rfl
@[simp] theorem setCtx_dtc (s : State) (c : CtxId) (x : Ctx) : (setCtx s c x).dtc = s.dtc := rfl
@[simp] theorem setCtx_dtcShift (s : State) (c : CtxId) (x : Ctx) : (setCtx s c x).dtcShift = s.dtcShift := rfl
@[simp] theorem setCtx_mem (s : State) (c : CtxId) (x : Ctx) : (setCtx s c x).mem = s.mem := rfl
@[simp] theorem setCtx_cells (s : State) (c : CtxId) (x : Ctx) : (setCtx s c x).cells = s.cells := rfl
@[simp] theorem setCtx_clusters (s : State) (c : CtxId) (x : Ctx) : (setCtx s c x).clusters = s.clusters := rfl
@[simp] theorem setCtx_dies (s : State) (c : CtxId) (x : Ctx) : (setCtx s c x).dies = s.dies := rfl
@[simp] theorem setCtx_owners (s : State) (c : CtxId) (x : Ctx) : (setCtx s c x).owners = s.owners := rfl
@[simp] theorem setCtx_gwq (s : State) (c : CtxId) (x : Ctx) : (setCtx s c x).gwq = s.gwq := rfl
@[simp] theorem setCtx_fenceOrder (s : State) (c : CtxId) (x : Ctx) : (setCtx s c x).fenceOrder = s.fenceOrder := rfl
@[simp] theorem setCtx_hub (s : State) (c : CtxId) (x : Ctx) : (setCtx s c x).hub = s.hub := rfl

/-! ## modCtx -/

@[simp] theorem modCtx_cur (s : State) (c : CtxId) (f : Ctx → Ctx) : (modCtx s c f).cur = s.cur := rfl
@[simp] theorem modCtx_agenda (s : State) (c : CtxId) (f : Ctx → Ctx) : (modCtx s c f).agenda = s.agenda := rfl
@[simp] theorem modCtx_freeCtr (s : State) (c : CtxId) (f : Ctx → Ctx) : (modCtx s c f).freeCtr = s.freeCtr := rfl
@[simp] theorem modCtx_regCtr (s : State) (c : CtxId) (f : Ctx → Ctx) : (modCtx s c f).regCtr = s.regCtr := rfl
@[simp] theorem modCtx_lateLoads (s : State) (c : CtxId) (f : Ctx → Ctx) : (modCtx s c f).lateLoads = s.lateLoads := rfl
@[simp] theorem modCtx_lateWalks (s : State) (c : CtxId) (f : Ctx → Ctx) : (modCtx s c f).lateWalks = s.lateWalks := rfl
@[simp] theorem modCtx_power (s : State) (c : CtxId) (f : Ctx → Ctx) : (modCtx s c f).power = s.power := rfl
@[simp] theorem modCtx_dtc (s : State) (c : CtxId) (f : Ctx → Ctx) : (modCtx s c f).dtc = s.dtc := rfl
@[simp] theorem modCtx_dtcShift (s : State) (c : CtxId) (f : Ctx → Ctx) : (modCtx s c f).dtcShift = s.dtcShift := rfl
@[simp] theorem modCtx_mem (s : State) (c : CtxId) (f : Ctx → Ctx) : (modCtx s c f).mem = s.mem := rfl
@[simp] theorem modCtx_cells (s : State) (c : CtxId) (f : Ctx → Ctx) : (modCtx s c f).cells = s.cells := rfl
@[simp] theorem modCtx_clusters (s : State) (c : CtxId) (f : Ctx → Ctx) : (modCtx s c f).clusters = s.clusters := rfl
@[simp] theorem modCtx_dies (s : State) (c : CtxId) (f : Ctx → Ctx) : (modCtx s c f).dies = s.dies := rfl
@[simp] theorem modCtx_owners (s : State) (c : CtxId) (f : Ctx → Ctx) : (modCtx s c f).owners = s.owners := rfl
@[simp] theorem modCtx_gwq (s : State) (c : CtxId) (f : Ctx → Ctx) : (modCtx s c f).gwq = s.gwq := rfl
@[simp] theorem modCtx_fenceOrder (s : State) (c : CtxId) (f : Ctx → Ctx) : (modCtx s c f).fenceOrder = s.fenceOrder := rfl
@[simp] theorem modCtx_hub (s : State) (c : CtxId) (f : Ctx → Ctx) : (modCtx s c f).hub = s.hub := rfl

/-! ## modCell -/

@[simp] theorem modCell_cur (s : State) (n : Nat) (f : Cell → Cell) : (modCell s n f).cur = s.cur := rfl
@[simp] theorem modCell_agenda (s : State) (n : Nat) (f : Cell → Cell) : (modCell s n f).agenda = s.agenda := rfl
@[simp] theorem modCell_freeCtr (s : State) (n : Nat) (f : Cell → Cell) : (modCell s n f).freeCtr = s.freeCtr := rfl
@[simp] theorem modCell_regCtr (s : State) (n : Nat) (f : Cell → Cell) : (modCell s n f).regCtr = s.regCtr := rfl
@[simp] theorem modCell_lateLoads (s : State) (n : Nat) (f : Cell → Cell) : (modCell s n f).lateLoads = s.lateLoads := rfl
@[simp] theorem modCell_lateWalks (s : State) (n : Nat) (f : Cell → Cell) : (modCell s n f).lateWalks = s.lateWalks := rfl
@[simp] theorem modCell_power (s : State) (n : Nat) (f : Cell → Cell) : (modCell s n f).power = s.power := rfl
@[simp] theorem modCell_dtc (s : State) (n : Nat) (f : Cell → Cell) : (modCell s n f).dtc = s.dtc := rfl
@[simp] theorem modCell_dtcShift (s : State) (n : Nat) (f : Cell → Cell) : (modCell s n f).dtcShift = s.dtcShift := rfl
@[simp] theorem modCell_mem (s : State) (n : Nat) (f : Cell → Cell) : (modCell s n f).mem = s.mem := rfl
@[simp] theorem modCell_ctxs (s : State) (n : Nat) (f : Cell → Cell) : (modCell s n f).ctxs = s.ctxs := rfl
@[simp] theorem modCell_clusters (s : State) (n : Nat) (f : Cell → Cell) : (modCell s n f).clusters = s.clusters := rfl
@[simp] theorem modCell_dies (s : State) (n : Nat) (f : Cell → Cell) : (modCell s n f).dies = s.dies := rfl
@[simp] theorem modCell_owners (s : State) (n : Nat) (f : Cell → Cell) : (modCell s n f).owners = s.owners := rfl
@[simp] theorem modCell_gwq (s : State) (n : Nat) (f : Cell → Cell) : (modCell s n f).gwq = s.gwq := rfl
@[simp] theorem modCell_fenceOrder (s : State) (n : Nat) (f : Cell → Cell) : (modCell s n f).fenceOrder = s.fenceOrder := rfl
@[simp] theorem modCell_hub (s : State) (n : Nat) (f : Cell → Cell) : (modCell s n f).hub = s.hub := rfl

/-! ## modCluster -/

@[simp] theorem modCluster_cur (s : State) (n : Nat) (f : Cluster → Cluster) : (modCluster s n f).cur = s.cur := rfl
@[simp] theorem modCluster_agenda (s : State) (n : Nat) (f : Cluster → Cluster) : (modCluster s n f).agenda = s.agenda := rfl
@[simp] theorem modCluster_freeCtr (s : State) (n : Nat) (f : Cluster → Cluster) : (modCluster s n f).freeCtr = s.freeCtr := rfl
@[simp] theorem modCluster_regCtr (s : State) (n : Nat) (f : Cluster → Cluster) : (modCluster s n f).regCtr = s.regCtr := rfl
@[simp] theorem modCluster_lateLoads (s : State) (n : Nat) (f : Cluster → Cluster) : (modCluster s n f).lateLoads = s.lateLoads := rfl
@[simp] theorem modCluster_lateWalks (s : State) (n : Nat) (f : Cluster → Cluster) : (modCluster s n f).lateWalks = s.lateWalks := rfl
@[simp] theorem modCluster_power (s : State) (n : Nat) (f : Cluster → Cluster) : (modCluster s n f).power = s.power := rfl
@[simp] theorem modCluster_dtc (s : State) (n : Nat) (f : Cluster → Cluster) : (modCluster s n f).dtc = s.dtc := rfl
@[simp] theorem modCluster_dtcShift (s : State) (n : Nat) (f : Cluster → Cluster) : (modCluster s n f).dtcShift = s.dtcShift := rfl
@[simp] theorem modCluster_mem (s : State) (n : Nat) (f : Cluster → Cluster) : (modCluster s n f).mem = s.mem := rfl
@[simp] theorem modCluster_ctxs (s : State) (n : Nat) (f : Cluster → Cluster) : (modCluster s n f).ctxs = s.ctxs := rfl
@[simp] theorem modCluster_cells (s : State) (n : Nat) (f : Cluster → Cluster) : (modCluster s n f).cells = s.cells := rfl
@[simp] theorem modCluster_dies (s : State) (n : Nat) (f : Cluster → Cluster) : (modCluster s n f).dies = s.dies := rfl
@[simp] theorem modCluster_owners (s : State) (n : Nat) (f : Cluster → Cluster) : (modCluster s n f).owners = s.owners := rfl
@[simp] theorem modCluster_gwq (s : State) (n : Nat) (f : Cluster → Cluster) : (modCluster s n f).gwq = s.gwq := rfl
@[simp] theorem modCluster_fenceOrder (s : State) (n : Nat) (f : Cluster → Cluster) : (modCluster s n f).fenceOrder = s.fenceOrder := rfl
@[simp] theorem modCluster_hub (s : State) (n : Nat) (f : Cluster → Cluster) : (modCluster s n f).hub = s.hub := rfl

/-! ## modDie -/

@[simp] theorem modDie_cur (s : State) (n : Nat) (f : Die → Die) : (modDie s n f).cur = s.cur := rfl
@[simp] theorem modDie_agenda (s : State) (n : Nat) (f : Die → Die) : (modDie s n f).agenda = s.agenda := rfl
@[simp] theorem modDie_freeCtr (s : State) (n : Nat) (f : Die → Die) : (modDie s n f).freeCtr = s.freeCtr := rfl
@[simp] theorem modDie_regCtr (s : State) (n : Nat) (f : Die → Die) : (modDie s n f).regCtr = s.regCtr := rfl
@[simp] theorem modDie_lateLoads (s : State) (n : Nat) (f : Die → Die) : (modDie s n f).lateLoads = s.lateLoads := rfl
@[simp] theorem modDie_lateWalks (s : State) (n : Nat) (f : Die → Die) : (modDie s n f).lateWalks = s.lateWalks := rfl
@[simp] theorem modDie_power (s : State) (n : Nat) (f : Die → Die) : (modDie s n f).power = s.power := rfl
@[simp] theorem modDie_dtc (s : State) (n : Nat) (f : Die → Die) : (modDie s n f).dtc = s.dtc := rfl
@[simp] theorem modDie_dtcShift (s : State) (n : Nat) (f : Die → Die) : (modDie s n f).dtcShift = s.dtcShift := rfl
@[simp] theorem modDie_mem (s : State) (n : Nat) (f : Die → Die) : (modDie s n f).mem = s.mem := rfl
@[simp] theorem modDie_ctxs (s : State) (n : Nat) (f : Die → Die) : (modDie s n f).ctxs = s.ctxs := rfl
@[simp] theorem modDie_cells (s : State) (n : Nat) (f : Die → Die) : (modDie s n f).cells = s.cells := rfl
@[simp] theorem modDie_clusters (s : State) (n : Nat) (f : Die → Die) : (modDie s n f).clusters = s.clusters := rfl
@[simp] theorem modDie_owners (s : State) (n : Nat) (f : Die → Die) : (modDie s n f).owners = s.owners := rfl
@[simp] theorem modDie_gwq (s : State) (n : Nat) (f : Die → Die) : (modDie s n f).gwq = s.gwq := rfl
@[simp] theorem modDie_fenceOrder (s : State) (n : Nat) (f : Die → Die) : (modDie s n f).fenceOrder = s.fenceOrder := rfl
@[simp] theorem modDie_hub (s : State) (n : Nat) (f : Die → Die) : (modDie s n f).hub = s.hub := rfl

/-! ## modHub -/

@[simp] theorem modHub_cur (s : State) (f : Hub → Hub) : (modHub s f).cur = s.cur := rfl
@[simp] theorem modHub_agenda (s : State) (f : Hub → Hub) : (modHub s f).agenda = s.agenda := rfl
@[simp] theorem modHub_freeCtr (s : State) (f : Hub → Hub) : (modHub s f).freeCtr = s.freeCtr := rfl
@[simp] theorem modHub_regCtr (s : State) (f : Hub → Hub) : (modHub s f).regCtr = s.regCtr := rfl
@[simp] theorem modHub_lateLoads (s : State) (f : Hub → Hub) : (modHub s f).lateLoads = s.lateLoads := rfl
@[simp] theorem modHub_lateWalks (s : State) (f : Hub → Hub) : (modHub s f).lateWalks = s.lateWalks := rfl
@[simp] theorem modHub_power (s : State) (f : Hub → Hub) : (modHub s f).power = s.power := rfl
@[simp] theorem modHub_dtc (s : State) (f : Hub → Hub) : (modHub s f).dtc = s.dtc := rfl
@[simp] theorem modHub_dtcShift (s : State) (f : Hub → Hub) : (modHub s f).dtcShift = s.dtcShift := rfl
@[simp] theorem modHub_mem (s : State) (f : Hub → Hub) : (modHub s f).mem = s.mem := rfl
@[simp] theorem modHub_ctxs (s : State) (f : Hub → Hub) : (modHub s f).ctxs = s.ctxs := rfl
@[simp] theorem modHub_cells (s : State) (f : Hub → Hub) : (modHub s f).cells = s.cells := rfl
@[simp] theorem modHub_clusters (s : State) (f : Hub → Hub) : (modHub s f).clusters = s.clusters := rfl
@[simp] theorem modHub_dies (s : State) (f : Hub → Hub) : (modHub s f).dies = s.dies := rfl
@[simp] theorem modHub_owners (s : State) (f : Hub → Hub) : (modHub s f).owners = s.owners := rfl
@[simp] theorem modHub_gwq (s : State) (f : Hub → Hub) : (modHub s f).gwq = s.gwq := rfl
@[simp] theorem modHub_fenceOrder (s : State) (f : Hub → Hub) : (modHub s f).fenceOrder = s.fenceOrder := rfl

/-! ## bumpFree -/

@[simp] theorem bumpFree_cur (s : State) : (bumpFree s).cur = s.cur := rfl
@[simp] theorem bumpFree_agenda (s : State) : (bumpFree s).agenda = s.agenda := rfl
@[simp] theorem bumpFree_regCtr (s : State) : (bumpFree s).regCtr = s.regCtr := rfl
@[simp] theorem bumpFree_lateLoads (s : State) : (bumpFree s).lateLoads = s.lateLoads := rfl
@[simp] theorem bumpFree_lateWalks (s : State) : (bumpFree s).lateWalks = s.lateWalks := rfl
@[simp] theorem bumpFree_power (s : State) : (bumpFree s).power = s.power := rfl
@[simp] theorem bumpFree_dtc (s : State) : (bumpFree s).dtc = s.dtc := rfl
@[simp] theorem bumpFree_dtcShift (s : State) : (bumpFree s).dtcShift = s.dtcShift := rfl
@[simp] theorem bumpFree_mem (s : State) : (bumpFree s).mem = s.mem := rfl
@[simp] theorem bumpFree_ctxs (s : State) : (bumpFree s).ctxs = s.ctxs := rfl
@[simp] theorem bumpFree_cells (s : State) : (bumpFree s).cells = s.cells := rfl
@[simp] theorem bumpFree_clusters (s : State) : (bumpFree s).clusters = s.clusters := rfl
@[simp] theorem bumpFree_dies (s : State) : (bumpFree s).dies = s.dies := rfl
@[simp] theorem bumpFree_owners (s : State) : (bumpFree s).owners = s.owners := rfl
@[simp] theorem bumpFree_gwq (s : State) : (bumpFree s).gwq = s.gwq := rfl
@[simp] theorem bumpFree_fenceOrder (s : State) : (bumpFree s).fenceOrder = s.fenceOrder := rfl
@[simp] theorem bumpFree_hub (s : State) : (bumpFree s).hub = s.hub := rfl

@[simp] theorem modHub_hub (s : State) (f : Hub → Hub) : (modHub s f).hub = f s.hub := rfl
@[simp] theorem bumpFree_freeCtr (s : State) : (bumpFree s).freeCtr = s.freeCtr + 1 := rfl

/-! ## Look-ups -/

@[simp] theorem getCtx_setCtx (s : State) (c : CtxId) (x : Ctx) : getCtx (setCtx s c x) c = x := by
  simp [getCtx, setCtx]
@[simp] theorem getCtx_modCtx (s : State) (c : CtxId) (f : Ctx → Ctx) : getCtx (modCtx s c f) c = f (getCtx s c) := by
  simp [modCtx]
/-- Two updates of one context are one. -/
@[simp] theorem modCtx_modCtx (s : State) (c : CtxId) (f g : Ctx → Ctx) : modCtx (modCtx s c f) c g = modCtx s c (fun x => g (f x)) := by
  simp [modCtx, setCtx, getCtx]
@[simp] theorem modCell_modCell (s : State) (n : Nat) (f g : Cell → Cell) :
    modCell (modCell s n f) n g = modCell s n (fun x => g (f x)) := by
  simp [modCell, getCell]
@[simp] theorem modCluster_modCluster (s : State) (n : Nat) (f g : Cluster → Cluster) :
    modCluster (modCluster s n f) n g = modCluster s n (fun x => g (f x)) := by
  simp [modCluster, getCluster]
@[simp] theorem modHub_modHub (s : State) (f g : Hub → Hub) : modHub (modHub s f) g = modHub s (fun h => g (f h)) := rfl
theorem getCtx_setCtx_ne (s : State) {c d : CtxId} (x : Ctx) (h : ctxKey d ≠ ctxKey c) : getCtx (setCtx s c x) d = getCtx s d := by
  simp [getCtx, setCtx, tget_tput_ne _ _ _ h]
theorem getCtx_modCtx_ne (s : State) {c d : CtxId} (f : Ctx → Ctx) (h : ctxKey d ≠ ctxKey c) :
    getCtx (modCtx s c f) d = getCtx s d := getCtx_setCtx_ne s _ h
@[simp] theorem getCell_modCell (s : State) (n : Nat) (f : Cell → Cell) : getCell (modCell s n f) n = f (getCell s n) := by
  simp [getCell, modCell]
theorem getCell_modCell_ne (s : State) {n m : Nat} (f : Cell → Cell) (h : m ≠ n) : getCell (modCell s n f) m = getCell s m := by
  simp [getCell, modCell, tget_tput_ne _ _ _ h]
@[simp] theorem getCluster_modCluster (s : State) (n : Nat) (f : Cluster → Cluster) :
    getCluster (modCluster s n f) n = f (getCluster s n) := by
  simp [getCluster, modCluster]
theorem getCluster_modCluster_ne (s : State) {n m : Nat} (f : Cluster → Cluster) (h : m ≠ n) :
    getCluster (modCluster s n f) m = getCluster s m := by
  simp [getCluster, modCluster, tget_tput_ne _ _ _ h]
@[simp] theorem getDie_modDie (s : State) (n : Nat) (f : Die → Die) : getDie (modDie s n f) n = f (getDie s n) := by
  simp [getDie, modDie]
theorem getDie_modDie_ne (s : State) {n m : Nat} (f : Die → Die) (h : m ≠ n) : getDie (modDie s n f) m = getDie s m := by
  simp [getDie, modDie, tget_tput_ne _ _ _ h]

@[simp] theorem getCtx_modCell (s : State) (n : Nat) (f : Cell → Cell) (d : CtxId) : getCtx (modCell s n f) d = getCtx s d := rfl
@[simp] theorem getCtx_modCluster (s : State) (n : Nat) (f : Cluster → Cluster) (d : CtxId) : getCtx (modCluster s n f) d = getCtx s d := rfl
@[simp] theorem getCtx_modDie (s : State) (n : Nat) (f : Die → Die) (d : CtxId) : getCtx (modDie s n f) d = getCtx s d := rfl
@[simp] theorem getCtx_modHub (s : State) (f : Hub → Hub) (d : CtxId) : getCtx (modHub s f) d = getCtx s d := rfl
@[simp] theorem getCtx_bumpFree (s : State) (d : CtxId) : getCtx (bumpFree s) d = getCtx s d := rfl
@[simp] theorem getCell_setCtx (s : State) (c : CtxId) (x : Ctx) (m : Nat) : getCell (setCtx s c x) m = getCell s m := rfl
@[simp] theorem getCell_modCtx (s : State) (c : CtxId) (f : Ctx → Ctx) (m : Nat) : getCell (modCtx s c f) m = getCell s m := rfl
@[simp] theorem getCell_modCluster (s : State) (n : Nat) (f : Cluster → Cluster) (m : Nat) : getCell (modCluster s n f) m = getCell s m := rfl
@[simp] theorem getCell_modDie (s : State) (n : Nat) (f : Die → Die) (m : Nat) : getCell (modDie s n f) m = getCell s m := rfl
@[simp] theorem getCell_modHub (s : State) (f : Hub → Hub) (m : Nat) : getCell (modHub s f) m = getCell s m := rfl
@[simp] theorem getCell_bumpFree (s : State) (m : Nat) : getCell (bumpFree s) m = getCell s m := rfl
@[simp] theorem getCluster_setCtx (s : State) (c : CtxId) (x : Ctx) (m : Nat) : getCluster (setCtx s c x) m = getCluster s m := rfl
@[simp] theorem getCluster_modCtx (s : State) (c : CtxId) (f : Ctx → Ctx) (m : Nat) : getCluster (modCtx s c f) m = getCluster s m := rfl
@[simp] theorem getCluster_modCell (s : State) (n : Nat) (f : Cell → Cell) (m : Nat) : getCluster (modCell s n f) m = getCluster s m := rfl
@[simp] theorem getCluster_modDie (s : State) (n : Nat) (f : Die → Die) (m : Nat) : getCluster (modDie s n f) m = getCluster s m := rfl
@[simp] theorem getCluster_modHub (s : State) (f : Hub → Hub) (m : Nat) : getCluster (modHub s f) m = getCluster s m := rfl
@[simp] theorem getCluster_bumpFree (s : State) (m : Nat) : getCluster (bumpFree s) m = getCluster s m := rfl
@[simp] theorem getDie_setCtx (s : State) (c : CtxId) (x : Ctx) (m : Nat) : getDie (setCtx s c x) m = getDie s m := rfl
@[simp] theorem getDie_modCtx (s : State) (c : CtxId) (f : Ctx → Ctx) (m : Nat) : getDie (modCtx s c f) m = getDie s m := rfl
@[simp] theorem getDie_modCell (s : State) (n : Nat) (f : Cell → Cell) (m : Nat) : getDie (modCell s n f) m = getDie s m := rfl
@[simp] theorem getDie_modCluster (s : State) (n : Nat) (f : Cluster → Cluster) (m : Nat) : getDie (modCluster s n f) m = getDie s m := rfl
@[simp] theorem getDie_modHub (s : State) (f : Hub → Hub) (m : Nat) : getDie (modHub s f) m = getDie s m := rfl
@[simp] theorem getDie_bumpFree (s : State) (m : Nat) : getDie (bumpFree s) m = getDie s m := rfl
@[simp] theorem launchAt_setCtx (s : State) (c : CtxId) (x : Ctx) (m : Nat) : launchAt (setCtx s c x) m = launchAt s m := rfl
@[simp] theorem launchAt_modCtx (s : State) (c : CtxId) (f : Ctx → Ctx) (m : Nat) : launchAt (modCtx s c f) m = launchAt s m := rfl
@[simp] theorem launchAt_modCell (s : State) (n : Nat) (f : Cell → Cell) (m : Nat) : launchAt (modCell s n f) m = launchAt s m := rfl
@[simp] theorem launchAt_modCluster (s : State) (n : Nat) (f : Cluster → Cluster) (m : Nat) : launchAt (modCluster s n f) m = launchAt s m := rfl
@[simp] theorem launchAt_modDie (s : State) (n : Nat) (f : Die → Die) (m : Nat) : launchAt (modDie s n f) m = launchAt s m := rfl
@[simp] theorem launchAt_bumpFree (s : State) (m : Nat) : launchAt (bumpFree s) m = launchAt s m := rfl

end Sys2Proof.Machine
end

