-- ==== Sys2Proof/Laws/Ops.lean ====
section
/-! SUPPORT. What the shared operations of an instruction answer: reading and writing registers (R135), the stall behind an
outstanding load (R122), the issue of an instruction and how it ends. -/

namespace Sys2Proof.Machine

/-! ## Computations -/

@[simp] theorem runX_pure {α : Type} (a : α) (s : State) : (pure a : X α).run s = .ok (a, s) := rfl
@[simp] theorem runX_get (s : State) : (get : X State).run s = .ok (s, s) := rfl
@[simp] theorem runX_set (s t : State) : (set t : X PUnit).run s = .ok ((), t) := rfl
@[simp] theorem runX_modify (f : State → State) (s : State) : (modify f : X PUnit).run s = .ok ((), f s) := rfl
@[simp] theorem runX_trap {α : Type} (t : TrapInfo) (s : State) : (trapWith t : X α).run s = .error (.trap t s) := rfl
@[simp] theorem runX_stall {α : Type} (w : Wait) (s : State) : (stallWith w : X α).run s = .error (.stall w s) := rfl

/-- A computation goes on where the one before it answered. -/
theorem runX_bind_ok {α β : Type} {x : X α} {f : α → X β} {s t : State} {a : α} (h : x.run s = .ok (a, t)) :
    (x >>= f).run s = (f a).run t := by
  simp only [StateT.run_bind, h]; rfl

/-- A computation that ends early ends what follows. -/
theorem runX_bind_error {α β : Type} {x : X α} {f : α → X β} {s : State} {e : Halt} (h : x.run s = .error e) :
    (x >>= f).run s = .error e := by
  simp only [StateT.run_bind, h]; rfl

/-- What a sequence answers, the first part answered. -/
theorem runX_bind_eq_ok {α β : Type} {x : X α} {f : α → X β} {s u : State} {b : β} (h : (x >>= f).run s = .ok (b, u)) :
    ∃ a t, x.run s = .ok (a, t) ∧ (f a).run t = .ok (b, u) := by
  cases hx : x.run s with
  | error e => rw [runX_bind_error hx] at h; cases h
  | ok p => exact ⟨p.1, p.2, rfl, by rw [← runX_bind_ok hx]; exact h⟩

@[simp] theorem runX_ctx (c : CtxId) (s : State) : (ctx c).run s = .ok (getCtx s c, s) := rfl
@[simp] theorem runX_updCtx (c : CtxId) (f : Ctx → Ctx) (s : State) : (updCtx c f).run s = .ok ((), modCtx s c f) := rfl
@[simp] theorem runX_updSec (c : CtxId) (f : Section → Section) (s : State) :
    (updSec c f).run s = .ok ((), modCtx s c fun x => { x with sec := f x.sec }) := rfl

/-! ## Registers -/

/-- A register that a load is still to write stalls; another is at hand (R122). -/
theorem needX_run (c : CtxId) (r : Reg) (s : State) :
    (needX c r).run s = if (getCtx s c).loads.any (pendsX r) then .error (.stall .other s) else .ok ((), s) := by
  unfold needX
  rw [runX_bind_ok (runX_ctx c s)]
  split <;> rfl

theorem needF_run (c : CtxId) (r : Reg) (s : State) :
    (needF c r).run s = if (getCtx s c).loads.any (pendsF r) then .error (.stall .other s) else .ok ((), s) := by
  unfold needF
  rw [runX_bind_ok (runX_ctx c s)]
  split <;> rfl

theorem needW_run (c : CtxId) (r : Reg) (s : State) :
    (needW c r).run s = if (getCtx s c).loads.any (pendsW r) then .error (.stall .other s) else .ok ((), s) := by
  unfold needW
  rw [runX_bind_ok (runX_ctx c s)]
  split <;> rfl

theorem needX_quiet {c : CtxId} {s : State} (r : Reg) (h : (getCtx s c).loads = []) : (needX c r).run s = .ok ((), s) := by
  simp [needX_run, h]
theorem needF_quiet {c : CtxId} {s : State} (r : Reg) (h : (getCtx s c).loads = []) : (needF c r).run s = .ok ((), s) := by
  simp [needF_run, h]
theorem needW_quiet {c : CtxId} {s : State} (r : Reg) (h : (getCtx s c).loads = []) : (needW c r).run s = .ok ((), s) := by
  simp [needW_run, h]

theorem getX_quiet {c : CtxId} {s : State} (r : Reg) (h : (getCtx s c).loads = []) :
    (getX c r).run s = .ok (xVal (getCtx s c) r, s) := by
  unfold getX
  rw [runX_bind_ok (needX_quiet r h)]; rfl

theorem putX_quiet {c : CtxId} {s : State} (r : Reg) (v : Word) (h : (getCtx s c).loads = []) :
    (putX c r v).run s = .ok ((), modCtx s c fun x => setXReg x r v) := by
  unfold putX
  rw [runX_bind_ok (needX_quiet r h)]; rfl

theorem getF_quiet {c : CtxId} {s : State} (r : Reg) (h : (getCtx s c).loads = []) :
    (getF c r).run s = .ok ((getCtx s c).regs.f[r], s) := by
  unfold getF
  rw [runX_bind_ok (needF_quiet r h)]; rfl

theorem putF_quiet {c : CtxId} {s : State} (r : Reg) (v : Word) (h : (getCtx s c).loads = []) :
    (putF c r v).run s = .ok ((), modCtx s c fun x => setFReg x r v) := by
  unfold putF
  rw [runX_bind_ok (needF_quiet r h)]; rfl

/-- Reading a register changes nothing. -/
theorem getX_ok {c : CtxId} {r : Reg} {s t : State} {v : Word} (h : (getX c r).run s = .ok (v, t)) :
    t = s ∧ v = xVal (getCtx s c) r := by
  unfold getX at h
  obtain ⟨_, u, h1, h2⟩ := runX_bind_eq_ok h
  rw [needX_run] at h1
  split at h1
  · cases h1
  · cases h1; cases h2; exact ⟨rfl, rfl⟩

theorem getF_ok {c : CtxId} {r : Reg} {s t : State} {v : Word} (h : (getF c r).run s = .ok (v, t)) :
    t = s ∧ v = (getCtx s c).regs.f[r] := by
  unfold getF at h
  obtain ⟨_, u, h1, h2⟩ := runX_bind_eq_ok h
  rw [needF_run] at h1
  split at h1
  · cases h1
  · cases h1; cases h2; exact ⟨rfl, rfl⟩

/-- Writing a register changes that register alone. -/
theorem putX_ok {c : CtxId} {r : Reg} {v : Word} {s t : State} {u : Unit} (h : (putX c r v).run s = .ok (u, t)) :
    t = modCtx s c fun x => setXReg x r v := by
  unfold putX at h
  obtain ⟨_, w, h1, h2⟩ := runX_bind_eq_ok h
  rw [needX_run] at h1
  split at h1
  · cases h1
  · cases h1; cases h2; rfl

theorem putF_ok {c : CtxId} {r : Reg} {v : Word} {s t : State} {u : Unit} (h : (putF c r v).run s = .ok (u, t)) :
    t = modCtx s c fun x => setFReg x r v := by
  unfold putF at h
  obtain ⟨_, w, h1, h2⟩ := runX_bind_eq_ok h
  rw [needF_run] at h1
  split at h1
  · cases h1
  · cases h1; cases h2; rfl

/-! ## The issue of an instruction -/

/-- The context issues now: what `issueOp` asks before it runs the instruction. -/
def issuesNow (s : State) : Bool :=
  canIssue (getCtx s s.cur) && (getCtx s s.cur).sec.commit.isNone &&
  !((getCtx s s.cur).sec.heldExpiry && ((getCtx s s.cur).sec.buffer.isEmpty || !(getCtx s s.cur).sec.irrevocable))

theorem issueOp_eq {s : State} {len : Nat} {body : X Unit} (h : issuesNow s = true) :
    issueOp s len body = settle s.cur len (body.run s) := by
  unfold issuesNow at h
  simp only [Bool.and_eq_true, Bool.not_eq_true', Option.isNone_iff_eq_none] at h
  obtain ⟨⟨h1, h2⟩, h3⟩ := h
  simp [issueOp, h1, h2, h3]

theorem issueOp_ok {s t : State} {len : Nat} {body : X Unit} (h : issuesNow s = true) (hb : body.run s = .ok ((), t)) :
    issueOp s len body = .next (complete t s.cur len) := by
  rw [issueOp_eq h, hb]; rfl

theorem issueOp_trap {s t : State} {len : Nat} {body : X Unit} {i : TrapInfo} (h : issuesNow s = true)
    (hb : body.run s = .error (.trap i t)) : issueOp s len body = .next (takeTrap t s.cur i) := by
  rw [issueOp_eq h, hb]; rfl

theorem issueOp_stall {s t : State} {len : Nat} {body : X Unit} {w : Wait} (h : issuesNow s = true)
    (hb : body.run s = .error (.stall w t)) : issueOp s len body = .next (modCtx t s.cur fun x => { x with wait := w }) := by
  rw [issueOp_eq h, hb]; rfl

/-- Everything that issuing an instruction can answer. -/
theorem issueOp_cases (s : State) (len : Nat) (body : X Unit) :
    issueOp s len body = .next s ∨ issueOp s len body = .next (heldTrap s s.cur) ∨
    (∃ t, body.run s = .ok ((), t) ∧ issueOp s len body = .next (complete t s.cur len)) ∨
    (∃ i t, body.run s = .error (.trap i t) ∧ issueOp s len body = .next (takeTrap t s.cur i)) ∨
    (∃ w t, body.run s = .error (.stall w t) ∧ issueOp s len body = .next (modCtx t s.cur fun x => { x with wait := w })) := by
  unfold issueOp
  dsimp only
  split
  · exact .inl rfl
  · split
    · exact .inr (.inl rfl)
    · refine .inr (.inr ?_)
      cases hb : body.run s with
      | ok p => exact .inl ⟨p.2, rfl, rfl⟩
      | error e =>
        cases e with
        | trap i t => exact .inr (.inl ⟨i, t, rfl, rfl⟩)
        | stall w t => exact .inr (.inr ⟨w, t, rfl, rfl⟩)

/-- Without a single step or a halt request the context simply goes on. -/
theorem complete_plain {s : State} {c : CtxId} {len : Nat} (h1 : (getCtx s c).dbg.step = false) (h2 : (getCtx s c).dbg.haltReq = false) :
    complete s c len = modCtx s c fun x =>
      { x with pc := x.pc + BitVec.ofNat 64 len, wait := .none, progress := none, place := none, inUse := [],
               counters := { x.counters with retired := x.counters.retired + 1 }, dbg := { x.dbg with pass := false } } := by
  unfold complete boundary
  simp [h1, h2]

end Sys2Proof.Machine
end

