-- ==== Sys2Proof/Laws/PerInstr.lean ====
section
/-! SUPPORT. Statements for all instructions, one lemma per constructor. RoundTrip: decoding the parcels that `encode` gives an
instruction, whatever follows them, gives the instruction back with its length. -/

set_option linter.unusedSimpArgs false
set_option linter.unnecessarySeqFocus false
set_option linter.unusedTactic false
set_option linter.unreachableTactic false
set_option linter.unusedVariables false

namespace Sys2Proof

theorem decodeWord_0 {w : Nat} {lit : Option Word32} (h : fld w 7 3 = 0) : decodeWord w lit = decodeSys w lit := by
  simp only [decodeWord, h]

theorem decodeWord_1 {w : Nat} {lit : Option Word32} (h : fld w 7 3 = 1) : decodeWord w lit = decodeInt w lit := by
  simp only [decodeWord, h]

theorem decodeWord_9 {w : Nat} {lit : Option Word32} (h : fld w 7 3 = 9) : decodeWord w lit = decodeBranch w lit := by
  simp only [decodeWord, h]

theorem decodeWord_12 {w : Nat} {lit : Option Word32} (h : fld w 7 3 = 12) : decodeWord w lit = decodeLoad w lit := by
  simp only [decodeWord, h]

theorem decodeWord_13 {w : Nat} {lit : Option Word32} (h : fld w 7 3 = 13) : decodeWord w lit = decodeStore w lit := by
  simp only [decodeWord, h]

theorem decodeWord_14 {w : Nat} {lit : Option Word32} (h : fld w 7 3 = 14) : decodeWord w lit = decodeAmo w lit := by
  simp only [decodeWord, h]

theorem decodeWord_15 {w : Nat} {lit : Option Word32} (h : fld w 7 3 = 15) : decodeWord w lit = decodeFp w lit := by
  simp only [decodeWord, h]

theorem decodeWord_17 {w : Nat} {lit : Option Word32} (h : fld w 7 3 = 17) : decodeWord w lit = decodeFma w lit := by
  simp only [decodeWord, h]

theorem decodeWord_18 {w : Nat} {lit : Option Word32} (h : fld w 7 3 = 18) : decodeWord w lit = decodeMsg w lit := by
  simp only [decodeWord, h]

theorem decodeWord_19 {w : Nat} {lit : Option Word32} (h : fld w 7 3 = 19) : decodeWord w lit = decodeV13 w lit := by
  simp only [decodeWord, h]

theorem decodeWord_20 {w : Nat} {lit : Option Word32} (h : fld w 7 3 = 20) : decodeWord w lit = decodeV14 w lit := by
  simp only [decodeWord, h]

theorem decodeWord_21 {w : Nat} {lit : Option Word32} (h : fld w 7 3 = 21) : decodeWord w lit = decodeV15 w lit := by
  simp only [decodeWord, h]

theorem decodeWord_22 {w : Nat} {lit : Option Word32} (h : fld w 7 3 = 22) : decodeWord w lit = decodeV16 w lit := by
  simp only [decodeWord, h]

theorem decodeWord_23 {w : Nat} {lit : Option Word32} (h : fld w 7 3 = 23) : decodeWord w lit = decodeMma w lit := by
  simp only [decodeWord, h]

theorem decodeWord_24 {w : Nat} {lit : Option Word32} (h : fld w 7 3 = 24) : decodeWord w lit = decodeMat w lit := by
  simp only [decodeWord, h]

theorem decodeWord_25 {w : Nat} {lit : Option Word32} (h : fld w 7 3 = 25) : decodeWord w lit = decodeCopy w lit := by
  simp only [decodeWord, h]

theorem decodeWord_26 {w : Nat} {lit : Option Word32} (h : fld w 7 3 = 26) : decodeWord w lit = decodeGrid w lit := by
  simp only [decodeWord, h]

theorem decodeWord_27 {w : Nat} {lit : Option Word32} (h : fld w 7 3 = 27) : decodeWord w lit = decodeNet w lit := by
  simp only [decodeWord, h]

theorem OpC.code_lt (c : OpC) : c.code < 64 := by
  cases c with
  | reg r => have := r.isLt; simp only [OpC.code]; omega
  | bank r => have := r.isLt; simp only [OpC.code]; omega

theorem Prec.code_lt (p : Prec) : p.code < 2 := by cases p <;> decide

/-- P and operand c of the FMA family come back from bits 29 and 28:23. -/
theorem fma_fields (p : Prec) (c : OpC) (k : Nat) (hk : k % 128 = 0) :
    precOf ((c.code + 64 * p.code + k) / 64 % 2 == 1) = p ∧
    (if (c.code + 64 * p.code + k) / 32 % 2 = 1 then OpC.bank (Fin.ofNat 32 (c.code + 64 * p.code + k))
      else OpC.reg (Fin.ofNat 32 (c.code + 64 * p.code + k))) = c := by
  have hc := c.code_lt
  constructor
  · cases p with
    | w => rw [show ((c.code + 64 * Prec.w.code + k) / 64 % 2 == 1) = false from by
            simp only [Prec.code, beq_eq_false_iff_ne]; omega]; rfl
    | d => rw [show ((c.code + 64 * Prec.d.code + k) / 64 % 2 == 1) = true from by
            simp only [Prec.code, beq_iff_eq]; omega]; rfl
  · have hp := p.code_lt
    cases c with
    | reg r =>
      rw [if_neg (by simp only [OpC.code]; omega)]
      simp only [OpC.code]
      congr 1
      exact Fin.ext (by simp only [Fin.val_ofNat]; omega)
    | bank r =>
      rw [if_pos (by simp only [OpC.code]; omega)]
      simp only [OpC.code]
      congr 1
      exact Fin.ext (by simp only [Fin.val_ofNat]; omega)

theorem decode_compact (p : Nat) (rest : List Nat) (i : Instr) (hq : p % 4 ≠ 3) (h : decodeCompact p = .ok i) :
    decode ([p] ++ rest) = .ok (i, [p].length) := by
  simp only [List.cons_append, List.nil_append, decode, if_pos hq, h]
  rfl

end Sys2Proof

namespace Sys2Proof.Laws.RoundTrip

/-- A well-formed instruction that has an encoding comes back from it. -/
def Statement (i : Instr) : Prop :=
  i.wf = true → encode i ≠ [] → ∀ rest : List Nat, decode (encode i ++ rest) = .ok (i, (encode i).length)


theorem add (d a : Reg) (b : OpB) : Statement (.add d a b) := by
  intro hw _ rest
  exact rrrB_ok ⟨1, by decide⟩ d a ⟨0, by first | decide | omega⟩ b _ rest fun w lit h => by
    simp only [decodeWord_1 h.major, decodeInt, h.f31_24, h.rd, h.ra, h.opb, ofNat_val]
    rfl

theorem sub (d a : Reg) (b : OpB) : Statement (.sub d a b) := by
  intro hw _ rest
  exact rrrB_ok ⟨1, by decide⟩ d a ⟨1, by first | decide | omega⟩ b _ rest fun w lit h => by
    simp only [decodeWord_1 h.major, decodeInt, h.f31_24, h.rd, h.ra, h.opb, ofNat_val]
    rfl

theorem mul (d a : Reg) (b : OpB) : Statement (.mul d a b) := by
  intro hw _ rest
  exact rrrB_ok ⟨1, by decide⟩ d a ⟨2, by first | decide | omega⟩ b _ rest fun w lit h => by
    simp only [decodeWord_1 h.major, decodeInt, h.f31_24, h.rd, h.ra, h.opb, ofNat_val]
    rfl

theorem mulh (d a : Reg) (b : OpB) : Statement (.mulh d a b) := by
  intro hw _ rest
  exact rrrB_ok ⟨1, by decide⟩ d a ⟨3, by first | decide | omega⟩ b _ rest fun w lit h => by
    simp only [decodeWord_1 h.major, decodeInt, h.f31_24, h.rd, h.ra, h.opb, ofNat_val]
    rfl

theorem mulhn (d a : Reg) (b : OpB) : Statement (.mulhn d a b) := by
  intro hw _ rest
  exact rrrB_ok ⟨1, by decide⟩ d a ⟨4, by first | decide | omega⟩ b _ rest fun w lit h => by
    simp only [decodeWord_1 h.major, decodeInt, h.f31_24, h.rd, h.ra, h.opb, ofNat_val]
    rfl

theorem div (d a : Reg) (b : OpB) : Statement (.div d a b) := by
  intro hw _ rest
  exact rrrB_ok ⟨1, by decide⟩ d a ⟨5, by first | decide | omega⟩ b _ rest fun w lit h => by
    simp only [decodeWord_1 h.major, decodeInt, h.f31_24, h.rd, h.ra, h.opb, ofNat_val]
    rfl

theorem divn (d a : Reg) (b : OpB) : Statement (.divn d a b) := by
  intro hw _ rest
  exact rrrB_ok ⟨1, by decide⟩ d a ⟨6, by first | decide | omega⟩ b _ rest fun w lit h => by
    simp only [decodeWord_1 h.major, decodeInt, h.f31_24, h.rd, h.ra, h.opb, ofNat_val]
    rfl

theorem rem (d a : Reg) (b : OpB) : Statement (.rem d a b) := by
  intro hw _ rest
  exact rrrB_ok ⟨1, by decide⟩ d a ⟨7, by first | decide | omega⟩ b _ rest fun w lit h => by
    simp only [decodeWord_1 h.major, decodeInt, h.f31_24, h.rd, h.ra, h.opb, ofNat_val]
    rfl

theorem remn (d a : Reg) (b : OpB) : Statement (.remn d a b) := by
  intro hw _ rest
  exact rrrB_ok ⟨1, by decide⟩ d a ⟨8, by first | decide | omega⟩ b _ rest fun w lit h => by
    simp only [decodeWord_1 h.major, decodeInt, h.f31_24, h.rd, h.ra, h.opb, ofNat_val]
    rfl

theorem and (d a : Reg) (b : OpB) : Statement (.and d a b) := by
  intro hw _ rest
  exact rrrB_ok ⟨1, by decide⟩ d a ⟨9, by first | decide | omega⟩ b _ rest fun w lit h => by
    simp only [decodeWord_1 h.major, decodeInt, h.f31_24, h.rd, h.ra, h.opb, ofNat_val]
    rfl

theorem or (d a : Reg) (b : OpB) : Statement (.or d a b) := by
  intro hw _ rest
  exact rrrB_ok ⟨1, by decide⟩ d a ⟨10, by first | decide | omega⟩ b _ rest fun w lit h => by
    simp only [decodeWord_1 h.major, decodeInt, h.f31_24, h.rd, h.ra, h.opb, ofNat_val]
    rfl

theorem xor (d a : Reg) (b : OpB) : Statement (.xor d a b) := by
  intro hw _ rest
  exact rrrB_ok ⟨1, by decide⟩ d a ⟨11, by first | decide | omega⟩ b _ rest fun w lit h => by
    simp only [decodeWord_1 h.major, decodeInt, h.f31_24, h.rd, h.ra, h.opb, ofNat_val]
    rfl

theorem andn (d a : Reg) (b : OpB) : Statement (.andn d a b) := by
  intro hw _ rest
  exact rrrB_ok ⟨1, by decide⟩ d a ⟨12, by first | decide | omega⟩ b _ rest fun w lit h => by
    simp only [decodeWord_1 h.major, decodeInt, h.f31_24, h.rd, h.ra, h.opb, ofNat_val]
    rfl

theorem shl (d a : Reg) (b : OpB) : Statement (.shl d a b) := by
  intro hw _ rest
  exact rrrB_ok ⟨1, by decide⟩ d a ⟨13, by first | decide | omega⟩ b _ rest fun w lit h => by
    simp only [decodeWord_1 h.major, decodeInt, h.f31_24, h.rd, h.ra, h.opb, ofNat_val]
    rfl

theorem shr (d a : Reg) (b : OpB) : Statement (.shr d a b) := by
  intro hw _ rest
  exact rrrB_ok ⟨1, by decide⟩ d a ⟨14, by first | decide | omega⟩ b _ rest fun w lit h => by
    simp only [decodeWord_1 h.major, decodeInt, h.f31_24, h.rd, h.ra, h.opb, ofNat_val]
    rfl

theorem sra (d a : Reg) (b : OpB) : Statement (.sra d a b) := by
  intro hw _ rest
  exact rrrB_ok ⟨1, by decide⟩ d a ⟨15, by first | decide | omega⟩ b _ rest fun w lit h => by
    simp only [decodeWord_1 h.major, decodeInt, h.f31_24, h.rd, h.ra, h.opb, ofNat_val]
    rfl

theorem rol (d a : Reg) (b : OpB) : Statement (.rol d a b) := by
  intro hw _ rest
  exact rrrB_ok ⟨1, by decide⟩ d a ⟨16, by first | decide | omega⟩ b _ rest fun w lit h => by
    simp only [decodeWord_1 h.major, decodeInt, h.f31_24, h.rd, h.ra, h.opb, ofNat_val]
    rfl

theorem ror (d a : Reg) (b : OpB) : Statement (.ror d a b) := by
  intro hw _ rest
  exact rrrB_ok ⟨1, by decide⟩ d a ⟨17, by first | decide | omega⟩ b _ rest fun w lit h => by
    simp only [decodeWord_1 h.major, decodeInt, h.f31_24, h.rd, h.ra, h.opb, ofNat_val]
    rfl

theorem min (d a : Reg) (b : OpB) : Statement (.min d a b) := by
  intro hw _ rest
  exact rrrB_ok ⟨1, by decide⟩ d a ⟨18, by first | decide | omega⟩ b _ rest fun w lit h => by
    simp only [decodeWord_1 h.major, decodeInt, h.f31_24, h.rd, h.ra, h.opb, ofNat_val]
    rfl

theorem max (d a : Reg) (b : OpB) : Statement (.max d a b) := by
  intro hw _ rest
  exact rrrB_ok ⟨1, by decide⟩ d a ⟨19, by first | decide | omega⟩ b _ rest fun w lit h => by
    simp only [decodeWord_1 h.major, decodeInt, h.f31_24, h.rd, h.ra, h.opb, ofNat_val]
    rfl

theorem minn (d a : Reg) (b : OpB) : Statement (.minn d a b) := by
  intro hw _ rest
  exact rrrB_ok ⟨1, by decide⟩ d a ⟨20, by first | decide | omega⟩ b _ rest fun w lit h => by
    simp only [decodeWord_1 h.major, decodeInt, h.f31_24, h.rd, h.ra, h.opb, ofNat_val]
    rfl

theorem maxn (d a : Reg) (b : OpB) : Statement (.maxn d a b) := by
  intro hw _ rest
  exact rrrB_ok ⟨1, by decide⟩ d a ⟨21, by first | decide | omega⟩ b _ rest fun w lit h => by
    simp only [decodeWord_1 h.major, decodeInt, h.f31_24, h.rd, h.ra, h.opb, ofNat_val]
    rfl

theorem slt (d a : Reg) (b : OpB) : Statement (.slt d a b) := by
  intro hw _ rest
  exact rrrB_ok ⟨1, by decide⟩ d a ⟨22, by first | decide | omega⟩ b _ rest fun w lit h => by
    simp only [decodeWord_1 h.major, decodeInt, h.f31_24, h.rd, h.ra, h.opb, ofNat_val]
    rfl

theorem sltn (d a : Reg) (b : OpB) : Statement (.sltn d a b) := by
  intro hw _ rest
  exact rrrB_ok ⟨1, by decide⟩ d a ⟨23, by first | decide | omega⟩ b _ rest fun w lit h => by
    simp only [decodeWord_1 h.major, decodeInt, h.f31_24, h.rd, h.ra, h.opb, ofNat_val]
    rfl

theorem seq (d a : Reg) (b : OpB) : Statement (.seq d a b) := by
  intro hw _ rest
  exact rrrB_ok ⟨1, by decide⟩ d a ⟨24, by first | decide | omega⟩ b _ rest fun w lit h => by
    simp only [decodeWord_1 h.major, decodeInt, h.f31_24, h.rd, h.ra, h.opb, ofNat_val]
    rfl

theorem clz (d a : Reg) : Statement (.clz d a) := by
  intro hw _ rest
  exact rrr_ok ⟨1, by decide⟩ d a ⟨0, by first | decide | omega⟩ ⟨50, by first | decide | omega⟩ _ rest fun w h => by
    simp only [decodeWord_1 h.major, decodeInt, h.f31_24, h.rd, h.ra, noB, noLit, h.f23_23, h.f22_18, ofNat_val]
    rfl

theorem ctz (d a : Reg) : Statement (.ctz d a) := by
  intro hw _ rest
  exact rrr_ok ⟨1, by decide⟩ d a ⟨0, by first | decide | omega⟩ ⟨52, by first | decide | omega⟩ _ rest fun w h => by
    simp only [decodeWord_1 h.major, decodeInt, h.f31_24, h.rd, h.ra, noB, noLit, h.f23_23, h.f22_18, ofNat_val]
    rfl

theorem popc (d a : Reg) : Statement (.popc d a) := by
  intro hw _ rest
  exact rrr_ok ⟨1, by decide⟩ d a ⟨0, by first | decide | omega⟩ ⟨54, by first | decide | omega⟩ _ rest fun w h => by
    simp only [decodeWord_1 h.major, decodeInt, h.f31_24, h.rd, h.ra, noB, noLit, h.f23_23, h.f22_18, ofNat_val]
    rfl

theorem bfx (d a : Reg) (b : OpB) : Statement (.bfx d a b) := by
  intro hw _ rest
  exact rrrB_ok ⟨1, by decide⟩ d a ⟨28, by first | decide | omega⟩ b _ rest fun w lit h => by
    simp only [decodeWord_1 h.major, decodeInt, h.f31_24, h.rd, h.ra, h.opb, ofNat_val]
    rfl

theorem bfi (d a : Reg) (b : OpB) : Statement (.bfi d a b) := by
  intro hw _ rest
  exact rrrB_ok ⟨1, by decide⟩ d a ⟨29, by first | decide | omega⟩ b _ rest fun w lit h => by
    simp only [decodeWord_1 h.major, decodeInt, h.f31_24, h.rd, h.ra, h.opb, ofNat_val]
    rfl

theorem brev (d a : Reg) : Statement (.brev d a) := by
  intro hw _ rest
  exact rrr_ok ⟨1, by decide⟩ d a ⟨0, by first | decide | omega⟩ ⟨60, by first | decide | omega⟩ _ rest fun w h => by
    simp only [decodeWord_1 h.major, decodeInt, h.f31_24, h.rd, h.ra, noB, noLit, h.f23_23, h.f22_18, ofNat_val]
    rfl

theorem bswap (d a : Reg) : Statement (.bswap d a) := by
  intro hw _ rest
  exact rrr_ok ⟨1, by decide⟩ d a ⟨0, by first | decide | omega⟩ ⟨62, by first | decide | omega⟩ _ rest fun w h => by
    simp only [decodeWord_1 h.major, decodeInt, h.f31_24, h.rd, h.ra, noB, noLit, h.f23_23, h.f22_18, ofNat_val]
    rfl

theorem addi (d a : Reg) (i : Imm 14) : Statement (.addi d a i) := by
  intro hw _ rest
  have hd := d.isLt
  have ha := a.isLt
  exact immW_ok ⟨2, by decide⟩ (d.val + 32 * a.val) 10 i _ rest (by first | decide | omega | (simp only [Bool.toNat_true, Bool.toNat_false, StOrder.code]; omega)) fun w lit u q hq7 he hq3 hi => by
    have hf := low10 he ⟨hq3, hq7⟩ (by decide) (by omega)
    have hi : immAt 14 w 18 lit = .ok i := hi
    simp only [decodeWord, hf.1, hf.2.1, hf.2.2, hi, ofNat_val]
    rfl

theorem andi (d a : Reg) (i : Imm 14) : Statement (.andi d a i) := by
  intro hw _ rest
  have hd := d.isLt
  have ha := a.isLt
  exact immW_ok ⟨3, by decide⟩ (d.val + 32 * a.val) 10 i _ rest (by first | decide | omega | (simp only [Bool.toNat_true, Bool.toNat_false, StOrder.code]; omega)) fun w lit u q hq7 he hq3 hi => by
    have hf := low10 he ⟨hq3, hq7⟩ (by decide) (by omega)
    have hi : immAt 14 w 18 lit = .ok i := hi
    simp only [decodeWord, hf.1, hf.2.1, hf.2.2, hi, ofNat_val]
    rfl

theorem ori (d a : Reg) (i : Imm 14) : Statement (.ori d a i) := by
  intro hw _ rest
  have hd := d.isLt
  have ha := a.isLt
  exact immW_ok ⟨4, by decide⟩ (d.val + 32 * a.val) 10 i _ rest (by first | decide | omega | (simp only [Bool.toNat_true, Bool.toNat_false, StOrder.code]; omega)) fun w lit u q hq7 he hq3 hi => by
    have hf := low10 he ⟨hq3, hq7⟩ (by decide) (by omega)
    have hi : immAt 14 w 18 lit = .ok i := hi
    simp only [decodeWord, hf.1, hf.2.1, hf.2.2, hi, ofNat_val]
    rfl

theorem xori (d a : Reg) (i : Imm 14) : Statement (.xori d a i) := by
  intro hw _ rest
  have hd := d.isLt
  have ha := a.isLt
  exact immW_ok ⟨5, by decide⟩ (d.val + 32 * a.val) 10 i _ rest (by first | decide | omega | (simp only [Bool.toNat_true, Bool.toNat_false, StOrder.code]; omega)) fun w lit u q hq7 he hq3 hi => by
    have hf := low10 he ⟨hq3, hq7⟩ (by decide) (by omega)
    have hi : immAt 14 w 18 lit = .ok i := hi
    simp only [decodeWord, hf.1, hf.2.1, hf.2.2, hi, ofNat_val]
    rfl

theorem slti (d a : Reg) (i : Imm 14) : Statement (.slti d a i) := by
  intro hw _ rest
  have hd := d.isLt
  have ha := a.isLt
  exact immW_ok ⟨6, by decide⟩ (d.val + 32 * a.val) 10 i _ rest (by first | decide | omega | (simp only [Bool.toNat_true, Bool.toNat_false, StOrder.code]; omega)) fun w lit u q hq7 he hq3 hi => by
    have hf := low10 he ⟨hq3, hq7⟩ (by decide) (by omega)
    have hi : immAt 14 w 18 lit = .ok i := hi
    simp only [decodeWord, hf.1, hf.2.1, hf.2.2, hi, ofNat_val]
    rfl

theorem lui (d : Reg) (i : Imm 19) : Statement (.lui d i) := by
  intro hw _ rest
  have hd := d.isLt
  exact immW_ok ⟨7, by decide⟩ (d.val) 5 i _ rest (by first | decide | omega | (simp only [Bool.toNat_true, Bool.toNat_false, StOrder.code]; omega)) fun w lit u q hq7 he hq3 hi => by
    have hf := low5 he ⟨hq3, hq7⟩ (by decide)
    have hi : immAt 19 w 13 lit = .ok i := hi
    simp only [decodeWord, hf.1, hf.2, hi, ofNat_val]
    rfl

theorem addpc (d : Reg) (i : Imm 19) : Statement (.addpc d i) := by
  intro hw _ rest
  have hd := d.isLt
  exact immW_ok ⟨8, by decide⟩ (d.val) 5 i _ rest (by first | decide | omega | (simp only [Bool.toNat_true, Bool.toNat_false, StOrder.code]; omega)) fun w lit u q hq7 he hq3 hi => by
    have hf := low5 he ⟨hq3, hq7⟩ (by decide)
    have hi : immAt 19 w 13 lit = .ok i := hi
    simp only [decodeWord, hf.1, hf.2, hi, ofNat_val]
    rfl

theorem beq (a b : Reg) (off : Imm 11) : Statement (.beq a b off) := by
  intro hw _ rest
  have ha := a.isLt
  have hb := b.isLt
  exact immW_ok ⟨9, by decide⟩ (a.val + 32 * b.val + 1024 * 0) 13 off _ rest (by first | decide | omega | (simp only [Bool.toNat_true, Bool.toNat_false, StOrder.code]; omega)) fun w lit u q hq7 he hq3 hi => by
    have hf := low13 he ⟨hq3, hq7⟩ (by decide) (by omega) (by omega) (by decide)
    have hi : immAt 11 w 21 lit = .ok off := hi
    simp only [decodeWord_9 hf.1, decodeBranch, hf.2.1, hf.2.2.1, hf.2.2.2, hi, ofNat_val]
    rfl

theorem bne (a b : Reg) (off : Imm 11) : Statement (.bne a b off) := by
  intro hw _ rest
  have ha := a.isLt
  have hb := b.isLt
  exact immW_ok ⟨9, by decide⟩ (a.val + 32 * b.val + 1024 * 1) 13 off _ rest (by first | decide | omega | (simp only [Bool.toNat_true, Bool.toNat_false, StOrder.code]; omega)) fun w lit u q hq7 he hq3 hi => by
    have hf := low13 he ⟨hq3, hq7⟩ (by decide) (by omega) (by omega) (by decide)
    have hi : immAt 11 w 21 lit = .ok off := hi
    simp only [decodeWord_9 hf.1, decodeBranch, hf.2.1, hf.2.2.1, hf.2.2.2, hi, ofNat_val]
    rfl

theorem blt (a b : Reg) (off : Imm 11) : Statement (.blt a b off) := by
  intro hw _ rest
  have ha := a.isLt
  have hb := b.isLt
  exact immW_ok ⟨9, by decide⟩ (a.val + 32 * b.val + 1024 * 2) 13 off _ rest (by first | decide | omega | (simp only [Bool.toNat_true, Bool.toNat_false, StOrder.code]; omega)) fun w lit u q hq7 he hq3 hi => by
    have hf := low13 he ⟨hq3, hq7⟩ (by decide) (by omega) (by omega) (by decide)
    have hi : immAt 11 w 21 lit = .ok off := hi
    simp only [decodeWord_9 hf.1, decodeBranch, hf.2.1, hf.2.2.1, hf.2.2.2, hi, ofNat_val]
    rfl

theorem bge (a b : Reg) (off : Imm 11) : Statement (.bge a b off) := by
  intro hw _ rest
  have ha := a.isLt
  have hb := b.isLt
  exact immW_ok ⟨9, by decide⟩ (a.val + 32 * b.val + 1024 * 3) 13 off _ rest (by first | decide | omega | (simp only [Bool.toNat_true, Bool.toNat_false, StOrder.code]; omega)) fun w lit u q hq7 he hq3 hi => by
    have hf := low13 he ⟨hq3, hq7⟩ (by decide) (by omega) (by omega) (by decide)
    have hi : immAt 11 w 21 lit = .ok off := hi
    simp only [decodeWord_9 hf.1, decodeBranch, hf.2.1, hf.2.2.1, hf.2.2.2, hi, ofNat_val]
    rfl

theorem bltn (a b : Reg) (off : Imm 11) : Statement (.bltn a b off) := by
  intro hw _ rest
  have ha := a.isLt
  have hb := b.isLt
  exact immW_ok ⟨9, by decide⟩ (a.val + 32 * b.val + 1024 * 4) 13 off _ rest (by first | decide | omega | (simp only [Bool.toNat_true, Bool.toNat_false, StOrder.code]; omega)) fun w lit u q hq7 he hq3 hi => by
    have hf := low13 he ⟨hq3, hq7⟩ (by decide) (by omega) (by omega) (by decide)
    have hi : immAt 11 w 21 lit = .ok off := hi
    simp only [decodeWord_9 hf.1, decodeBranch, hf.2.1, hf.2.2.1, hf.2.2.2, hi, ofNat_val]
    rfl

theorem bgen (a b : Reg) (off : Imm 11) : Statement (.bgen a b off) := by
  intro hw _ rest
  have ha := a.isLt
  have hb := b.isLt
  exact immW_ok ⟨9, by decide⟩ (a.val + 32 * b.val + 1024 * 5) 13 off _ rest (by first | decide | omega | (simp only [Bool.toNat_true, Bool.toNat_false, StOrder.code]; omega)) fun w lit u q hq7 he hq3 hi => by
    have hf := low13 he ⟨hq3, hq7⟩ (by decide) (by omega) (by omega) (by decide)
    have hi : immAt 11 w 21 lit = .ok off := hi
    simp only [decodeWord_9 hf.1, decodeBranch, hf.2.1, hf.2.2.1, hf.2.2.2, hi, ofNat_val]
    rfl

theorem j (off : Imm 23) : Statement (.j off) := by
  intro hw _ rest
  exact immW_ok ⟨10, by decide⟩ (0) 1 off _ rest (by first | decide | omega | (simp only [Bool.toNat_true, Bool.toNat_false, StOrder.code]; omega)) fun w lit u q hq7 he hq3 hi => by
    have hf := low1 he ⟨hq3, hq7⟩ (by decide) (by decide)
    have hi : immAt 23 w 9 lit = .ok off := hi
    simp only [decodeWord, hf.1, hf.2, hi, ofNat_val]
    rfl

theorem jal (off : Imm 23) : Statement (.jal off) := by
  intro hw _ rest
  exact immW_ok ⟨10, by decide⟩ (1) 1 off _ rest (by first | decide | omega | (simp only [Bool.toNat_true, Bool.toNat_false, StOrder.code]; omega)) fun w lit u q hq7 he hq3 hi => by
    have hf := low1 he ⟨hq3, hq7⟩ (by decide) (by decide)
    have hi : immAt 23 w 9 lit = .ok off := hi
    simp only [decodeWord, hf.1, hf.2, hi, ofNat_val]
    rfl

theorem jalr (d a : Reg) (i : Imm 14) : Statement (.jalr d a i) := by
  intro hw _ rest
  have hd := d.isLt
  have ha := a.isLt
  exact immW_ok ⟨11, by decide⟩ (d.val + 32 * a.val) 10 i _ rest (by first | decide | omega | (simp only [Bool.toNat_true, Bool.toNat_false, StOrder.code]; omega)) fun w lit u q hq7 he hq3 hi => by
    have hf := low10 he ⟨hq3, hq7⟩ (by decide) (by omega)
    have hi : immAt 14 w 18 lit = .ok i := hi
    simp only [decodeWord, hf.1, hf.2.1, hf.2.2, hi, ofNat_val]
    rfl

theorem ldB (d base : Reg) (off : Imm 9) (acq : Bool) : Statement (.ldB d base off acq) := by
  intro hw _ rest
  have hd := d.isLt
  have hbase := base.isLt
  cases acq <;>
  exact immW_ok ⟨12, by decide⟩ _ 15 off _ rest (by first | decide | omega | (simp only [Bool.toNat_true, Bool.toNat_false, StOrder.code]; omega)) fun w lit u q hq7 he hq3 hi => by
    have hf := low15 he ⟨hq3, hq7⟩ (by decide) (by omega) (by omega) (by decide) (by decide)
    have hi : immAt 9 w 23 lit = .ok off := hi
    simp only [decodeWord_12 hf.1, decodeLoad, hf.2.1, hf.2.2.1, hf.2.2.2.1, hf.2.2.2.2.1, hf.2.2.2.2.2.1, hf.2.2.2.2.2.2, hi, ofNat_val]
    rfl

theorem ldH (d base : Reg) (off : Imm 9) (acq : Bool) : Statement (.ldH d base off acq) := by
  intro hw _ rest
  have hd := d.isLt
  have hbase := base.isLt
  cases acq <;>
  exact immW_ok ⟨12, by decide⟩ _ 15 off _ rest (by first | decide | omega | (simp only [Bool.toNat_true, Bool.toNat_false, StOrder.code]; omega)) fun w lit u q hq7 he hq3 hi => by
    have hf := low15 he ⟨hq3, hq7⟩ (by decide) (by omega) (by omega) (by decide) (by decide)
    have hi : immAt 9 w 23 lit = .ok off := hi
    simp only [decodeWord_12 hf.1, decodeLoad, hf.2.1, hf.2.2.1, hf.2.2.2.1, hf.2.2.2.2.1, hf.2.2.2.2.2.1, hf.2.2.2.2.2.2, hi, ofNat_val]
    rfl

theorem ldW (d base : Reg) (off : Imm 9) (acq : Bool) : Statement (.ldW d base off acq) := by
  intro hw _ rest
  have hd := d.isLt
  have hbase := base.isLt
  cases acq <;>
  exact immW_ok ⟨12, by decide⟩ _ 15 off _ rest (by first | decide | omega | (simp only [Bool.toNat_true, Bool.toNat_false, StOrder.code]; omega)) fun w lit u q hq7 he hq3 hi => by
    have hf := low15 he ⟨hq3, hq7⟩ (by decide) (by omega) (by omega) (by decide) (by decide)
    have hi : immAt 9 w 23 lit = .ok off := hi
    simp only [decodeWord_12 hf.1, decodeLoad, hf.2.1, hf.2.2.1, hf.2.2.2.1, hf.2.2.2.2.1, hf.2.2.2.2.2.1, hf.2.2.2.2.2.2, hi, ofNat_val]
    rfl

theorem ldD (d base : Reg) (off : Imm 9) (acq : Bool) : Statement (.ldD d base off acq) := by
  intro hw _ rest
  have hd := d.isLt
  have hbase := base.isLt
  cases acq <;>
  exact immW_ok ⟨12, by decide⟩ _ 15 off _ rest (by first | decide | omega | (simp only [Bool.toNat_true, Bool.toNat_false, StOrder.code]; omega)) fun w lit u q hq7 he hq3 hi => by
    have hf := low15 he ⟨hq3, hq7⟩ (by decide) (by omega) (by omega) (by decide) (by decide)
    have hi : immAt 9 w 23 lit = .ok off := hi
    simp only [decodeWord_12 hf.1, decodeLoad, hf.2.1, hf.2.2.1, hf.2.2.2.1, hf.2.2.2.2.1, hf.2.2.2.2.2.1, hf.2.2.2.2.2.2, hi, ofNat_val]
    rfl

theorem ldBu (d base : Reg) (off : Imm 9) (acq : Bool) : Statement (.ldBu d base off acq) := by
  intro hw _ rest
  have hd := d.isLt
  have hbase := base.isLt
  cases acq <;>
  exact immW_ok ⟨12, by decide⟩ _ 15 off _ rest (by first | decide | omega | (simp only [Bool.toNat_true, Bool.toNat_false, StOrder.code]; omega)) fun w lit u q hq7 he hq3 hi => by
    have hf := low15 he ⟨hq3, hq7⟩ (by decide) (by omega) (by omega) (by decide) (by decide)
    have hi : immAt 9 w 23 lit = .ok off := hi
    simp only [decodeWord_12 hf.1, decodeLoad, hf.2.1, hf.2.2.1, hf.2.2.2.1, hf.2.2.2.2.1, hf.2.2.2.2.2.1, hf.2.2.2.2.2.2, hi, ofNat_val]
    rfl

theorem ldHu (d base : Reg) (off : Imm 9) (acq : Bool) : Statement (.ldHu d base off acq) := by
  intro hw _ rest
  have hd := d.isLt
  have hbase := base.isLt
  cases acq <;>
  exact immW_ok ⟨12, by decide⟩ _ 15 off _ rest (by first | decide | omega | (simp only [Bool.toNat_true, Bool.toNat_false, StOrder.code]; omega)) fun w lit u q hq7 he hq3 hi => by
    have hf := low15 he ⟨hq3, hq7⟩ (by decide) (by omega) (by omega) (by decide) (by decide)
    have hi : immAt 9 w 23 lit = .ok off := hi
    simp only [decodeWord_12 hf.1, decodeLoad, hf.2.1, hf.2.2.1, hf.2.2.2.1, hf.2.2.2.2.1, hf.2.2.2.2.2.1, hf.2.2.2.2.2.2, hi, ofNat_val]
    rfl

theorem ldfW (d base : Reg) (off : Imm 9) (acq : Bool) : Statement (.ldfW d base off acq) := by
  intro hw _ rest
  have hd := d.isLt
  have hbase := base.isLt
  cases acq <;>
  exact immW_ok ⟨12, by decide⟩ _ 15 off _ rest (by first | decide | omega | (simp only [Bool.toNat_true, Bool.toNat_false, StOrder.code]; omega)) fun w lit u q hq7 he hq3 hi => by
    have hf := low15 he ⟨hq3, hq7⟩ (by decide) (by omega) (by omega) (by decide) (by decide)
    have hi : immAt 9 w 23 lit = .ok off := hi
    simp only [decodeWord_12 hf.1, decodeLoad, hf.2.1, hf.2.2.1, hf.2.2.2.1, hf.2.2.2.2.1, hf.2.2.2.2.2.1, hf.2.2.2.2.2.2, hi, ofNat_val]
    rfl

theorem ldfD (d base : Reg) (off : Imm 9) (acq : Bool) : Statement (.ldfD d base off acq) := by
  intro hw _ rest
  have hd := d.isLt
  have hbase := base.isLt
  cases acq <;>
  exact immW_ok ⟨12, by decide⟩ _ 15 off _ rest (by first | decide | omega | (simp only [Bool.toNat_true, Bool.toNat_false, StOrder.code]; omega)) fun w lit u q hq7 he hq3 hi => by
    have hf := low15 he ⟨hq3, hq7⟩ (by decide) (by omega) (by omega) (by decide) (by decide)
    have hi : immAt 9 w 23 lit = .ok off := hi
    simp only [decodeWord_12 hf.1, decodeLoad, hf.2.1, hf.2.2.1, hf.2.2.2.1, hf.2.2.2.2.1, hf.2.2.2.2.2.1, hf.2.2.2.2.2.2, hi, ofNat_val]
    rfl

theorem stB (s base : Reg) (off : Imm 9) (ord : StOrder) : Statement (.stB s base off ord) := by
  intro hw _ rest
  have hs := s.isLt
  have hbase := base.isLt
  cases ord <;>
  exact immW_ok ⟨13, by decide⟩ _ 15 off _ rest (by first | decide | omega | (simp only [Bool.toNat_true, Bool.toNat_false, StOrder.code]; omega)) fun w lit u q hq7 he hq3 hi => by
    have hf := low15 he ⟨hq3, hq7⟩ (by decide) (by omega) (by omega) (by decide) (by decide)
    have hi : immAt 9 w 23 lit = .ok off := hi
    simp only [decodeWord_13 hf.1, decodeStore, hf.2.1, hf.2.2.1, hf.2.2.2.1, hf.2.2.2.2.1, hf.2.2.2.2.2.1, hf.2.2.2.2.2.2, hi, ofNat_val]
    rfl

theorem stH (s base : Reg) (off : Imm 9) (ord : StOrder) : Statement (.stH s base off ord) := by
  intro hw _ rest
  have hs := s.isLt
  have hbase := base.isLt
  cases ord <;>
  exact immW_ok ⟨13, by decide⟩ _ 15 off _ rest (by first | decide | omega | (simp only [Bool.toNat_true, Bool.toNat_false, StOrder.code]; omega)) fun w lit u q hq7 he hq3 hi => by
    have hf := low15 he ⟨hq3, hq7⟩ (by decide) (by omega) (by omega) (by decide) (by decide)
    have hi : immAt 9 w 23 lit = .ok off := hi
    simp only [decodeWord_13 hf.1, decodeStore, hf.2.1, hf.2.2.1, hf.2.2.2.1, hf.2.2.2.2.1, hf.2.2.2.2.2.1, hf.2.2.2.2.2.2, hi, ofNat_val]
    rfl

theorem stW (s base : Reg) (off : Imm 9) (ord : StOrder) : Statement (.stW s base off ord) := by
  intro hw _ rest
  have hs := s.isLt
  have hbase := base.isLt
  cases ord <;>
  exact immW_ok ⟨13, by decide⟩ _ 15 off _ rest (by first | decide | omega | (simp only [Bool.toNat_true, Bool.toNat_false, StOrder.code]; omega)) fun w lit u q hq7 he hq3 hi => by
    have hf := low15 he ⟨hq3, hq7⟩ (by decide) (by omega) (by omega) (by decide) (by decide)
    have hi : immAt 9 w 23 lit = .ok off := hi
    simp only [decodeWord_13 hf.1, decodeStore, hf.2.1, hf.2.2.1, hf.2.2.2.1, hf.2.2.2.2.1, hf.2.2.2.2.2.1, hf.2.2.2.2.2.2, hi, ofNat_val]
    rfl

theorem stD (s base : Reg) (off : Imm 9) (ord : StOrder) : Statement (.stD s base off ord) := by
  intro hw _ rest
  have hs := s.isLt
  have hbase := base.isLt
  cases ord <;>
  exact immW_ok ⟨13, by decide⟩ _ 15 off _ rest (by first | decide | omega | (simp only [Bool.toNat_true, Bool.toNat_false, StOrder.code]; omega)) fun w lit u q hq7 he hq3 hi => by
    have hf := low15 he ⟨hq3, hq7⟩ (by decide) (by omega) (by omega) (by decide) (by decide)
    have hi : immAt 9 w 23 lit = .ok off := hi
    simp only [decodeWord_13 hf.1, decodeStore, hf.2.1, hf.2.2.1, hf.2.2.2.1, hf.2.2.2.2.1, hf.2.2.2.2.2.1, hf.2.2.2.2.2.2, hi, ofNat_val]
    rfl

theorem stfW (s base : Reg) (off : Imm 9) (ord : StOrder) : Statement (.stfW s base off ord) := by
  intro hw _ rest
  have hs := s.isLt
  have hbase := base.isLt
  cases ord <;>
  exact immW_ok ⟨13, by decide⟩ _ 15 off _ rest (by first | decide | omega | (simp only [Bool.toNat_true, Bool.toNat_false, StOrder.code]; omega)) fun w lit u q hq7 he hq3 hi => by
    have hf := low15 he ⟨hq3, hq7⟩ (by decide) (by omega) (by omega) (by decide) (by decide)
    have hi : immAt 9 w 23 lit = .ok off := hi
    simp only [decodeWord_13 hf.1, decodeStore, hf.2.1, hf.2.2.1, hf.2.2.2.1, hf.2.2.2.2.1, hf.2.2.2.2.2.1, hf.2.2.2.2.2.2, hi, ofNat_val]
    rfl

theorem stfD (s base : Reg) (off : Imm 9) (ord : StOrder) : Statement (.stfD s base off ord) := by
  intro hw _ rest
  have hs := s.isLt
  have hbase := base.isLt
  cases ord <;>
  exact immW_ok ⟨13, by decide⟩ _ 15 off _ rest (by first | decide | omega | (simp only [Bool.toNat_true, Bool.toNat_false, StOrder.code]; omega)) fun w lit u q hq7 he hq3 hi => by
    have hf := low15 he ⟨hq3, hq7⟩ (by decide) (by omega) (by omega) (by decide) (by decide)
    have hi : immAt 9 w 23 lit = .ok off := hi
    simp only [decodeWord_13 hf.1, decodeStore, hf.2.1, hf.2.2.1, hf.2.2.2.1, hf.2.2.2.2.1, hf.2.2.2.2.2.1, hf.2.2.2.2.2.2, hi, ofNat_val]
    rfl

theorem amoadd (dbl : Bool) (ord : AmoOrder) (d a : Reg) (b : OpL) : Statement (.amoadd dbl ord d a b) := by
  intro hw _ rest
  cases dbl <;> cases ord <;>
  exact rrrL_ok ⟨14, by decide⟩ d a ⟨_, by first | decide | (simp; omega)⟩ b _ rest fun w lit n h ho hb => by
    simp only [decodeWord_14 h.major, decodeAmo, h.f31_30, h.f28_27, h.f27_23, h.b29, h.rd, h.ra, ho, zero, ofNat_val]
    rfl

theorem amoand (dbl : Bool) (ord : AmoOrder) (d a : Reg) (b : OpL) : Statement (.amoand dbl ord d a b) := by
  intro hw _ rest
  cases dbl <;> cases ord <;>
  exact rrrL_ok ⟨14, by decide⟩ d a ⟨_, by first | decide | (simp; omega)⟩ b _ rest fun w lit n h ho hb => by
    simp only [decodeWord_14 h.major, decodeAmo, h.f31_30, h.f28_27, h.f27_23, h.b29, h.rd, h.ra, ho, zero, ofNat_val]
    rfl

theorem amoor (dbl : Bool) (ord : AmoOrder) (d a : Reg) (b : OpL) : Statement (.amoor dbl ord d a b) := by
  intro hw _ rest
  cases dbl <;> cases ord <;>
  exact rrrL_ok ⟨14, by decide⟩ d a ⟨_, by first | decide | (simp; omega)⟩ b _ rest fun w lit n h ho hb => by
    simp only [decodeWord_14 h.major, decodeAmo, h.f31_30, h.f28_27, h.f27_23, h.b29, h.rd, h.ra, ho, zero, ofNat_val]
    rfl

theorem amoxor (dbl : Bool) (ord : AmoOrder) (d a : Reg) (b : OpL) : Statement (.amoxor dbl ord d a b) := by
  intro hw _ rest
  cases dbl <;> cases ord <;>
  exact rrrL_ok ⟨14, by decide⟩ d a ⟨_, by first | decide | (simp; omega)⟩ b _ rest fun w lit n h ho hb => by
    simp only [decodeWord_14 h.major, decodeAmo, h.f31_30, h.f28_27, h.f27_23, h.b29, h.rd, h.ra, ho, zero, ofNat_val]
    rfl

theorem amomin (dbl : Bool) (ord : AmoOrder) (d a : Reg) (b : OpL) : Statement (.amomin dbl ord d a b) := by
  intro hw _ rest
  cases dbl <;> cases ord <;>
  exact rrrL_ok ⟨14, by decide⟩ d a ⟨_, by first | decide | (simp; omega)⟩ b _ rest fun w lit n h ho hb => by
    simp only [decodeWord_14 h.major, decodeAmo, h.f31_30, h.f28_27, h.f27_23, h.b29, h.rd, h.ra, ho, zero, ofNat_val]
    rfl

theorem amomax (dbl : Bool) (ord : AmoOrder) (d a : Reg) (b : OpL) : Statement (.amomax dbl ord d a b) := by
  intro hw _ rest
  cases dbl <;> cases ord <;>
  exact rrrL_ok ⟨14, by decide⟩ d a ⟨_, by first | decide | (simp; omega)⟩ b _ rest fun w lit n h ho hb => by
    simp only [decodeWord_14 h.major, decodeAmo, h.f31_30, h.f28_27, h.f27_23, h.b29, h.rd, h.ra, ho, zero, ofNat_val]
    rfl

theorem amominn (dbl : Bool) (ord : AmoOrder) (d a : Reg) (b : OpL) : Statement (.amominn dbl ord d a b) := by
  intro hw _ rest
  cases dbl <;> cases ord <;>
  exact rrrL_ok ⟨14, by decide⟩ d a ⟨_, by first | decide | (simp; omega)⟩ b _ rest fun w lit n h ho hb => by
    simp only [decodeWord_14 h.major, decodeAmo, h.f31_30, h.f28_27, h.f27_23, h.b29, h.rd, h.ra, ho, zero, ofNat_val]
    rfl

theorem amomaxn (dbl : Bool) (ord : AmoOrder) (d a : Reg) (b : OpL) : Statement (.amomaxn dbl ord d a b) := by
  intro hw _ rest
  cases dbl <;> cases ord <;>
  exact rrrL_ok ⟨14, by decide⟩ d a ⟨_, by first | decide | (simp; omega)⟩ b _ rest fun w lit n h ho hb => by
    simp only [decodeWord_14 h.major, decodeAmo, h.f31_30, h.f28_27, h.f27_23, h.b29, h.rd, h.ra, ho, zero, ofNat_val]
    rfl

theorem amoswap (dbl : Bool) (ord : AmoOrder) (d a : Reg) (b : OpL) : Statement (.amoswap dbl ord d a b) := by
  intro hw _ rest
  cases dbl <;> cases ord <;>
  exact rrrL_ok ⟨14, by decide⟩ d a ⟨_, by first | decide | (simp; omega)⟩ b _ rest fun w lit n h ho hb => by
    simp only [decodeWord_14 h.major, decodeAmo, h.f31_30, h.f28_27, h.f27_23, h.b29, h.rd, h.ra, ho, zero, ofNat_val]
    rfl

theorem amocas (dbl : Bool) (ord : AmoOrder) (d a : Reg) (b : OpL) : Statement (.amocas dbl ord d a b) := by
  intro hw _ rest
  cases dbl <;> cases ord <;>
  exact rrrL_ok ⟨14, by decide⟩ d a ⟨_, by first | decide | (simp; omega)⟩ b _ rest fun w lit n h ho hb => by
    simp only [decodeWord_14 h.major, decodeAmo, h.f31_30, h.f28_27, h.f27_23, h.b29, h.rd, h.ra, ho, zero, ofNat_val]
    rfl

theorem amofaddF32 (ord : AmoOrder) (d a : Reg) (b : OpL) : Statement (.amofaddF32 ord d a b) := by
  intro hw _ rest
  cases ord <;>
  exact rrrL_ok ⟨14, by decide⟩ d a ⟨_, by first | decide | (simp; omega)⟩ b _ rest fun w lit n h ho hb => by
    simp only [decodeWord_14 h.major, decodeAmo, h.f31_30, h.f28_27, h.f27_23, h.b29, h.rd, h.ra, ho, zero, ofNat_val]
    rfl

theorem amofminF32 (ord : AmoOrder) (d a : Reg) (b : OpL) : Statement (.amofminF32 ord d a b) := by
  intro hw _ rest
  cases ord <;>
  exact rrrL_ok ⟨14, by decide⟩ d a ⟨_, by first | decide | (simp; omega)⟩ b _ rest fun w lit n h ho hb => by
    simp only [decodeWord_14 h.major, decodeAmo, h.f31_30, h.f28_27, h.f27_23, h.b29, h.rd, h.ra, ho, zero, ofNat_val]
    rfl

theorem amofmaxF32 (ord : AmoOrder) (d a : Reg) (b : OpL) : Statement (.amofmaxF32 ord d a b) := by
  intro hw _ rest
  cases ord <;>
  exact rrrL_ok ⟨14, by decide⟩ d a ⟨_, by first | decide | (simp; omega)⟩ b _ rest fun w lit n h ho hb => by
    simp only [decodeWord_14 h.major, decodeAmo, h.f31_30, h.f28_27, h.f27_23, h.b29, h.rd, h.ra, ho, zero, ofNat_val]
    rfl

theorem fadd (p : Prec) (rm : RmField) (d a : Reg) (b : OpB) : Statement (.fadd p rm d a b) := by
  intro hw _ rest
  cases p <;> cases rm <;>
  exact rrrB_ok ⟨15, by decide⟩ d a ⟨_, by first | decide | (simp; omega)⟩ b _ rest fun w lit h => by
    simp only [decodeWord_15 h.major, decodeFp, h.f25_24, h.f31_27, h.b26, h.rd, h.ra, h.opb, ofNat_val]
    rfl

theorem fsub (p : Prec) (rm : RmField) (d a : Reg) (b : OpB) : Statement (.fsub p rm d a b) := by
  intro hw _ rest
  cases p <;> cases rm <;>
  exact rrrB_ok ⟨15, by decide⟩ d a ⟨_, by first | decide | (simp; omega)⟩ b _ rest fun w lit h => by
    simp only [decodeWord_15 h.major, decodeFp, h.f25_24, h.f31_27, h.b26, h.rd, h.ra, h.opb, ofNat_val]
    rfl

theorem fmul (p : Prec) (rm : RmField) (d a : Reg) (b : OpB) : Statement (.fmul p rm d a b) := by
  intro hw _ rest
  cases p <;> cases rm <;>
  exact rrrB_ok ⟨15, by decide⟩ d a ⟨_, by first | decide | (simp; omega)⟩ b _ rest fun w lit h => by
    simp only [decodeWord_15 h.major, decodeFp, h.f25_24, h.f31_27, h.b26, h.rd, h.ra, h.opb, ofNat_val]
    rfl

theorem fdiv (p : Prec) (rm : RmField) (d a : Reg) (b : OpB) : Statement (.fdiv p rm d a b) := by
  intro hw _ rest
  cases p <;> cases rm <;>
  exact rrrB_ok ⟨15, by decide⟩ d a ⟨_, by first | decide | (simp; omega)⟩ b _ rest fun w lit h => by
    simp only [decodeWord_15 h.major, decodeFp, h.f25_24, h.f31_27, h.b26, h.rd, h.ra, h.opb, ofNat_val]
    rfl

theorem fsqrt (p : Prec) (rm : RmField) (d a : Reg) : Statement (.fsqrt p rm d a) := by
  intro hw _ rest
  cases p <;> cases rm <;>
  exact rrr_ok ⟨15, by decide⟩ d a ⟨0, by first | decide | omega⟩ ⟨_, by first | decide | (simp; omega)⟩ _ rest fun w h => by
    simp only [decodeWord_15 h.major, decodeFp, h.f25_24, h.f31_27, h.b26, h.rd, h.ra, noB, noLit, h.f23_23, h.f22_18, ofNat_val]
    rfl

theorem fmin (p : Prec) (d a : Reg) (b : OpB) : Statement (.fmin p d a b) := by
  intro hw _ rest
  cases p <;>
  exact rrrB_ok ⟨15, by decide⟩ d a ⟨_, by first | decide | (simp; omega)⟩ b _ rest fun w lit h => by
    simp only [decodeWord_15 h.major, decodeFp, h.f25_24, h.f31_27, h.b26, h.rd, h.ra, h.opb, ofNat_val]
    rfl

theorem fmax (p : Prec) (d a : Reg) (b : OpB) : Statement (.fmax p d a b) := by
  intro hw _ rest
  cases p <;>
  exact rrrB_ok ⟨15, by decide⟩ d a ⟨_, by first | decide | (simp; omega)⟩ b _ rest fun w lit h => by
    simp only [decodeWord_15 h.major, decodeFp, h.f25_24, h.f31_27, h.b26, h.rd, h.ra, h.opb, ofNat_val]
    rfl

theorem fabs (p : Prec) (d a : Reg) : Statement (.fabs p d a) := by
  intro hw _ rest
  cases p <;>
  exact rrr_ok ⟨15, by decide⟩ d a ⟨0, by first | decide | omega⟩ ⟨_, by first | decide | (simp; omega)⟩ _ rest fun w h => by
    simp only [decodeWord_15 h.major, decodeFp, h.f25_24, h.f31_27, h.b26, h.rd, h.ra, noB, noLit, h.f23_23, h.f22_18, ofNat_val]
    rfl

theorem fneg (p : Prec) (d a : Reg) : Statement (.fneg p d a) := by
  intro hw _ rest
  cases p <;>
  exact rrr_ok ⟨15, by decide⟩ d a ⟨0, by first | decide | omega⟩ ⟨_, by first | decide | (simp; omega)⟩ _ rest fun w h => by
    simp only [decodeWord_15 h.major, decodeFp, h.f25_24, h.f31_27, h.b26, h.rd, h.ra, noB, noLit, h.f23_23, h.f22_18, ofNat_val]
    rfl

theorem feq (p : Prec) (d a : Reg) (b : OpB) : Statement (.feq p d a b) := by
  intro hw _ rest
  cases p <;>
  exact rrrB_ok ⟨15, by decide⟩ d a ⟨_, by first | decide | (simp; omega)⟩ b _ rest fun w lit h => by
    simp only [decodeWord_15 h.major, decodeFp, h.f25_24, h.f31_27, h.b26, h.rd, h.ra, h.opb, ofNat_val]
    rfl

theorem flt (p : Prec) (d a : Reg) (b : OpB) : Statement (.flt p d a b) := by
  intro hw _ rest
  cases p <;>
  exact rrrB_ok ⟨15, by decide⟩ d a ⟨_, by first | decide | (simp; omega)⟩ b _ rest fun w lit h => by
    simp only [decodeWord_15 h.major, decodeFp, h.f25_24, h.f31_27, h.b26, h.rd, h.ra, h.opb, ofNat_val]
    rfl

theorem fle (p : Prec) (d a : Reg) (b : OpB) : Statement (.fle p d a b) := by
  intro hw _ rest
  cases p <;>
  exact rrrB_ok ⟨15, by decide⟩ d a ⟨_, by first | decide | (simp; omega)⟩ b _ rest fun w lit h => by
    simp only [decodeWord_15 h.major, decodeFp, h.f25_24, h.f31_27, h.b26, h.rd, h.ra, h.opb, ofNat_val]
    rfl

theorem fclass (p : Prec) (d a : Reg) : Statement (.fclass p d a) := by
  intro hw _ rest
  cases p <;>
  exact rrr_ok ⟨15, by decide⟩ d a ⟨0, by first | decide | omega⟩ ⟨_, by first | decide | (simp; omega)⟩ _ rest fun w h => by
    simp only [decodeWord_15 h.major, decodeFp, h.f25_24, h.f31_27, h.b26, h.rd, h.ra, noB, noLit, h.f23_23, h.f22_18, ofNat_val]
    rfl

theorem fcvt (rm : RmField) (code : Fin 16) (d a : Reg) : Statement (.fcvt rm code d a) := by
  intro hw _ rest
  have hcode := code.isLt
  cases rm <;>
  exact rrr_ok ⟨15, by decide⟩ d a ⟨code.val, by first | decide | omega⟩ ⟨_, by first | decide | (simp; omega)⟩ _ rest fun w h => by
    simp only [decodeWord_15 h.major, decodeFp, h.f25_24, h.f31_27, h.f22_18, h.b26, h.rd, h.ra, codeB, noLit, h.f23_23, finIn_val, ofNat_val]
    rfl

theorem fmvx (p : Prec) (d a : Reg) : Statement (.fmvx p d a) := by
  intro hw _ rest
  cases p <;>
  exact rrr_ok ⟨15, by decide⟩ d a ⟨0, by first | decide | omega⟩ ⟨_, by first | decide | (simp; omega)⟩ _ rest fun w h => by
    simp only [decodeWord_15 h.major, decodeFp, h.f25_24, h.f31_27, h.b26, h.rd, h.ra, noB, noLit, h.f23_23, h.f22_18, ofNat_val]
    rfl

theorem fmvf (p : Prec) (d a : Reg) : Statement (.fmvf p d a) := by
  intro hw _ rest
  cases p <;>
  exact rrr_ok ⟨15, by decide⟩ d a ⟨0, by first | decide | omega⟩ ⟨_, by first | decide | (simp; omega)⟩ _ rest fun w h => by
    simp only [decodeWord_15 h.major, decodeFp, h.f25_24, h.f31_27, h.b26, h.rd, h.ra, noB, noLit, h.f23_23, h.f22_18, ofNat_val]
    rfl

theorem frcpA (p : Prec) (d a : Reg) : Statement (.frcpA p d a) := by
  intro hw _ rest
  cases p <;>
  exact rrr_ok ⟨15, by decide⟩ d a ⟨0, by first | decide | omega⟩ ⟨_, by first | decide | (simp; omega)⟩ _ rest fun w h => by
    simp only [decodeWord_15 h.major, decodeFp, h.f25_24, h.f31_27, h.b26, h.rd, h.ra, noB, noLit, h.f23_23, h.f22_18, ofNat_val]
    rfl

theorem frsqA (p : Prec) (d a : Reg) : Statement (.frsqA p d a) := by
  intro hw _ rest
  cases p <;>
  exact rrr_ok ⟨15, by decide⟩ d a ⟨0, by first | decide | omega⟩ ⟨_, by first | decide | (simp; omega)⟩ _ rest fun w h => by
    simp only [decodeWord_15 h.major, decodeFp, h.f25_24, h.f31_27, h.b26, h.rd, h.ra, noB, noLit, h.f23_23, h.f22_18, ofNat_val]
    rfl

theorem fli (fd : Fin 16) (v : Imm 20) : Statement (.fli fd v) := by
  intro hw _ rest
  have hfd := fd.isLt
  exact immW_ok ⟨16, by decide⟩ (fd.val) 4 v _ rest (by first | decide | omega | (simp only [Bool.toNat_true, Bool.toNat_false, StOrder.code]; omega)) fun w lit u q hq7 he hq3 hi => by
    have hf := low4 he ⟨hq3, hq7⟩ (by decide)
    have hi : immAt 20 w 12 lit = .ok v := hi
    simp only [decodeWord, hf.1, hf.2, hi, ofNat_val, show Fin.ofNat 16 fd.val = fd from Fin.ext (by simp only [Fin.val_ofNat]; omega)]
    rfl

theorem fma (p : Prec) (d a : Reg) (b : OpL) (c : OpC) : Statement (.fma p d a b c) := by
  intro hw _ rest
  have hc := c.code_lt
  have hp := p.code_lt
  have hf := fma_fields p c 0 (by decide)
  exact rrrL_ok ⟨17, by decide⟩ d a ⟨c.code + 64 * p.code + 0, by omega⟩ b _ rest fun w lit n h ho hb => by
    simp only [decodeWord_17 h.major, decodeFma, h.f31_30, h.b29, h.rd, h.ra, ho, opC, h.f28_28, h.rc, ofNat_val,
      show (c.code + 64 * p.code + 0) / 128 = 0 from by omega, hf.1, hf.2]
    rfl

theorem fms (p : Prec) (d a : Reg) (b : OpL) (c : OpC) : Statement (.fms p d a b c) := by
  intro hw _ rest
  have hc := c.code_lt
  have hp := p.code_lt
  have hf := fma_fields p c 128 (by decide)
  exact rrrL_ok ⟨17, by decide⟩ d a ⟨c.code + 64 * p.code + 128, by omega⟩ b _ rest fun w lit n h ho hb => by
    simp only [decodeWord_17 h.major, decodeFma, h.f31_30, h.b29, h.rd, h.ra, ho, opC, h.f28_28, h.rc, ofNat_val,
      show (c.code + 64 * p.code + 128) / 128 = 1 from by omega, hf.1, hf.2]
    rfl

theorem fnma (p : Prec) (d a : Reg) (b : OpL) (c : OpC) : Statement (.fnma p d a b c) := by
  intro hw _ rest
  have hc := c.code_lt
  have hp := p.code_lt
  have hf := fma_fields p c 256 (by decide)
  exact rrrL_ok ⟨17, by decide⟩ d a ⟨c.code + 64 * p.code + 256, by omega⟩ b _ rest fun w lit n h ho hb => by
    simp only [decodeWord_17 h.major, decodeFma, h.f31_30, h.b29, h.rd, h.ra, ho, opC, h.f28_28, h.rc, ofNat_val,
      show (c.code + 64 * p.code + 256) / 128 = 2 from by omega, hf.1, hf.2]
    rfl

theorem fnms (p : Prec) (d a : Reg) (b : OpL) (c : OpC) : Statement (.fnms p d a b c) := by
  intro hw _ rest
  have hc := c.code_lt
  have hp := p.code_lt
  have hf := fma_fields p c 384 (by decide)
  exact rrrL_ok ⟨17, by decide⟩ d a ⟨c.code + 64 * p.code + 384, by omega⟩ b _ rest fun w lit n h ho hb => by
    simp only [decodeWord_17 h.major, decodeFma, h.f31_30, h.b29, h.rd, h.ra, ho, opC, h.f28_28, h.rc, ofNat_val,
      show (c.code + 64 * p.code + 384) / 128 = 3 from by omega, hf.1, hf.2]
    rfl

theorem nop : Statement .nop := by
  intro hw _ rest
  rfl

theorem trap (code : BitVec 16) : Statement (.trap code) := by
  intro hw _ rest
  have hcode := code.isLt
  exact decode_word _ _ _ _ (by
      simp only [decodeWord_0 (show fld (3 + 8 * 0 + 256 * (code.toNat + 524288)) 7 3 = 0 from by simp only [fld]; omega), decodeSys, noLit,
        show fld (3 + 8 * 0 + 256 * (code.toNat + 524288)) 31 27 = 1 from by simp only [fld]; omega,
        zero,
        show fld (3 + 8 * 0 + 256 * (code.toNat + 524288)) 26 24 = 0 from by simp only [fld]; omega,
        show BitVec.ofNat 16 ((3 + 8 * 0 + 256 * (code.toNat + 524288)) / 2 ^ 8) = code from BitVec.eq_of_toNat_eq (by rw [BitVec.toNat_ofNat]; omega)]
      rfl)

theorem brk (code : BitVec 16) : Statement (.brk code) := by
  intro hw _ rest
  have hcode := code.isLt
  exact decode_word _ _ _ _ (by
      simp only [decodeWord_0 (show fld (3 + 8 * 0 + 256 * (code.toNat + 1048576)) 7 3 = 0 from by simp only [fld]; omega), decodeSys, noLit,
        show fld (3 + 8 * 0 + 256 * (code.toNat + 1048576)) 31 27 = 2 from by simp only [fld]; omega,
        zero,
        show fld (3 + 8 * 0 + 256 * (code.toNat + 1048576)) 26 24 = 0 from by simp only [fld]; omega,
        show BitVec.ofNat 16 ((3 + 8 * 0 + 256 * (code.toNat + 1048576)) / 2 ^ 8) = code from BitVec.eq_of_toNat_eq (by rw [BitVec.toNat_ofNat]; omega)]
      rfl)

theorem csrr (d : Reg) (csr : BitVec 12) : Statement (.csrr d csr) := by
  intro hw _ rest
  have hd := d.isLt
  have hcsr := csr.isLt
  exact decode_word _ _ _ _ (by
      simp only [decodeWord_0 (show fld (3 + 8 * 0 + 256 * (d.val + 32 * csr.toNat + 1572864)) 7 3 = 0 from by simp only [fld]; omega), decodeSys, noLit,
        show fld (3 + 8 * 0 + 256 * (d.val + 32 * csr.toNat + 1572864)) 31 27 = 3 from by simp only [fld]; omega,
        zero,
        show fld (3 + 8 * 0 + 256 * (d.val + 32 * csr.toNat + 1572864)) 26 25 = 0 from by simp only [fld]; omega,
        regAt,
        show finAt 32 (3 + 8 * 0 + 256 * (d.val + 32 * csr.toNat + 1572864)) 8 = d from Fin.ext (by simp only [finAt, Fin.val_ofNat]; omega),
        show BitVec.ofNat 12 ((3 + 8 * 0 + 256 * (d.val + 32 * csr.toNat + 1572864)) / 2 ^ 13) = csr from BitVec.eq_of_toNat_eq (by rw [BitVec.toNat_ofNat]; omega)]
      rfl)

theorem csrw (csr : BitVec 12) (s : Reg) : Statement (.csrw csr s) := by
  intro hw _ rest
  have hcsr := csr.isLt
  have hs := s.isLt
  exact decode_word _ _ _ _ (by
      simp only [decodeWord_0 (show fld (3 + 8 * 0 + 256 * (s.val + 32 * csr.toNat + 2097152)) 7 3 = 0 from by simp only [fld]; omega), decodeSys, noLit,
        show fld (3 + 8 * 0 + 256 * (s.val + 32 * csr.toNat + 2097152)) 31 27 = 4 from by simp only [fld]; omega,
        zero,
        show fld (3 + 8 * 0 + 256 * (s.val + 32 * csr.toNat + 2097152)) 26 25 = 0 from by simp only [fld]; omega,
        regAt,
        show finAt 32 (3 + 8 * 0 + 256 * (s.val + 32 * csr.toNat + 2097152)) 8 = s from Fin.ext (by simp only [finAt, Fin.val_ofNat]; omega),
        show BitVec.ofNat 12 ((3 + 8 * 0 + 256 * (s.val + 32 * csr.toNat + 2097152)) / 2 ^ 13) = csr from BitVec.eq_of_toNat_eq (by rw [BitVec.toNat_ofNat]; omega)]
      rfl)

theorem tmark (code : BitVec 16) : Statement (.tmark code) := by
  intro hw _ rest
  have hcode := code.isLt
  exact decode_word _ _ _ _ (by
      simp only [decodeWord_0 (show fld (3 + 8 * 0 + 256 * (code.toNat + 2621440)) 7 3 = 0 from by simp only [fld]; omega), decodeSys, noLit,
        show fld (3 + 8 * 0 + 256 * (code.toNat + 2621440)) 31 27 = 5 from by simp only [fld]; omega,
        zero,
        show fld (3 + 8 * 0 + 256 * (code.toNat + 2621440)) 26 24 = 0 from by simp only [fld]; omega,
        show BitVec.ofNat 16 ((3 + 8 * 0 + 256 * (code.toNat + 2621440)) / 2 ^ 8) = code from BitVec.eq_of_toNat_eq (by rw [BitVec.toNat_ofNat]; omega)]
      rfl)

theorem waitc (nl ns nc nm : Fin 16) : Statement (.waitc nl ns nc nm) := by
  intro hw _ rest
  have hnl := nl.isLt
  have hns := ns.isLt
  have hnc := nc.isLt
  have hnm := nm.isLt
  exact decode_word _ _ _ _ (by
      simp only [decodeWord_0 (show fld (3 + 8 * 0 + 256 * (nl.val + 16 * ns.val + 256 * nc.val + 4096 * nm.val + 3145728)) 7 3 = 0 from by simp only [fld]; omega), decodeSys, noLit,
        show fld (3 + 8 * 0 + 256 * (nl.val + 16 * ns.val + 256 * nc.val + 4096 * nm.val + 3145728)) 31 27 = 6 from by simp only [fld]; omega,
        zero,
        show fld (3 + 8 * 0 + 256 * (nl.val + 16 * ns.val + 256 * nc.val + 4096 * nm.val + 3145728)) 26 24 = 0 from by simp only [fld]; omega,
        show finAt 16 (3 + 8 * 0 + 256 * (nl.val + 16 * ns.val + 256 * nc.val + 4096 * nm.val + 3145728)) 8 = nl from Fin.ext (by simp only [finAt, Fin.val_ofNat]; omega),
        show finAt 16 (3 + 8 * 0 + 256 * (nl.val + 16 * ns.val + 256 * nc.val + 4096 * nm.val + 3145728)) 12 = ns from Fin.ext (by simp only [finAt, Fin.val_ofNat]; omega),
        show finAt 16 (3 + 8 * 0 + 256 * (nl.val + 16 * ns.val + 256 * nc.val + 4096 * nm.val + 3145728)) 16 = nc from Fin.ext (by simp only [finAt, Fin.val_ofNat]; omega),
        show finAt 16 (3 + 8 * 0 + 256 * (nl.val + 16 * ns.val + 256 * nc.val + 4096 * nm.val + 3145728)) 20 = nm from Fin.ext (by simp only [finAt, Fin.val_ofNat]; omega)]
      rfl)

theorem fence : Statement .fence := by
  intro hw _ rest
  rfl

theorem fenceSc : Statement .fenceSc := by
  intro hw _ rest
  rfl

theorem icsync : Statement .icsync := by
  intro hw _ rest
  rfl

theorem pref (a : Reg) (off : Imm 9) (hint : Fin 3) : Statement (.pref a off hint) := by
  intro hw _ rest
  have ha := a.isLt
  have hhint := hint.isLt
  cases off with
  | imm v =>
    have hv := v.isLt
    exact decode_word _ _ _ _ (by
      simp only [decodeWord, show fld (3 + 8 * 0 + 256 * (hint.val + 32 * a.val + 5242880 + 2 ^ 10 * v.toNat)) 7 3 = 0 from by simp only [fld]; omega]
      simp only [decodeSys, show fld (3 + 8 * 0 + 256 * (hint.val + 32 * a.val + 5242880 + 2 ^ 10 * v.toNat)) 31 27 = 10 from by simp only [fld]; omega,
        zero, show fld (3 + 8 * 0 + 256 * (hint.val + 32 * a.val + 5242880 + 2 ^ 10 * v.toNat)) 12 10 = 0 from by simp only [fld]; omega,
        show fld (3 + 8 * 0 + 256 * (hint.val + 32 * a.val + 5242880 + 2 ^ 10 * v.toNat)) 9 8 = hint.val from by simp only [fld]; omega, finIn_val,
        show regAt (3 + 8 * 0 + 256 * (hint.val + 32 * a.val + 5242880 + 2 ^ 10 * v.toNat)) 13 = a from Fin.ext (by simp only [regAt, finAt, Fin.val_ofNat]; omega),
        immAt, show BitVec.ofNat 9 ((3 + 8 * 0 + 256 * (hint.val + 32 * a.val + 5242880 + 2 ^ 10 * v.toNat)) / 2 ^ 18) = v from
          BitVec.eq_of_toNat_eq (by rw [BitVec.toNat_ofNat]; omega)]
      rfl)
  | lit v =>
    exact decode_wordL _ _ _ _ _ (by
      simp only [decodeWord, show fld (7 + 8 * 0 + 256 * (hint.val + 32 * a.val + 5242880)) 7 3 = 0 from by simp only [fld]; omega]
      simp only [decodeSys, show fld (7 + 8 * 0 + 256 * (hint.val + 32 * a.val + 5242880)) 31 27 = 10 from by simp only [fld]; omega,
        zero, show fld (7 + 8 * 0 + 256 * (hint.val + 32 * a.val + 5242880)) 12 10 = 0 from by simp only [fld]; omega,
        show fld (7 + 8 * 0 + 256 * (hint.val + 32 * a.val + 5242880)) 9 8 = hint.val from by simp only [fld]; omega, finIn_val,
        show regAt (7 + 8 * 0 + 256 * (hint.val + 32 * a.val + 5242880)) 13 = a from Fin.ext (by simp only [regAt, finAt, Fin.val_ofNat]; omega),
        immAt, show (7 + 8 * 0 + 256 * (hint.val + 32 * a.val + 5242880)) / 2 ^ 18 % 2 ^ 9 = 0 from by omega]
      rfl)

theorem cLd (d b : Fin 8) (off : Fin 32) : Statement (.cLd d b off) := by
  intro hw _ rest
  have hd := d.isLt
  have hb := b.isLt
  have hoff := off.isLt
  have hz : ¬(d.val = 0 ∧ b.val = 0 ∧ off.val = 0) := by
    have h : (!(d.val == 0 && b.val == 0 && off.val == 0)) = true := hw
    rw [Bool.not_eq_true', Bool.and_eq_false_iff, Bool.and_eq_false_iff] at h
    simp only [beq_eq_false_iff_ne] at h
    omega
  exact decode_compact (1024 * d.val + 128 * b.val + 4 * off.val + 0) rest _ (by omega) (by
    rw [decodeCompact, if_neg (show ¬(1024 * d.val + 128 * b.val + 4 * off.val + 0) = 0 from by omega)]
    simp only [show fld (1024 * d.val + 128 * b.val + 4 * off.val + 0) 1 0 = 0 from by simp only [fld]; omega,
      show fld (1024 * d.val + 128 * b.val + 4 * off.val + 0) 15 13 = 0 from by simp only [fld]; omega,
      show finAt 8 (1024 * d.val + 128 * b.val + 4 * off.val + 0) 10 = d from Fin.ext (by simp only [finAt, Fin.val_ofNat]; omega),
      show finAt 8 (1024 * d.val + 128 * b.val + 4 * off.val + 0) 7 = b from Fin.ext (by simp only [finAt, Fin.val_ofNat]; omega),
      show finAt 32 (1024 * d.val + 128 * b.val + 4 * off.val + 0) 2 = off from Fin.ext (by simp only [finAt, Fin.val_ofNat]; omega)] <;> rfl)

theorem cSt (s b : Fin 8) (off : Fin 32) : Statement (.cSt s b off) := by
  intro hw _ rest
  have hs := s.isLt
  have hb := b.isLt
  have hoff := off.isLt
  exact decode_compact (1024 * s.val + 128 * b.val + 4 * off.val + 8192) rest _ (by omega) (by
    rw [decodeCompact, if_neg (show ¬(1024 * s.val + 128 * b.val + 4 * off.val + 8192) = 0 from by omega)]
    simp only [show fld (1024 * s.val + 128 * b.val + 4 * off.val + 8192) 1 0 = 0 from by simp only [fld]; omega,
      show fld (1024 * s.val + 128 * b.val + 4 * off.val + 8192) 15 13 = 1 from by simp only [fld]; omega,
      show finAt 8 (1024 * s.val + 128 * b.val + 4 * off.val + 8192) 10 = s from Fin.ext (by simp only [finAt, Fin.val_ofNat]; omega),
      show finAt 8 (1024 * s.val + 128 * b.val + 4 * off.val + 8192) 7 = b from Fin.ext (by simp only [finAt, Fin.val_ofNat]; omega),
      show finAt 32 (1024 * s.val + 128 * b.val + 4 * off.val + 8192) 2 = off from Fin.ext (by simp only [finAt, Fin.val_ofNat]; omega)] <;> rfl)

theorem cLw (d b : Fin 8) (off : Fin 32) : Statement (.cLw d b off) := by
  intro hw _ rest
  have hd := d.isLt
  have hb := b.isLt
  have hoff := off.isLt
  exact decode_compact (1024 * d.val + 128 * b.val + 4 * off.val + 16384) rest _ (by omega) (by
    rw [decodeCompact, if_neg (show ¬(1024 * d.val + 128 * b.val + 4 * off.val + 16384) = 0 from by omega)]
    simp only [show fld (1024 * d.val + 128 * b.val + 4 * off.val + 16384) 1 0 = 0 from by simp only [fld]; omega,
      show fld (1024 * d.val + 128 * b.val + 4 * off.val + 16384) 15 13 = 2 from by simp only [fld]; omega,
      show finAt 8 (1024 * d.val + 128 * b.val + 4 * off.val + 16384) 10 = d from Fin.ext (by simp only [finAt, Fin.val_ofNat]; omega),
      show finAt 8 (1024 * d.val + 128 * b.val + 4 * off.val + 16384) 7 = b from Fin.ext (by simp only [finAt, Fin.val_ofNat]; omega),
      show finAt 32 (1024 * d.val + 128 * b.val + 4 * off.val + 16384) 2 = off from Fin.ext (by simp only [finAt, Fin.val_ofNat]; omega)] <;> rfl)

theorem cSw (s b : Fin 8) (off : Fin 32) : Statement (.cSw s b off) := by
  intro hw _ rest
  have hs := s.isLt
  have hb := b.isLt
  have hoff := off.isLt
  exact decode_compact (1024 * s.val + 128 * b.val + 4 * off.val + 24576) rest _ (by omega) (by
    rw [decodeCompact, if_neg (show ¬(1024 * s.val + 128 * b.val + 4 * off.val + 24576) = 0 from by omega)]
    simp only [show fld (1024 * s.val + 128 * b.val + 4 * off.val + 24576) 1 0 = 0 from by simp only [fld]; omega,
      show fld (1024 * s.val + 128 * b.val + 4 * off.val + 24576) 15 13 = 3 from by simp only [fld]; omega,
      show finAt 8 (1024 * s.val + 128 * b.val + 4 * off.val + 24576) 10 = s from Fin.ext (by simp only [finAt, Fin.val_ofNat]; omega),
      show finAt 8 (1024 * s.val + 128 * b.val + 4 * off.val + 24576) 7 = b from Fin.ext (by simp only [finAt, Fin.val_ofNat]; omega),
      show finAt 32 (1024 * s.val + 128 * b.val + 4 * off.val + 24576) 2 = off from Fin.ext (by simp only [finAt, Fin.val_ofNat]; omega)] <;> rfl)

theorem cLdfD (d b : Fin 8) (off : Fin 32) : Statement (.cLdfD d b off) := by
  intro hw _ rest
  have hd := d.isLt
  have hb := b.isLt
  have hoff := off.isLt
  exact decode_compact (1024 * d.val + 128 * b.val + 4 * off.val + 32768) rest _ (by omega) (by
    rw [decodeCompact, if_neg (show ¬(1024 * d.val + 128 * b.val + 4 * off.val + 32768) = 0 from by omega)]
    simp only [show fld (1024 * d.val + 128 * b.val + 4 * off.val + 32768) 1 0 = 0 from by simp only [fld]; omega,
      show fld (1024 * d.val + 128 * b.val + 4 * off.val + 32768) 15 13 = 4 from by simp only [fld]; omega,
      show finAt 8 (1024 * d.val + 128 * b.val + 4 * off.val + 32768) 10 = d from Fin.ext (by simp only [finAt, Fin.val_ofNat]; omega),
      show finAt 8 (1024 * d.val + 128 * b.val + 4 * off.val + 32768) 7 = b from Fin.ext (by simp only [finAt, Fin.val_ofNat]; omega),
      show finAt 32 (1024 * d.val + 128 * b.val + 4 * off.val + 32768) 2 = off from Fin.ext (by simp only [finAt, Fin.val_ofNat]; omega)] <;> rfl)

theorem cStfD (s b : Fin 8) (off : Fin 32) : Statement (.cStfD s b off) := by
  intro hw _ rest
  have hs := s.isLt
  have hb := b.isLt
  have hoff := off.isLt
  exact decode_compact (1024 * s.val + 128 * b.val + 4 * off.val + 40960) rest _ (by omega) (by
    rw [decodeCompact, if_neg (show ¬(1024 * s.val + 128 * b.val + 4 * off.val + 40960) = 0 from by omega)]
    simp only [show fld (1024 * s.val + 128 * b.val + 4 * off.val + 40960) 1 0 = 0 from by simp only [fld]; omega,
      show fld (1024 * s.val + 128 * b.val + 4 * off.val + 40960) 15 13 = 5 from by simp only [fld]; omega,
      show finAt 8 (1024 * s.val + 128 * b.val + 4 * off.val + 40960) 10 = s from Fin.ext (by simp only [finAt, Fin.val_ofNat]; omega),
      show finAt 8 (1024 * s.val + 128 * b.val + 4 * off.val + 40960) 7 = b from Fin.ext (by simp only [finAt, Fin.val_ofNat]; omega),
      show finAt 32 (1024 * s.val + 128 * b.val + 4 * off.val + 40960) 2 = off from Fin.ext (by simp only [finAt, Fin.val_ofNat]; omega)] <;> rfl)

theorem cLdfW (d b : Fin 8) (off : Fin 32) : Statement (.cLdfW d b off) := by
  intro hw _ rest
  have hd := d.isLt
  have hb := b.isLt
  have hoff := off.isLt
  exact decode_compact (1024 * d.val + 128 * b.val + 4 * off.val + 49152) rest _ (by omega) (by
    rw [decodeCompact, if_neg (show ¬(1024 * d.val + 128 * b.val + 4 * off.val + 49152) = 0 from by omega)]
    simp only [show fld (1024 * d.val + 128 * b.val + 4 * off.val + 49152) 1 0 = 0 from by simp only [fld]; omega,
      show fld (1024 * d.val + 128 * b.val + 4 * off.val + 49152) 15 13 = 6 from by simp only [fld]; omega,
      show finAt 8 (1024 * d.val + 128 * b.val + 4 * off.val + 49152) 10 = d from Fin.ext (by simp only [finAt, Fin.val_ofNat]; omega),
      show finAt 8 (1024 * d.val + 128 * b.val + 4 * off.val + 49152) 7 = b from Fin.ext (by simp only [finAt, Fin.val_ofNat]; omega),
      show finAt 32 (1024 * d.val + 128 * b.val + 4 * off.val + 49152) 2 = off from Fin.ext (by simp only [finAt, Fin.val_ofNat]; omega)] <;> rfl)

theorem cStfW (s b : Fin 8) (off : Fin 32) : Statement (.cStfW s b off) := by
  intro hw _ rest
  have hs := s.isLt
  have hb := b.isLt
  have hoff := off.isLt
  exact decode_compact (1024 * s.val + 128 * b.val + 4 * off.val + 57344) rest _ (by omega) (by
    rw [decodeCompact, if_neg (show ¬(1024 * s.val + 128 * b.val + 4 * off.val + 57344) = 0 from by omega)]
    simp only [show fld (1024 * s.val + 128 * b.val + 4 * off.val + 57344) 1 0 = 0 from by simp only [fld]; omega,
      show fld (1024 * s.val + 128 * b.val + 4 * off.val + 57344) 15 13 = 7 from by simp only [fld]; omega,
      show finAt 8 (1024 * s.val + 128 * b.val + 4 * off.val + 57344) 10 = s from Fin.ext (by simp only [finAt, Fin.val_ofNat]; omega),
      show finAt 8 (1024 * s.val + 128 * b.val + 4 * off.val + 57344) 7 = b from Fin.ext (by simp only [finAt, Fin.val_ofNat]; omega),
      show finAt 32 (1024 * s.val + 128 * b.val + 4 * off.val + 57344) 2 = off from Fin.ext (by simp only [finAt, Fin.val_ofNat]; omega)] <;> rfl)

theorem cAddi (d : Fin 8) (i : BitVec 8) : Statement (.cAddi d i) := by
  intro hw _ rest
  have hd := d.isLt
  have hi := i.isLt
  exact decode_compact (1024 * d.val + 4 * i.toNat + 1) rest _ (by omega) (by
    rw [decodeCompact, if_neg (show ¬(1024 * d.val + 4 * i.toNat + 1) = 0 from by omega)]
    simp only [show fld (1024 * d.val + 4 * i.toNat + 1) 1 0 = 1 from by simp only [fld]; omega,
      show fld (1024 * d.val + 4 * i.toNat + 1) 15 13 = 0 from by simp only [fld]; omega,
      show finAt 8 (1024 * d.val + 4 * i.toNat + 1) 10 = d from Fin.ext (by simp only [finAt, Fin.val_ofNat]; omega),
      show BitVec.ofNat 8 ((1024 * d.val + 4 * i.toNat + 1) / 2 ^ 2) = i from BitVec.eq_of_toNat_eq (by rw [BitVec.toNat_ofNat]; omega)] <;> rfl)

theorem cLi (d : Fin 8) (i : BitVec 8) : Statement (.cLi d i) := by
  intro hw _ rest
  have hd := d.isLt
  have hi := i.isLt
  exact decode_compact (1024 * d.val + 4 * i.toNat + 8193) rest _ (by omega) (by
    rw [decodeCompact, if_neg (show ¬(1024 * d.val + 4 * i.toNat + 8193) = 0 from by omega)]
    simp only [show fld (1024 * d.val + 4 * i.toNat + 8193) 1 0 = 1 from by simp only [fld]; omega,
      show fld (1024 * d.val + 4 * i.toNat + 8193) 15 13 = 1 from by simp only [fld]; omega,
      show finAt 8 (1024 * d.val + 4 * i.toNat + 8193) 10 = d from Fin.ext (by simp only [finAt, Fin.val_ofNat]; omega),
      show BitVec.ofNat 8 ((1024 * d.val + 4 * i.toNat + 8193) / 2 ^ 2) = i from BitVec.eq_of_toNat_eq (by rw [BitVec.toNat_ofNat]; omega)] <;> rfl)

theorem cMv (d a : Fin 8) : Statement (.cMv d a) := by
  intro hw _ rest
  have hd := d.isLt
  have ha := a.isLt
  exact decode_compact (1024 * d.val + 128 * a.val + 16385) rest _ (by omega) (by
    rw [decodeCompact, if_neg (show ¬(1024 * d.val + 128 * a.val + 16385) = 0 from by omega)]
    simp only [show fld (1024 * d.val + 128 * a.val + 16385) 1 0 = 1 from by simp only [fld]; omega,
      show fld (1024 * d.val + 128 * a.val + 16385) 15 13 = 2 from by simp only [fld]; omega,
      czero,
      show fld (1024 * d.val + 128 * a.val + 16385) 6 2 = 0 from by simp only [fld]; omega,
      show finAt 8 (1024 * d.val + 128 * a.val + 16385) 10 = d from Fin.ext (by simp only [finAt, Fin.val_ofNat]; omega),
      show finAt 8 (1024 * d.val + 128 * a.val + 16385) 7 = a from Fin.ext (by simp only [finAt, Fin.val_ofNat]; omega)] <;> rfl)

theorem cAdd (d a : Fin 8) : Statement (.cAdd d a) := by
  intro hw _ rest
  have hd := d.isLt
  have ha := a.isLt
  exact decode_compact (1024 * d.val + 128 * a.val + 24577) rest _ (by omega) (by
    rw [decodeCompact, if_neg (show ¬(1024 * d.val + 128 * a.val + 24577) = 0 from by omega)]
    simp only [show fld (1024 * d.val + 128 * a.val + 24577) 1 0 = 1 from by simp only [fld]; omega,
      show fld (1024 * d.val + 128 * a.val + 24577) 15 13 = 3 from by simp only [fld]; omega,
      czero,
      show fld (1024 * d.val + 128 * a.val + 24577) 6 2 = 0 from by simp only [fld]; omega,
      show finAt 8 (1024 * d.val + 128 * a.val + 24577) 10 = d from Fin.ext (by simp only [finAt, Fin.val_ofNat]; omega),
      show finAt 8 (1024 * d.val + 128 * a.val + 24577) 7 = a from Fin.ext (by simp only [finAt, Fin.val_ofNat]; omega)] <;> rfl)

theorem cSub (d a : Fin 8) : Statement (.cSub d a) := by
  intro hw _ rest
  have hd := d.isLt
  have ha := a.isLt
  exact decode_compact (1024 * d.val + 128 * a.val + 32769) rest _ (by omega) (by
    rw [decodeCompact, if_neg (show ¬(1024 * d.val + 128 * a.val + 32769) = 0 from by omega)]
    simp only [show fld (1024 * d.val + 128 * a.val + 32769) 1 0 = 1 from by simp only [fld]; omega,
      show fld (1024 * d.val + 128 * a.val + 32769) 15 13 = 4 from by simp only [fld]; omega,
      czero,
      show fld (1024 * d.val + 128 * a.val + 32769) 6 2 = 0 from by simp only [fld]; omega,
      show finAt 8 (1024 * d.val + 128 * a.val + 32769) 10 = d from Fin.ext (by simp only [finAt, Fin.val_ofNat]; omega),
      show finAt 8 (1024 * d.val + 128 * a.val + 32769) 7 = a from Fin.ext (by simp only [finAt, Fin.val_ofNat]; omega)] <;> rfl)

theorem cAnd (d a : Fin 8) : Statement (.cAnd d a) := by
  intro hw _ rest
  have hd := d.isLt
  have ha := a.isLt
  exact decode_compact (1024 * d.val + 128 * a.val + 40961) rest _ (by omega) (by
    rw [decodeCompact, if_neg (show ¬(1024 * d.val + 128 * a.val + 40961) = 0 from by omega)]
    simp only [show fld (1024 * d.val + 128 * a.val + 40961) 1 0 = 1 from by simp only [fld]; omega,
      show fld (1024 * d.val + 128 * a.val + 40961) 15 13 = 5 from by simp only [fld]; omega,
      czero,
      show fld (1024 * d.val + 128 * a.val + 40961) 6 2 = 0 from by simp only [fld]; omega,
      show finAt 8 (1024 * d.val + 128 * a.val + 40961) 10 = d from Fin.ext (by simp only [finAt, Fin.val_ofNat]; omega),
      show finAt 8 (1024 * d.val + 128 * a.val + 40961) 7 = a from Fin.ext (by simp only [finAt, Fin.val_ofNat]; omega)] <;> rfl)

theorem cOr (d a : Fin 8) : Statement (.cOr d a) := by
  intro hw _ rest
  have hd := d.isLt
  have ha := a.isLt
  exact decode_compact (1024 * d.val + 128 * a.val + 49153) rest _ (by omega) (by
    rw [decodeCompact, if_neg (show ¬(1024 * d.val + 128 * a.val + 49153) = 0 from by omega)]
    simp only [show fld (1024 * d.val + 128 * a.val + 49153) 1 0 = 1 from by simp only [fld]; omega,
      show fld (1024 * d.val + 128 * a.val + 49153) 15 13 = 6 from by simp only [fld]; omega,
      czero,
      show fld (1024 * d.val + 128 * a.val + 49153) 6 2 = 0 from by simp only [fld]; omega,
      show finAt 8 (1024 * d.val + 128 * a.val + 49153) 10 = d from Fin.ext (by simp only [finAt, Fin.val_ofNat]; omega),
      show finAt 8 (1024 * d.val + 128 * a.val + 49153) 7 = a from Fin.ext (by simp only [finAt, Fin.val_ofNat]; omega)] <;> rfl)

theorem cXor (d a : Fin 8) : Statement (.cXor d a) := by
  intro hw _ rest
  have hd := d.isLt
  have ha := a.isLt
  exact decode_compact (1024 * d.val + 128 * a.val + 57345) rest _ (by omega) (by
    rw [decodeCompact, if_neg (show ¬(1024 * d.val + 128 * a.val + 57345) = 0 from by omega)]
    simp only [show fld (1024 * d.val + 128 * a.val + 57345) 1 0 = 1 from by simp only [fld]; omega,
      show fld (1024 * d.val + 128 * a.val + 57345) 15 13 = 7 from by simp only [fld]; omega,
      czero,
      show fld (1024 * d.val + 128 * a.val + 57345) 6 2 = 0 from by simp only [fld]; omega,
      show finAt 8 (1024 * d.val + 128 * a.val + 57345) 10 = d from Fin.ext (by simp only [finAt, Fin.val_ofNat]; omega),
      show finAt 8 (1024 * d.val + 128 * a.val + 57345) 7 = a from Fin.ext (by simp only [finAt, Fin.val_ofNat]; omega)] <;> rfl)

theorem cJ (off : BitVec 11) : Statement (.cJ off) := by
  intro hw _ rest
  have hoff := off.isLt
  exact decode_compact (4 * off.toNat + 2) rest _ (by omega) (by
    rw [decodeCompact, if_neg (show ¬(4 * off.toNat + 2) = 0 from by omega)]
    simp only [show fld (4 * off.toNat + 2) 1 0 = 2 from by simp only [fld]; omega,
      show fld (4 * off.toNat + 2) 15 13 = 0 from by simp only [fld]; omega,
      show BitVec.ofNat 11 ((4 * off.toNat + 2) / 2 ^ 2) = off from BitVec.eq_of_toNat_eq (by rw [BitVec.toNat_ofNat]; omega)] <;> rfl)

theorem cBeqz (a : Fin 8) (off : BitVec 8) : Statement (.cBeqz a off) := by
  intro hw _ rest
  have ha := a.isLt
  have hoff := off.isLt
  exact decode_compact (1024 * a.val + 4 * off.toNat + 8194) rest _ (by omega) (by
    rw [decodeCompact, if_neg (show ¬(1024 * a.val + 4 * off.toNat + 8194) = 0 from by omega)]
    simp only [show fld (1024 * a.val + 4 * off.toNat + 8194) 1 0 = 2 from by simp only [fld]; omega,
      show fld (1024 * a.val + 4 * off.toNat + 8194) 15 13 = 1 from by simp only [fld]; omega,
      show finAt 8 (1024 * a.val + 4 * off.toNat + 8194) 10 = a from Fin.ext (by simp only [finAt, Fin.val_ofNat]; omega),
      show BitVec.ofNat 8 ((1024 * a.val + 4 * off.toNat + 8194) / 2 ^ 2) = off from BitVec.eq_of_toNat_eq (by rw [BitVec.toNat_ofNat]; omega)] <;> rfl)

theorem cBnez (a : Fin 8) (off : BitVec 8) : Statement (.cBnez a off) := by
  intro hw _ rest
  have ha := a.isLt
  have hoff := off.isLt
  exact decode_compact (1024 * a.val + 4 * off.toNat + 16386) rest _ (by omega) (by
    rw [decodeCompact, if_neg (show ¬(1024 * a.val + 4 * off.toNat + 16386) = 0 from by omega)]
    simp only [show fld (1024 * a.val + 4 * off.toNat + 16386) 1 0 = 2 from by simp only [fld]; omega,
      show fld (1024 * a.val + 4 * off.toNat + 16386) 15 13 = 2 from by simp only [fld]; omega,
      show finAt 8 (1024 * a.val + 4 * off.toNat + 16386) 10 = a from Fin.ext (by simp only [finAt, Fin.val_ofNat]; omega),
      show BitVec.ofNat 8 ((1024 * a.val + 4 * off.toNat + 16386) / 2 ^ 2) = off from BitVec.eq_of_toNat_eq (by rw [BitVec.toNat_ofNat]; omega)] <;> rfl)

theorem cJr (a : Fin 8) : Statement (.cJr a) := by
  intro hw _ rest
  have ha := a.isLt
  exact decode_compact (1024 * a.val + 24578) rest _ (by omega) (by
    rw [decodeCompact, if_neg (show ¬(1024 * a.val + 24578) = 0 from by omega)]
    simp only [show fld (1024 * a.val + 24578) 1 0 = 2 from by simp only [fld]; omega,
      show fld (1024 * a.val + 24578) 15 13 = 3 from by simp only [fld]; omega,
      czero,
      show fld (1024 * a.val + 24578) 9 2 = 0 from by simp only [fld]; omega,
      show finAt 8 (1024 * a.val + 24578) 10 = a from Fin.ext (by simp only [finAt, Fin.val_ofNat]; omega)] <;> rfl)

theorem cFaddW (d a : Fin 8) : Statement (.cFaddW d a) := by
  intro hw _ rest
  have hd := d.isLt
  have ha := a.isLt
  exact decode_compact (1024 * d.val + 128 * a.val + 32770) rest _ (by omega) (by
    rw [decodeCompact, if_neg (show ¬(1024 * d.val + 128 * a.val + 32770) = 0 from by omega)]
    simp only [show fld (1024 * d.val + 128 * a.val + 32770) 1 0 = 2 from by simp only [fld]; omega,
      show fld (1024 * d.val + 128 * a.val + 32770) 15 13 = 4 from by simp only [fld]; omega,
      czero,
      show fld (1024 * d.val + 128 * a.val + 32770) 6 2 = 0 from by simp only [fld]; omega,
      show finAt 8 (1024 * d.val + 128 * a.val + 32770) 10 = d from Fin.ext (by simp only [finAt, Fin.val_ofNat]; omega),
      show finAt 8 (1024 * d.val + 128 * a.val + 32770) 7 = a from Fin.ext (by simp only [finAt, Fin.val_ofNat]; omega)] <;> rfl)

theorem cFmulW (d a : Fin 8) : Statement (.cFmulW d a) := by
  intro hw _ rest
  have hd := d.isLt
  have ha := a.isLt
  exact decode_compact (1024 * d.val + 128 * a.val + 40962) rest _ (by omega) (by
    rw [decodeCompact, if_neg (show ¬(1024 * d.val + 128 * a.val + 40962) = 0 from by omega)]
    simp only [show fld (1024 * d.val + 128 * a.val + 40962) 1 0 = 2 from by simp only [fld]; omega,
      show fld (1024 * d.val + 128 * a.val + 40962) 15 13 = 5 from by simp only [fld]; omega,
      czero,
      show fld (1024 * d.val + 128 * a.val + 40962) 6 2 = 0 from by simp only [fld]; omega,
      show finAt 8 (1024 * d.val + 128 * a.val + 40962) 10 = d from Fin.ext (by simp only [finAt, Fin.val_ofNat]; omega),
      show finAt 8 (1024 * d.val + 128 * a.val + 40962) 7 = a from Fin.ext (by simp only [finAt, Fin.val_ofNat]; omega)] <;> rfl)

theorem cFmaW (d a b : Fin 8) : Statement (.cFmaW d a b) := by
  intro hw _ rest
  have hd := d.isLt
  have ha := a.isLt
  have hb := b.isLt
  exact decode_compact (1024 * d.val + 128 * a.val + 16 * b.val + 49154) rest _ (by omega) (by
    rw [decodeCompact, if_neg (show ¬(1024 * d.val + 128 * a.val + 16 * b.val + 49154) = 0 from by omega)]
    simp only [show fld (1024 * d.val + 128 * a.val + 16 * b.val + 49154) 1 0 = 2 from by simp only [fld]; omega,
      show fld (1024 * d.val + 128 * a.val + 16 * b.val + 49154) 15 13 = 6 from by simp only [fld]; omega,
      czero,
      show fld (1024 * d.val + 128 * a.val + 16 * b.val + 49154) 3 2 = 0 from by simp only [fld]; omega,
      show finAt 8 (1024 * d.val + 128 * a.val + 16 * b.val + 49154) 10 = d from Fin.ext (by simp only [finAt, Fin.val_ofNat]; omega),
      show finAt 8 (1024 * d.val + 128 * a.val + 16 * b.val + 49154) 7 = a from Fin.ext (by simp only [finAt, Fin.val_ofNat]; omega),
      show finAt 8 (1024 * d.val + 128 * a.val + 16 * b.val + 49154) 4 = b from Fin.ext (by simp only [finAt, Fin.val_ofNat]; omega)] <;> rfl)

theorem cNop : Statement .cNop := by
  intro hw _ rest
  rfl

theorem send (now : Bool) (d a : Reg) (b : OpB) : Statement (.send now d a b) := by
  intro hw _ rest
  cases now <;>
  exact rrrB_ok ⟨18, by decide⟩ d a ⟨_, by first | decide | (simp; omega)⟩ b _ rest fun w lit h => by
    simp only [decodeWord_18 h.major, decodeMsg, h.f30_24, h.b31, h.rd, h.ra, h.opb, ofNat_val]
    rfl

theorem sendv (now : Bool) (d a : Reg) (b : OpB) : Statement (.sendv now d a b) := by
  intro hw _ rest
  cases now <;>
  exact rrrB_ok ⟨18, by decide⟩ d a ⟨_, by first | decide | (simp; omega)⟩ b _ rest fun w lit h => by
    simp only [decodeWord_18 h.major, decodeMsg, h.f30_24, h.b31, h.rd, h.ra, h.opb, ofNat_val]
    rfl

theorem reply (now : Bool) (d : Reg) (b : OpB) : Statement (.reply now d b) := by
  intro hw _ rest
  cases now <;>
  exact rrrB_ok ⟨18, by decide⟩ d ⟨0, by first | decide | omega⟩ ⟨_, by first | decide | (simp; omega)⟩ b _ rest fun w lit h => by
    simp only [decodeWord_18 h.major, decodeMsg, h.f30_24, h.f17_13, h.b31, h.rd, h.opb, zero, ofNat_val]
    rfl

theorem fwd (now : Bool) (a : Reg) (b : OpB) : Statement (.fwd now a b) := by
  intro hw _ rest
  cases now <;>
  exact rrrB_ok ⟨18, by decide⟩ ⟨0, by first | decide | omega⟩ a ⟨_, by first | decide | (simp; omega)⟩ b _ rest fun w lit h => by
    simp only [decodeWord_18 h.major, decodeMsg, h.f30_24, h.f12_8, h.b31, h.ra, h.opb, zero, ofNat_val]
    rfl

theorem defer : Statement .defer := by
  intro hw _ rest
  exact rrr_ok ⟨18, by decide⟩ ⟨0, by first | decide | omega⟩ ⟨0, by first | decide | omega⟩ ⟨0, by first | decide | omega⟩ ⟨8, by first | decide | omega⟩ _ rest fun w h => by
    simp only [decodeWord_18 h.major, decodeMsg, h.f30_24, h.f17_8, h.b31, noB, noLit, h.f23_23, h.f22_18, zero, ofNat_val]
    rfl

theorem spawn (now : Bool) (d a : Reg) (b : OpB) : Statement (.spawn now d a b) := by
  intro hw _ rest
  cases now <;>
  exact rrrB_ok ⟨18, by decide⟩ d a ⟨_, by first | decide | (simp; omega)⟩ b _ rest fun w lit h => by
    simp only [decodeWord_18 h.major, decodeMsg, h.f30_24, h.b31, h.rd, h.ra, h.opb, ofNat_val]
    rfl

theorem migrate (a : Reg) : Statement (.migrate a) := by
  intro hw _ rest
  exact rrr_ok ⟨18, by decide⟩ ⟨0, by first | decide | omega⟩ a ⟨0, by first | decide | omega⟩ ⟨12, by first | decide | omega⟩ _ rest fun w h => by
    simp only [decodeWord_18 h.major, decodeMsg, h.f30_24, h.f12_8, h.b31, h.ra, noB, noLit, h.f23_23, h.f22_18, zero, ofNat_val]
    rfl

theorem sdone : Statement .sdone := by
  intro hw _ rest
  exact rrr_ok ⟨18, by decide⟩ ⟨0, by first | decide | omega⟩ ⟨0, by first | decide | omega⟩ ⟨0, by first | decide | omega⟩ ⟨14, by first | decide | omega⟩ _ rest fun w h => by
    simp only [decodeWord_18 h.major, decodeMsg, h.f30_24, h.f17_8, h.b31, noB, noLit, h.f23_23, h.f22_18, zero, ofNat_val]
    rfl

theorem hcommit : Statement .hcommit := by
  intro hw _ rest
  exact rrr_ok ⟨18, by decide⟩ ⟨0, by first | decide | omega⟩ ⟨0, by first | decide | omega⟩ ⟨0, by first | decide | omega⟩ ⟨16, by first | decide | omega⟩ _ rest fun w h => by
    simp only [decodeWord_18 h.major, decodeMsg, h.f30_24, h.f17_8, h.b31, noB, noLit, h.f23_23, h.f22_18, zero, ofNat_val]
    rfl

theorem hdone : Statement .hdone := by
  intro hw _ rest
  exact rrr_ok ⟨18, by decide⟩ ⟨0, by first | decide | omega⟩ ⟨0, by first | decide | omega⟩ ⟨0, by first | decide | omega⟩ ⟨18, by first | decide | omega⟩ _ rest fun w h => by
    simp only [decodeWord_18 h.major, decodeMsg, h.f30_24, h.f17_8, h.b31, noB, noLit, h.f23_23, h.f22_18, zero, ofNat_val]
    rfl

theorem exit : Statement .exit := by
  intro hw _ rest
  exact rrr_ok ⟨18, by decide⟩ ⟨0, by first | decide | omega⟩ ⟨0, by first | decide | omega⟩ ⟨0, by first | decide | omega⟩ ⟨20, by first | decide | omega⟩ _ rest fun w h => by
    simp only [decodeWord_18 h.major, decodeMsg, h.f30_24, h.f17_8, h.b31, noB, noLit, h.f23_23, h.f22_18, zero, ofNat_val]
    rfl

theorem barr (launch : Bool) (op : Fin 5) (n : Fin 16) (b : OpB) : Statement (.barr launch op n b) := by
  intro hw _ rest
  have hop := op.isLt
  have hn := n.isLt
  cases launch <;>
  exact rrrB_ok ⟨18, by decide⟩ ⟨_, by first | decide | (simp; omega)⟩ ⟨n.val, by first | decide | omega⟩ ⟨11, by first | decide | omega⟩ b _ rest fun w lit h => by
    simp only [decodeWord_18 h.major, decodeMsg, h.f30_24, h.f12_12, h.f10_8, h.f17_13, h.b31, h.b11, h.opb, zero, finIn_val, ofNat_val, Bool.toNat_false, Bool.toNat_true, Nat.mul_one, Nat.mul_zero, Nat.add_zero, show (op.val + 8) % 8 = op.val from by omega, show (op.val + 8) / 16 = 0 from by omega, show (op.val + 8) / 8 = 1 from by omega, show op.val % 8 = op.val from by omega, show op.val / 16 = 0 from by omega, show op.val / 8 = 0 from by omega]
    rfl

theorem launch (now : Bool) (a : Reg) (b : OpB) : Statement (.launch now a b) := by
  intro hw _ rest
  cases now <;>
  exact rrrB_ok ⟨18, by decide⟩ ⟨0, by first | decide | omega⟩ a ⟨_, by first | decide | (simp; omega)⟩ b _ rest fun w lit h => by
    simp only [decodeWord_18 h.major, decodeMsg, h.f30_24, h.f12_8, h.b31, h.ra, h.opb, zero, ofNat_val]
    rfl

theorem getm (d : Reg) (n : Fin 16) : Statement (.getm d n) := by
  intro hw _ rest
  have hn := n.isLt
  exact rrr_ok ⟨18, by decide⟩ d ⟨n.val, by first | decide | omega⟩ ⟨0, by first | decide | omega⟩ ⟨26, by first | decide | omega⟩ _ rest fun w h => by
    simp only [decodeWord_18 h.major, decodeMsg, h.f30_24, h.f17_13, h.b31, h.rd, noB, noLit, h.f23_23, h.f22_18, finIn_val, ofNat_val]
    rfl

theorem mbstat (d : Reg) (mb : Fin 8) : Statement (.mbstat d mb) := by
  intro hw _ rest
  have hmb := mb.isLt
  exact rrr_ok ⟨18, by decide⟩ d ⟨mb.val, by first | decide | omega⟩ ⟨0, by first | decide | omega⟩ ⟨28, by first | decide | omega⟩ _ rest fun w h => by
    simp only [decodeWord_18 h.major, decodeMsg, h.f30_24, h.f17_13, h.b31, h.rd, noB, noLit, h.f23_23, h.f22_18, finIn_val, ofNat_val]
    rfl

theorem vadd (t : Fin 8) (d a : Reg) (b : OpL) : Statement (.vadd t d a b) := by
  intro hw _ rest
  have ht := t.isLt
  exact rrrL_ok ⟨19, by decide⟩ d a ⟨t.val + 0, by first | decide | omega⟩ b _ rest fun w lit n h ho hb => by
    simp only [decodeWord_19 h.major, decodeV13, h.f31_26, h.rd, h.ra, h.t8, ho, ofNat_val, show (t.val + 0) / 8 = 0 from by omega, show Fin.ofNat 8 (t.val + 0) = t from Fin.ext (by simp only [Fin.val_ofNat]; omega)]
    rfl

theorem vsub (t : Fin 8) (d a : Reg) (b : OpL) : Statement (.vsub t d a b) := by
  intro hw _ rest
  have ht := t.isLt
  exact rrrL_ok ⟨19, by decide⟩ d a ⟨t.val + 8, by first | decide | omega⟩ b _ rest fun w lit n h ho hb => by
    simp only [decodeWord_19 h.major, decodeV13, h.f31_26, h.rd, h.ra, h.t8, ho, ofNat_val, show (t.val + 8) / 8 = 1 from by omega, show Fin.ofNat 8 (t.val + 8) = t from Fin.ext (by simp only [Fin.val_ofNat]; omega)]
    rfl

theorem vmul (t : Fin 8) (d a : Reg) (b : OpL) : Statement (.vmul t d a b) := by
  intro hw _ rest
  have ht := t.isLt
  exact rrrL_ok ⟨19, by decide⟩ d a ⟨t.val + 16, by first | decide | omega⟩ b _ rest fun w lit n h ho hb => by
    simp only [decodeWord_19 h.major, decodeV13, h.f31_26, h.rd, h.ra, h.t8, ho, ofNat_val, show (t.val + 16) / 8 = 2 from by omega, show Fin.ofNat 8 (t.val + 16) = t from Fin.ext (by simp only [Fin.val_ofNat]; omega)]
    rfl

theorem vfma (t : Fin 8) (d a : Reg) (b : OpL) : Statement (.vfma t d a b) := by
  intro hw _ rest
  have ht := t.isLt
  exact rrrL_ok ⟨19, by decide⟩ d a ⟨t.val + 24, by first | decide | omega⟩ b _ rest fun w lit n h ho hb => by
    simp only [decodeWord_19 h.major, decodeV13, h.f31_26, h.rd, h.ra, h.t8, ho, ofNat_val, show (t.val + 24) / 8 = 3 from by omega, show Fin.ofNat 8 (t.val + 24) = t from Fin.ext (by simp only [Fin.val_ofNat]; omega)]
    rfl

theorem vfms (t : Fin 8) (d a : Reg) (b : OpL) : Statement (.vfms t d a b) := by
  intro hw _ rest
  have ht := t.isLt
  exact rrrL_ok ⟨19, by decide⟩ d a ⟨t.val + 32, by first | decide | omega⟩ b _ rest fun w lit n h ho hb => by
    simp only [decodeWord_19 h.major, decodeV13, h.f31_26, h.rd, h.ra, h.t8, ho, ofNat_val, show (t.val + 32) / 8 = 4 from by omega, show Fin.ofNat 8 (t.val + 32) = t from Fin.ext (by simp only [Fin.val_ofNat]; omega)]
    rfl

theorem vmin (t : Fin 8) (d a : Reg) (b : OpL) : Statement (.vmin t d a b) := by
  intro hw _ rest
  have ht := t.isLt
  exact rrrL_ok ⟨19, by decide⟩ d a ⟨t.val + 40, by first | decide | omega⟩ b _ rest fun w lit n h ho hb => by
    simp only [decodeWord_19 h.major, decodeV13, h.f31_26, h.rd, h.ra, h.t8, ho, ofNat_val, show (t.val + 40) / 8 = 5 from by omega, show Fin.ofNat 8 (t.val + 40) = t from Fin.ext (by simp only [Fin.val_ofNat]; omega)]
    rfl

theorem vmax (t : Fin 8) (d a : Reg) (b : OpL) : Statement (.vmax t d a b) := by
  intro hw _ rest
  have ht := t.isLt
  exact rrrL_ok ⟨19, by decide⟩ d a ⟨t.val + 48, by first | decide | omega⟩ b _ rest fun w lit n h ho hb => by
    simp only [decodeWord_19 h.major, decodeV13, h.f31_26, h.rd, h.ra, h.t8, ho, ofNat_val, show (t.val + 48) / 8 = 6 from by omega, show Fin.ofNat 8 (t.val + 48) = t from Fin.ext (by simp only [Fin.val_ofNat]; omega)]
    rfl

theorem vabs (t : Fin 8) (d a : Reg) : Statement (.vabs t d a) := by
  intro hw _ rest
  have ht := t.isLt
  exact rrr_ok ⟨19, by decide⟩ d a ⟨0, by first | decide | omega⟩ ⟨t.val + 56, by first | decide | omega⟩ _ rest fun w h => by
    simp only [decodeWord_19 h.major, decodeV13, h.f31_26, h.f22_18, h.rd, h.ra, h.t8, noLit, zero, ofNat_val, show (t.val + 56) / 8 = 7 from by omega, show Fin.ofNat 8 (t.val + 56) = t from Fin.ext (by simp only [Fin.val_ofNat]; omega)]
    rfl

theorem vneg (t : Fin 8) (d a : Reg) : Statement (.vneg t d a) := by
  intro hw _ rest
  have ht := t.isLt
  exact rrr_ok ⟨19, by decide⟩ d a ⟨0, by first | decide | omega⟩ ⟨t.val + 64, by first | decide | omega⟩ _ rest fun w h => by
    simp only [decodeWord_19 h.major, decodeV13, h.f31_26, h.f22_18, h.rd, h.ra, h.t8, noLit, zero, ofNat_val, show (t.val + 64) / 8 = 8 from by omega, show Fin.ofNat 8 (t.val + 64) = t from Fin.ext (by simp only [Fin.val_ofNat]; omega)]
    rfl

theorem vand (t : Fin 8) (d a : Reg) (b : OpL) : Statement (.vand t d a b) := by
  intro hw _ rest
  have ht := t.isLt
  exact rrrL_ok ⟨19, by decide⟩ d a ⟨t.val + 72, by first | decide | omega⟩ b _ rest fun w lit n h ho hb => by
    simp only [decodeWord_19 h.major, decodeV13, h.f31_26, h.rd, h.ra, h.t8, ho, ofNat_val, show (t.val + 72) / 8 = 9 from by omega, show Fin.ofNat 8 (t.val + 72) = t from Fin.ext (by simp only [Fin.val_ofNat]; omega)]
    rfl

theorem vor (t : Fin 8) (d a : Reg) (b : OpL) : Statement (.vor t d a b) := by
  intro hw _ rest
  have ht := t.isLt
  exact rrrL_ok ⟨19, by decide⟩ d a ⟨t.val + 80, by first | decide | omega⟩ b _ rest fun w lit n h ho hb => by
    simp only [decodeWord_19 h.major, decodeV13, h.f31_26, h.rd, h.ra, h.t8, ho, ofNat_val, show (t.val + 80) / 8 = 10 from by omega, show Fin.ofNat 8 (t.val + 80) = t from Fin.ext (by simp only [Fin.val_ofNat]; omega)]
    rfl

theorem vxor (t : Fin 8) (d a : Reg) (b : OpL) : Statement (.vxor t d a b) := by
  intro hw _ rest
  have ht := t.isLt
  exact rrrL_ok ⟨19, by decide⟩ d a ⟨t.val + 88, by first | decide | omega⟩ b _ rest fun w lit n h ho hb => by
    simp only [decodeWord_19 h.major, decodeV13, h.f31_26, h.rd, h.ra, h.t8, ho, ofNat_val, show (t.val + 88) / 8 = 11 from by omega, show Fin.ofNat 8 (t.val + 88) = t from Fin.ext (by simp only [Fin.val_ofNat]; omega)]
    rfl

theorem vshl (t : Fin 8) (d a : Reg) (b : OpL) : Statement (.vshl t d a b) := by
  intro hw _ rest
  have ht := t.isLt
  exact rrrL_ok ⟨19, by decide⟩ d a ⟨t.val + 96, by first | decide | omega⟩ b _ rest fun w lit n h ho hb => by
    simp only [decodeWord_19 h.major, decodeV13, h.f31_26, h.rd, h.ra, h.t8, ho, ofNat_val, show (t.val + 96) / 8 = 12 from by omega, show Fin.ofNat 8 (t.val + 96) = t from Fin.ext (by simp only [Fin.val_ofNat]; omega)]
    rfl

theorem vshr (t : Fin 8) (d a : Reg) (b : OpL) : Statement (.vshr t d a b) := by
  intro hw _ rest
  have ht := t.isLt
  exact rrrL_ok ⟨19, by decide⟩ d a ⟨t.val + 104, by first | decide | omega⟩ b _ rest fun w lit n h ho hb => by
    simp only [decodeWord_19 h.major, decodeV13, h.f31_26, h.rd, h.ra, h.t8, ho, ofNat_val, show (t.val + 104) / 8 = 13 from by omega, show Fin.ofNat 8 (t.val + 104) = t from Fin.ext (by simp only [Fin.val_ofNat]; omega)]
    rfl

theorem vsra (t : Fin 8) (d a : Reg) (b : OpL) : Statement (.vsra t d a b) := by
  intro hw _ rest
  have ht := t.isLt
  exact rrrL_ok ⟨19, by decide⟩ d a ⟨t.val + 112, by first | decide | omega⟩ b _ rest fun w lit n h ho hb => by
    simp only [decodeWord_19 h.major, decodeV13, h.f31_26, h.rd, h.ra, h.t8, ho, ofNat_val, show (t.val + 112) / 8 = 14 from by omega, show Fin.ofNat 8 (t.val + 112) = t from Fin.ext (by simp only [Fin.val_ofNat]; omega)]
    rfl

theorem vcmp (t : Fin 8) (cond : Fin 4) (kd : Fin 8) (a b : Reg) : Statement (.vcmp t cond kd a b) := by
  intro hw _ rest
  have ht := t.isLt
  have hcond := cond.isLt
  have hkd := kd.isLt
  exact rrr_ok ⟨19, by decide⟩ ⟨kd.val + 8 * cond.val, by first | decide | omega⟩ a b ⟨t.val + 120, by first | decide | omega⟩ _ rest fun w h => by
    simp only [decodeWord_19 h.major, decodeV13, h.f31_26, h.ra, h.rb, h.t8, h.d4, h.d8, noLit, ofNat_val, show (kd.val + 8 * cond.val) / 8 = cond.val from by omega, show Fin.ofNat 8 (kd.val + 8 * cond.val) = kd from Fin.ext (by simp only [Fin.val_ofNat]; omega), show Fin.ofNat 4 cond.val = cond from Fin.ext (by simp only [Fin.val_ofNat]; omega), show (t.val + 120) / 8 = 15 from by omega, show Fin.ofNat 8 (t.val + 120) = t from Fin.ext (by simp only [Fin.val_ofNat]; omega)]
    rfl

theorem vsel (t : Fin 8) (d a : Reg) (kb : Fin 8) : Statement (.vsel t d a kb) := by
  intro hw _ rest
  have ht := t.isLt
  have hkb := kb.isLt
  exact rrr_ok ⟨19, by decide⟩ d a ⟨kb.val, by first | decide | omega⟩ ⟨t.val + 128, by first | decide | omega⟩ _ rest fun w h => by
    simp only [decodeWord_19 h.major, decodeV13, h.f31_26, h.f22_18, h.rd, h.ra, h.t8, noLit, finIn_val, ofNat_val, show (t.val + 128) / 8 = 16 from by omega, show Fin.ofNat 8 (t.val + 128) = t from Fin.ext (by simp only [Fin.val_ofNat]; omega)]
    rfl

theorem vkopAnd (d a b : Fin 8) : Statement (.vkopAnd d a b) := by
  intro hw _ rest
  have hd := d.isLt
  have ha := a.isLt
  have hb := b.isLt
  exact rrr_ok ⟨19, by decide⟩ ⟨d.val, by first | decide | omega⟩ ⟨a.val, by first | decide | omega⟩ ⟨b.val, by first | decide | omega⟩ ⟨136, by first | decide | omega⟩ _ rest fun w h => by
    simp only [decodeWord_19 h.major, decodeV13, h.f12_8, h.f17_13, h.f22_18, h.f25_23, noLit, finIn_val, ofNat_val, decodeVkop, h.f31_26, h.f25_23]
    rfl

theorem vkopOr (d a b : Fin 8) : Statement (.vkopOr d a b) := by
  intro hw _ rest
  have hd := d.isLt
  have ha := a.isLt
  have hb := b.isLt
  exact rrr_ok ⟨19, by decide⟩ ⟨d.val, by first | decide | omega⟩ ⟨a.val, by first | decide | omega⟩ ⟨b.val, by first | decide | omega⟩ ⟨137, by first | decide | omega⟩ _ rest fun w h => by
    simp only [decodeWord_19 h.major, decodeV13, h.f12_8, h.f17_13, h.f22_18, h.f25_23, noLit, finIn_val, ofNat_val, decodeVkop, h.f31_26, h.f25_23]
    rfl

theorem vkopXor (d a b : Fin 8) : Statement (.vkopXor d a b) := by
  intro hw _ rest
  have hd := d.isLt
  have ha := a.isLt
  have hb := b.isLt
  exact rrr_ok ⟨19, by decide⟩ ⟨d.val, by first | decide | omega⟩ ⟨a.val, by first | decide | omega⟩ ⟨b.val, by first | decide | omega⟩ ⟨138, by first | decide | omega⟩ _ rest fun w h => by
    simp only [decodeWord_19 h.major, decodeV13, h.f12_8, h.f17_13, h.f22_18, h.f25_23, noLit, finIn_val, ofNat_val, decodeVkop, h.f31_26, h.f25_23]
    rfl

theorem vkopAndn (d a b : Fin 8) : Statement (.vkopAndn d a b) := by
  intro hw _ rest
  have hd := d.isLt
  have ha := a.isLt
  have hb := b.isLt
  exact rrr_ok ⟨19, by decide⟩ ⟨d.val, by first | decide | omega⟩ ⟨a.val, by first | decide | omega⟩ ⟨b.val, by first | decide | omega⟩ ⟨139, by first | decide | omega⟩ _ rest fun w h => by
    simp only [decodeWord_19 h.major, decodeV13, h.f12_8, h.f17_13, h.f22_18, h.f25_23, noLit, finIn_val, ofNat_val, decodeVkop, h.f31_26, h.f25_23]
    rfl

theorem vkopNot (d a : Fin 8) : Statement (.vkopNot d a) := by
  intro hw _ rest
  have hd := d.isLt
  have ha := a.isLt
  exact rrr_ok ⟨19, by decide⟩ ⟨d.val, by first | decide | omega⟩ ⟨a.val, by first | decide | omega⟩ ⟨0, by first | decide | omega⟩ ⟨140, by first | decide | omega⟩ _ rest fun w h => by
    simp only [decodeWord_19 h.major, decodeV13, h.f12_8, h.f17_13, h.f22_18, h.f25_23, noLit, zero, finIn_val, ofNat_val, decodeVkop, h.f31_26, h.f25_23]
    rfl

theorem vkopPopc (d : Reg) (a : Fin 8) : Statement (.vkopPopc d a) := by
  intro hw _ rest
  have ha := a.isLt
  exact rrr_ok ⟨19, by decide⟩ d ⟨a.val, by first | decide | omega⟩ ⟨0, by first | decide | omega⟩ ⟨141, by first | decide | omega⟩ _ rest fun w h => by
    simp only [decodeWord_19 h.major, decodeV13, h.f12_8, h.f17_13, h.f22_18, h.f25_23, h.rd, noLit, zero, finIn_val, ofNat_val, decodeVkop, h.f31_26, h.f25_23]
    rfl

theorem vkopSplat (d : Fin 8) (a : Reg) : Statement (.vkopSplat d a) := by
  intro hw _ rest
  have hd := d.isLt
  exact rrr_ok ⟨19, by decide⟩ ⟨d.val, by first | decide | omega⟩ a ⟨0, by first | decide | omega⟩ ⟨142, by first | decide | omega⟩ _ rest fun w h => by
    simp only [decodeWord_19 h.major, decodeV13, h.f12_8, h.f17_13, h.f22_18, h.f25_23, h.ra, noLit, zero, finIn_val, ofNat_val, decodeVkop, h.f31_26, h.f25_23]
    rfl

theorem vkopFromx (d : Fin 8) (a : Reg) : Statement (.vkopFromx d a) := by
  intro hw _ rest
  have hd := d.isLt
  exact rrr_ok ⟨19, by decide⟩ ⟨d.val, by first | decide | omega⟩ a ⟨0, by first | decide | omega⟩ ⟨143, by first | decide | omega⟩ _ rest fun w h => by
    simp only [decodeWord_19 h.major, decodeV13, h.f12_8, h.f17_13, h.f22_18, h.f25_23, h.ra, noLit, zero, finIn_val, ofNat_val, decodeVkop, h.f31_26, h.f25_23]
    rfl

theorem view (td : Fin 16) (a : Reg) : Statement (.view td a) := by
  intro hw _ rest
  have htd := td.isLt
  exact rrr_ok ⟨20, by decide⟩ ⟨td.val, by first | decide | omega⟩ a ⟨0, by first | decide | omega⟩ ⟨0, by first | decide | omega⟩ _ rest fun w h => by
    simp only [decodeWord_20 h.major, decodeV14, h.f25_23, h.f12_8, h.f17_13, h.f31_26, h.f22_18, h.ra, h.t8, noLit, zero, finIn_val, ofNat_val]
    rfl

theorem views (td : Fin 16) (a : Reg) : Statement (.views td a) := by
  intro hw _ rest
  have htd := td.isLt
  exact rrr_ok ⟨20, by decide⟩ ⟨td.val, by first | decide | omega⟩ a ⟨0, by first | decide | omega⟩ ⟨8, by first | decide | omega⟩ _ rest fun w h => by
    simp only [decodeWord_20 h.major, decodeV14, h.f25_23, h.f12_8, h.f17_13, h.f31_26, h.f22_18, h.ra, h.t8, noLit, zero, finIn_val, ofNat_val]
    rfl

theorem vmkv (t : Fin 8) (td : Fin 16) (a : Reg) (b : OpL) : Statement (.vmkv t td a b) := by
  intro hw _ rest
  have ht := t.isLt
  have htd := td.isLt
  exact rrrL_ok ⟨20, by decide⟩ ⟨td.val, by first | decide | omega⟩ a ⟨t.val + 16, by first | decide | omega⟩ b _ rest fun w lit n h ho hb => by
    simp only [decodeWord_20 h.major, decodeV14, h.f25_23, h.f12_8, h.f17_13, h.f31_26, h.ra, h.t8, ho, zero, finIn_val, ofNat_val, show (t.val + 16) / 8 = 2 from by omega, show Fin.ofNat 8 (t.val + 16) = t from Fin.ext (by simp only [Fin.val_ofNat]; omega)]
    rfl

theorem vpart (src : Fin 3) (td ta : Fin 16) (b : OpL) : Statement (.vpart src td ta b) := by
  intro hw _ rest
  have hsrc := src.isLt
  have htd := td.isLt
  have hta := ta.isLt
  exact rrrL_ok ⟨20, by decide⟩ ⟨td.val, by first | decide | omega⟩ ⟨ta.val, by first | decide | omega⟩ ⟨src.val + 24, by first | decide | omega⟩ b _ rest fun w lit n h ho hb => by
    have hn : (src.val != 0 || (lit.isNone && decide (n.val ≤ 30))) = true := by
      rcases hb with ⟨rfl, rfl⟩ | ⟨⟨v, rfl⟩, hl⟩
      · exact hw
      · have hw2 : (src.val != 0 || false) = true := hw
        rw [hl]; exact hw2
    simp only [decodeWord_20 h.major, decodeV14, h.f25_23, h.f12_8, h.f17_13, h.f31_26, h.f22_18, h.t8, ho, zero, finIn_val, ofNat_val, show (src.val + 24) / 8 = 3 from by omega, show (src.val + 24) % 8 = src.val from by omega]
    show (do need (src.val != 0 || (lit.isNone && decide (n.val ≤ 30))) DecodeError.outOfRange; Except.ok (Instr.vpart src td ta b)) = _
    rw [hn]
    rfl

theorem vbind (d : Reg) (ta : Fin 16) : Statement (.vbind d ta) := by
  intro hw _ rest
  have hta := ta.isLt
  exact rrr_ok ⟨20, by decide⟩ d ⟨ta.val, by first | decide | omega⟩ ⟨0, by first | decide | omega⟩ ⟨32, by first | decide | omega⟩ _ rest fun w h => by
    simp only [decodeWord_20 h.major, decodeV14, h.f25_23, h.f12_8, h.f17_13, h.f31_26, h.f22_18, h.rd, h.t8, noLit, zero, finIn_val, ofNat_val]
    rfl

theorem vunbind (d : Reg) : Statement (.vunbind d) := by
  intro hw _ rest
  exact rrr_ok ⟨20, by decide⟩ d ⟨0, by first | decide | omega⟩ ⟨0, by first | decide | omega⟩ ⟨40, by first | decide | omega⟩ _ rest fun w h => by
    simp only [decodeWord_20 h.major, decodeV14, h.f25_23, h.f12_8, h.f17_13, h.f31_26, h.f22_13, h.rd, h.t8, noLit, zero, finIn_val, ofNat_val]
    rfl

theorem vld (d : Reg) (ta : Fin 16) (b : OpL) : Statement (.vld d ta b) := by
  intro hw _ rest
  have hta := ta.isLt
  exact rrrL_ok ⟨20, by decide⟩ d ⟨ta.val, by first | decide | omega⟩ ⟨48, by first | decide | omega⟩ b _ rest fun w lit n h ho hb => by
    simp only [decodeWord_20 h.major, decodeV14, h.f25_23, h.f12_8, h.f17_13, h.f31_26, h.rd, h.t8, ho, zero, finIn_val, ofNat_val]
    rfl

theorem vst (s : Reg) (ta : Fin 16) (b : OpL) : Statement (.vst s ta b) := by
  intro hw _ rest
  have hta := ta.isLt
  exact rrrL_ok ⟨20, by decide⟩ s ⟨ta.val, by first | decide | omega⟩ ⟨56, by first | decide | omega⟩ b _ rest fun w lit n h ho hb => by
    simp only [decodeWord_20 h.major, decodeV14, h.f25_23, h.f12_8, h.f17_13, h.f31_26, h.rd, h.t8, ho, zero, finIn_val, ofNat_val]
    rfl

theorem vmov (t : Fin 8) (d a : Reg) : Statement (.vmov t d a) := by
  intro hw _ rest
  have ht := t.isLt
  exact rrr_ok ⟨20, by decide⟩ d a ⟨0, by first | decide | omega⟩ ⟨t.val + 64, by first | decide | omega⟩ _ rest fun w h => by
    simp only [decodeWord_20 h.major, decodeV14, h.f25_23, h.f12_8, h.f17_13, h.f31_26, h.f22_18, h.rd, h.ra, h.t8, noLit, zero, finIn_val, ofNat_val, show (t.val + 64) / 8 = 8 from by omega, show Fin.ofNat 8 (t.val + 64) = t from Fin.ext (by simp only [Fin.val_ofNat]; omega)]
    rfl

theorem vbcast (t : Fin 8) (d : Reg) (v : OpL) : Statement (.vbcast t d v) := by
  intro hw _ rest
  have ht := t.isLt
  match v with
  | .reg a =>
    exact rrr_ok ⟨20, by decide⟩ d a 0 ⟨t.val + 72, by omega⟩ _ rest fun w h => by
      simp only [decodeWord_20 h.major, decodeV14, h.f31_26, h.f22_18, h.rd, h.ra, h.t8, zero, ofNat_val, show (t.val + 72) / 8 = 9 from by omega, show Fin.ofNat 8 (t.val + 72) = t from Fin.ext (by simp only [Fin.val_ofNat]; omega)]
      rfl
  | .lit v =>
    have h0 := fields_W true 20 d 0 0 ⟨t.val + 72, by omega⟩
    have he : d.val + 32 * (0 : Fin 32).val + 1024 * (0 : Fin 32).val + 32768 * (t.val + 72) = d.val + 32768 * (t.val + 72) := by
      have : (0 : Fin 32).val = 0 := rfl
      omega
    simp only [he, if_true] at h0
    have h : Fields (7 + 8 * 20 + 256 * (d.val + 32768 * (t.val + 72))) 20 d.val 0 0 (t.val + 72) := h0
    exact decode_wordL 20 _ v rest _ (by
      simp only [decodeWord_20 h.major, decodeV14, h.f31_26, h.f22_13, h.rd, h.t8, zero, ofNat_val, show (t.val + 72) / 8 = 9 from by omega, show Fin.ofNat 8 (t.val + 72) = t from Fin.ext (by simp only [Fin.val_ofNat]; omega)]
      rfl)

theorem vgather (t : Fin 8) (d a : Reg) : Statement (.vgather t d a) := by
  intro hw _ rest
  have ht := t.isLt
  exact rrr_ok ⟨20, by decide⟩ d a ⟨0, by first | decide | omega⟩ ⟨t.val + 80, by first | decide | omega⟩ _ rest fun w h => by
    simp only [decodeWord_20 h.major, decodeV14, h.f25_23, h.f12_8, h.f17_13, h.f31_26, h.f22_18, h.rd, h.ra, h.t8, noLit, zero, finIn_val, ofNat_val, show (t.val + 80) / 8 = 10 from by omega, show Fin.ofNat 8 (t.val + 80) = t from Fin.ext (by simp only [Fin.val_ofNat]; omega)]
    rfl

theorem vscatter (t : Fin 8) (wa ws : Reg) : Statement (.vscatter t wa ws) := by
  intro hw _ rest
  have ht := t.isLt
  exact rrr_ok ⟨20, by decide⟩ wa ws ⟨0, by first | decide | omega⟩ ⟨t.val + 88, by first | decide | omega⟩ _ rest fun w h => by
    simp only [decodeWord_20 h.major, decodeV14, h.f25_23, h.f12_8, h.f17_13, h.f31_26, h.f22_18, h.rd, h.ra, h.t8, noLit, zero, finIn_val, ofNat_val, show (t.val + 88) / 8 = 11 from by omega, show Fin.ofNat 8 (t.val + 88) = t from Fin.ext (by simp only [Fin.val_ofNat]; omega)]
    rfl

theorem vaccrd (t : Fin 8) (d : Reg) (acc : Fin 16) (b : OpL) : Statement (.vaccrd t d acc b) := by
  intro hw _ rest
  have ht := t.isLt
  have hacc := acc.isLt
  exact rrrL_ok ⟨20, by decide⟩ d ⟨acc.val, by first | decide | omega⟩ ⟨t.val + 96, by first | decide | omega⟩ b _ rest fun w lit n h ho hb => by
    simp only [decodeWord_20 h.major, decodeV14, h.f25_23, h.f12_8, h.f17_13, h.f31_26, h.rd, h.t8, ho, zero, finIn_val, ofNat_val, show (t.val + 96) / 8 = 12 from by omega, show Fin.ofNat 8 (t.val + 96) = t from Fin.ext (by simp only [Fin.val_ofNat]; omega)]
    rfl

theorem vaccrdPeek (t : Fin 8) (d : Reg) (acc : Fin 16) (b : OpL) : Statement (.vaccrdPeek t d acc b) := by
  intro hw _ rest
  have ht := t.isLt
  have hacc := acc.isLt
  exact rrrL_ok ⟨20, by decide⟩ d ⟨acc.val, by first | decide | omega⟩ ⟨t.val + 104, by first | decide | omega⟩ b _ rest fun w lit n h ho hb => by
    simp only [decodeWord_20 h.major, decodeV14, h.f25_23, h.f12_8, h.f17_13, h.f31_26, h.rd, h.t8, ho, zero, finIn_val, ofNat_val, show (t.val + 104) / 8 = 13 from by omega, show Fin.ofNat 8 (t.val + 104) = t from Fin.ext (by simp only [Fin.val_ofNat]; omega)]
    rfl

theorem vaccwr (t : Fin 8) (s : Reg) (acc : Fin 16) (b : OpL) : Statement (.vaccwr t s acc b) := by
  intro hw _ rest
  have ht := t.isLt
  have hacc := acc.isLt
  exact rrrL_ok ⟨20, by decide⟩ s ⟨acc.val, by first | decide | omega⟩ ⟨t.val + 112, by first | decide | omega⟩ b _ rest fun w lit n h ho hb => by
    simp only [decodeWord_20 h.major, decodeV14, h.f25_23, h.f12_8, h.f17_13, h.f31_26, h.rd, h.t8, ho, zero, finIn_val, ofNat_val, show (t.val + 112) / 8 = 14 from by omega, show Fin.ofNat 8 (t.val + 112) = t from Fin.ext (by simp only [Fin.val_ofNat]; omega)]
    rfl

theorem rpush (n : Bool) (ring : Fin 8) (a b : Reg) : Statement (.rpush n ring a b) := by
  intro hw _ rest
  have hring := ring.isLt
  cases n with
  | true =>
    exact rrr_ok ⟨20, by decide⟩ ⟨ring.val, by omega⟩ a b ⟨_, by decide⟩ _ rest fun w h => by
      simp only [decodeWord_20 h.major, decodeV14, h.f25_24, h.f12_8, h.f31_26, h.f22_18, h.b23, h.ra, h.rb, noLit, zero, finIn_val, ofNat_val, Bool.toNat_true, Bool.toNat_false]
      rfl
  | false =>
    have hw2 : (false || b.val == 0) = true := hw
    exact rrr_ok ⟨20, by decide⟩ ⟨ring.val, by omega⟩ a b ⟨_, by decide⟩ _ rest fun w h => by
      simp only [decodeWord_20 h.major, decodeV14, h.f25_24, h.f12_8, h.f31_26, h.f22_18, h.b23, h.ra, h.rb, noLit, zero, finIn_val, ofNat_val, Bool.toNat_true, Bool.toNat_false]
      show (do need (false || b.val == 0) DecodeError.nonZeroField; Except.ok (Instr.rpush false ring a b)) = _
      rw [hw2]
      rfl

theorem vcvt (t : Fin 8) (dst : Fin 16) (sat : Bool) (d a : Reg) : Statement (.vcvt t dst sat d a) := by
  intro hw _ rest
  have ht := t.isLt
  have hdst := dst.isLt
  cases sat <;>
  exact rrr_ok ⟨21, by decide⟩ d a ⟨_, by first | decide | (simp; omega)⟩ ⟨t.val, by first | decide | omega⟩ _ rest fun w h => by
    simp only [decodeWord_21 h.major, decodeV15, h.f31_26, h.b22, h.rd, h.ra, h.t8, h.b16, noLit, ofNat_val, Bool.toNat_false, Bool.toNat_true, Nat.mul_one, Nat.mul_zero, Nat.add_zero, show Fin.ofNat 16 (dst.val + 16) = dst from Fin.ext (by simp only [Fin.val_ofNat]; omega), show Fin.ofNat 16 dst.val = dst from Fin.ext (by simp only [Fin.val_ofNat]; omega), show (dst.val + 16) / 16 = 1 from by omega, show dst.val / 16 = 0 from by omega, show t.val / 8 = 0 from by omega, show Fin.ofNat 8 t.val = t from Fin.ext (by simp only [Fin.val_ofNat]; omega)]
    rfl

theorem vcvtSr (t : Fin 8) (d a : Reg) (b : OpL) : Statement (.vcvtSr t d a b) := by
  intro hw _ rest
  have ht := t.isLt
  exact rrrL_ok ⟨21, by decide⟩ d a ⟨t.val + 8, by first | decide | omega⟩ b _ rest fun w lit n h ho hb => by
    simp only [decodeWord_21 h.major, decodeV15, h.f31_26, h.rd, h.ra, h.t8, ho, ofNat_val, show (t.val + 8) / 8 = 1 from by omega, show Fin.ofNat 8 (t.val + 8) = t from Fin.ext (by simp only [Fin.val_ofNat]; omega)]
    rfl

theorem vqmx (d a : Reg) : Statement (.vqmx d a) := by
  intro hw _ rest
  exact rrr_ok ⟨21, by decide⟩ d a ⟨0, by first | decide | omega⟩ ⟨16, by first | decide | omega⟩ _ rest fun w h => by
    simp only [decodeWord_21 h.major, decodeV15, h.f31_26, h.f25_18, h.rd, h.ra, h.t8, noLit, zero, ofNat_val]
    rfl

theorem vdq (d a : Reg) : Statement (.vdq d a) := by
  intro hw _ rest
  exact rrr_ok ⟨21, by decide⟩ d a ⟨0, by first | decide | omega⟩ ⟨24, by first | decide | omega⟩ _ rest fun w h => by
    simp only [decodeWord_21 h.major, decodeV15, h.f31_26, h.f25_18, h.rd, h.ra, h.t8, noLit, zero, ofNat_val]
    rfl

theorem vrcpA (t : Fin 8) (d a : Reg) : Statement (.vrcpA t d a) := by
  intro hw _ rest
  have ht := t.isLt
  exact rrr_ok ⟨21, by decide⟩ d a ⟨0, by first | decide | omega⟩ ⟨t.val + 32, by first | decide | omega⟩ _ rest fun w h => by
    simp only [decodeWord_21 h.major, decodeV15, h.f31_26, h.f22_18, h.rd, h.ra, h.t8, noLit, zero, ofNat_val, show (t.val + 32) / 8 = 4 from by omega, show Fin.ofNat 8 (t.val + 32) = t from Fin.ext (by simp only [Fin.val_ofNat]; omega)]
    rfl

theorem vrsqA (t : Fin 8) (d a : Reg) : Statement (.vrsqA t d a) := by
  intro hw _ rest
  have ht := t.isLt
  exact rrr_ok ⟨21, by decide⟩ d a ⟨0, by first | decide | omega⟩ ⟨t.val + 40, by first | decide | omega⟩ _ rest fun w h => by
    simp only [decodeWord_21 h.major, decodeV15, h.f31_26, h.f22_18, h.rd, h.ra, h.t8, noLit, zero, ofNat_val, show (t.val + 40) / 8 = 5 from by omega, show Fin.ofNat 8 (t.val + 40) = t from Fin.ext (by simp only [Fin.val_ofNat]; omega)]
    rfl

theorem vrsq (t : Fin 8) (d a : Reg) : Statement (.vrsq t d a) := by
  intro hw _ rest
  have ht := t.isLt
  exact rrr_ok ⟨21, by decide⟩ d a ⟨0, by first | decide | omega⟩ ⟨t.val + 48, by first | decide | omega⟩ _ rest fun w h => by
    simp only [decodeWord_21 h.major, decodeV15, h.f31_26, h.f22_18, h.rd, h.ra, h.t8, noLit, zero, ofNat_val, show (t.val + 48) / 8 = 6 from by omega, show Fin.ofNat 8 (t.val + 48) = t from Fin.ext (by simp only [Fin.val_ofNat]; omega)]
    rfl

theorem vsqrt (t : Fin 8) (d a : Reg) : Statement (.vsqrt t d a) := by
  intro hw _ rest
  have ht := t.isLt
  exact rrr_ok ⟨21, by decide⟩ d a ⟨0, by first | decide | omega⟩ ⟨t.val + 56, by first | decide | omega⟩ _ rest fun w h => by
    simp only [decodeWord_21 h.major, decodeV15, h.f31_26, h.f22_18, h.rd, h.ra, h.t8, noLit, zero, ofNat_val, show (t.val + 56) / 8 = 7 from by omega, show Fin.ofNat 8 (t.val + 56) = t from Fin.ext (by simp only [Fin.val_ofNat]; omega)]
    rfl

theorem vdiv (t : Fin 8) (d a : Reg) (b : OpL) : Statement (.vdiv t d a b) := by
  intro hw _ rest
  have ht := t.isLt
  exact rrrL_ok ⟨21, by decide⟩ d a ⟨t.val + 64, by first | decide | omega⟩ b _ rest fun w lit n h ho hb => by
    simp only [decodeWord_21 h.major, decodeV15, h.f31_26, h.rd, h.ra, h.t8, ho, ofNat_val, show (t.val + 64) / 8 = 8 from by omega, show Fin.ofNat 8 (t.val + 64) = t from Fin.ext (by simp only [Fin.val_ofNat]; omega)]
    rfl

theorem vexp2 (t : Fin 8) (d a : Reg) : Statement (.vexp2 t d a) := by
  intro hw _ rest
  have ht := t.isLt
  exact rrr_ok ⟨21, by decide⟩ d a ⟨0, by first | decide | omega⟩ ⟨t.val + 72, by first | decide | omega⟩ _ rest fun w h => by
    simp only [decodeWord_21 h.major, decodeV15, h.f31_26, h.f22_18, h.rd, h.ra, h.t8, noLit, zero, ofNat_val, show (t.val + 72) / 8 = 9 from by omega, show Fin.ofNat 8 (t.val + 72) = t from Fin.ext (by simp only [Fin.val_ofNat]; omega)]
    rfl

theorem vlog2 (t : Fin 8) (d a : Reg) : Statement (.vlog2 t d a) := by
  intro hw _ rest
  have ht := t.isLt
  exact rrr_ok ⟨21, by decide⟩ d a ⟨0, by first | decide | omega⟩ ⟨t.val + 80, by first | decide | omega⟩ _ rest fun w h => by
    simp only [decodeWord_21 h.major, decodeV15, h.f31_26, h.f22_18, h.rd, h.ra, h.t8, noLit, zero, ofNat_val, show (t.val + 80) / 8 = 10 from by omega, show Fin.ofNat 8 (t.val + 80) = t from Fin.ext (by simp only [Fin.val_ofNat]; omega)]
    rfl

theorem vtanh (t : Fin 8) (d a : Reg) : Statement (.vtanh t d a) := by
  intro hw _ rest
  have ht := t.isLt
  exact rrr_ok ⟨21, by decide⟩ d a ⟨0, by first | decide | omega⟩ ⟨t.val + 88, by first | decide | omega⟩ _ rest fun w h => by
    simp only [decodeWord_21 h.major, decodeV15, h.f31_26, h.f22_18, h.rd, h.ra, h.t8, noLit, zero, ofNat_val, show (t.val + 88) / 8 = 11 from by omega, show Fin.ofNat 8 (t.val + 88) = t from Fin.ext (by simp only [Fin.val_ofNat]; omega)]
    rfl

theorem vred (t : Fin 8) (op : Fin 4) (d a : Reg) : Statement (.vred t op d a) := by
  intro hw _ rest
  have ht := t.isLt
  have hop := op.isLt
  exact rrr_ok ⟨22, by decide⟩ d a ⟨op.val, by first | decide | omega⟩ ⟨t.val, by first | decide | omega⟩ _ rest fun w h => by
    simp only [decodeWord_22 h.major, decodeV16, h.f31_26, h.f22_18, h.rd, h.ra, h.t8, noLit, finIn_val, ofNat_val, show t.val / 8 = 0 from by omega, show Fin.ofNat 8 t.val = t from Fin.ext (by simp only [Fin.val_ofNat]; omega)]
    rfl

theorem vscan (t : Fin 8) (op : Fin 3) (d a : Reg) : Statement (.vscan t op d a) := by
  intro hw _ rest
  have ht := t.isLt
  have hop := op.isLt
  exact rrr_ok ⟨22, by decide⟩ d a ⟨op.val, by first | decide | omega⟩ ⟨t.val + 8, by first | decide | omega⟩ _ rest fun w h => by
    simp only [decodeWord_22 h.major, decodeV16, h.f31_26, h.f22_18, h.rd, h.ra, h.t8, noLit, finIn_val, ofNat_val, show (t.val + 8) / 8 = 1 from by omega, show Fin.ofNat 8 (t.val + 8) = t from Fin.ext (by simp only [Fin.val_ofNat]; omega)]
    rfl

theorem vnorm (t : Fin 8) (w : Fin 6) (d a : Reg) : Statement (.vnorm t w d a) := by
  intro hw _ rest
  have ht := t.isLt
  have hw := w.isLt
  exact rrr_ok ⟨22, by decide⟩ d a ⟨w.val, by first | decide | omega⟩ ⟨t.val + 16, by first | decide | omega⟩ _ rest fun w h => by
    simp only [decodeWord_22 h.major, decodeV16, h.f31_26, h.f22_18, h.rd, h.ra, h.t8, noLit, finIn_val, ofNat_val, show (t.val + 16) / 8 = 2 from by omega, show Fin.ofNat 8 (t.val + 16) = t from Fin.ext (by simp only [Fin.val_ofNat]; omega)]
    rfl

theorem vtopk (t : Fin 8) (d a b : Reg) : Statement (.vtopk t d a b) := by
  intro hw _ rest
  have ht := t.isLt
  exact rrr_ok ⟨22, by decide⟩ d a b ⟨t.val + 24, by first | decide | omega⟩ _ rest fun w h => by
    simp only [decodeWord_22 h.major, decodeV16, h.f31_26, h.rd, h.ra, h.rb, h.t8, noLit, ofNat_val, show (t.val + 24) / 8 = 3 from by omega, show Fin.ofNat 8 (t.val + 24) = t from Fin.ext (by simp only [Fin.val_ofNat]; omega)]
    rfl

theorem vrand (t : Fin 8) (d : Reg) (b : OpL) : Statement (.vrand t d b) := by
  intro hw _ rest
  have ht := t.isLt
  exact rrrL_ok ⟨22, by decide⟩ d ⟨0, by first | decide | omega⟩ ⟨t.val + 32, by first | decide | omega⟩ b _ rest fun w lit n h ho hb => by
    simp only [decodeWord_22 h.major, decodeV16, h.f31_26, h.f17_13, h.rd, h.t8, ho, zero, ofNat_val, show (t.val + 32) / 8 = 4 from by omega, show Fin.ofNat 8 (t.val + 32) = t from Fin.ext (by simp only [Fin.val_ofNat]; omega)]
    rfl

theorem rndk (d a : Reg) (b : OpL) : Statement (.rndk d a b) := by
  intro hw _ rest
  exact rrrL_ok ⟨22, by decide⟩ d a ⟨40, by first | decide | omega⟩ b _ rest fun w lit n h ho hb => by
    simp only [decodeWord_22 h.major, decodeV16, h.f31_26, h.f25_23, h.rd, h.ra, h.t8, ho, zero, ofNat_val]
    rfl

theorem mma (pri : Fin 4) (sp : Bool) (pair : Fin 10) (k : Reg) (ringB ringA : Fin 8) (acc : Fin 16) : Statement (.mma pri sp pair k ringB ringA acc) := by
  intro hw _ rest
  have hpri := pri.isLt
  have hpair := pair.isLt
  have hk := k.isLt
  have hringB := ringB.isLt
  have hringA := ringA.isLt
  have hacc := acc.isLt
  match sp with
  | false =>
    exact decode_word _ _ _ _ (by
      show decodeWord (3 + 8 * 23 + 256 * (acc.val + 16 * ringA.val + 128 * ringB.val + 1024 * k.val + 32768 * pair.val + 1048576 * 0 + 4194304 * pri.val)) none = .ok _
      simp only [decodeWord_23 (show fld (3 + 8 * 23 + 256 * (acc.val + 16 * ringA.val + 128 * ringB.val + 1024 * k.val + 32768 * pair.val + 1048576 * 0 + 4194304 * pri.val)) 7 3 = 23 from by simp only [fld]; omega), decodeMma, noLit,
        show bitAt (3 + 8 * 23 + 256 * (acc.val + 16 * ringA.val + 128 * ringB.val + 1024 * k.val + 32768 * pair.val + 1048576 * 0 + 4194304 * pri.val)) 27 = false from by simp only [bitAt, beq_iff_eq, beq_eq_false_iff_ne]; omega,
        show fld (3 + 8 * 23 + 256 * (acc.val + 16 * ringA.val + 128 * ringB.val + 1024 * k.val + 32768 * pair.val + 1048576 * 0 + 4194304 * pri.val)) 26 23 = pair.val from by simp only [fld]; omega,
        finIn_val,
        show finAt 4 (3 + 8 * 23 + 256 * (acc.val + 16 * ringA.val + 128 * ringB.val + 1024 * k.val + 32768 * pair.val + 1048576 * 0 + 4194304 * pri.val)) 30 = pri from Fin.ext (by simp only [finAt, Fin.val_ofNat]; omega),
        show bitAt (3 + 8 * 23 + 256 * (acc.val + 16 * ringA.val + 128 * ringB.val + 1024 * k.val + 32768 * pair.val + 1048576 * 0 + 4194304 * pri.val)) 28 = false from by simp only [bitAt, beq_iff_eq, beq_eq_false_iff_ne]; omega,
        show finAt 32 (3 + 8 * 23 + 256 * (acc.val + 16 * ringA.val + 128 * ringB.val + 1024 * k.val + 32768 * pair.val + 1048576 * 0 + 4194304 * pri.val)) 18 = k from Fin.ext (by simp only [finAt, Fin.val_ofNat]; omega),
        show finAt 8 (3 + 8 * 23 + 256 * (acc.val + 16 * ringA.val + 128 * ringB.val + 1024 * k.val + 32768 * pair.val + 1048576 * 0 + 4194304 * pri.val)) 15 = ringB from Fin.ext (by simp only [finAt, Fin.val_ofNat]; omega),
        show finAt 8 (3 + 8 * 23 + 256 * (acc.val + 16 * ringA.val + 128 * ringB.val + 1024 * k.val + 32768 * pair.val + 1048576 * 0 + 4194304 * pri.val)) 12 = ringA from Fin.ext (by simp only [finAt, Fin.val_ofNat]; omega),
        show finAt 16 (3 + 8 * 23 + 256 * (acc.val + 16 * ringA.val + 128 * ringB.val + 1024 * k.val + 32768 * pair.val + 1048576 * 0 + 4194304 * pri.val)) 8 = acc from Fin.ext (by simp only [finAt, Fin.val_ofNat]; omega),
        regAt,
        show bitAt (3 + 8 * 23 + 256 * (acc.val + 16 * ringA.val + 128 * ringB.val + 1024 * k.val + 32768 * pair.val + 1048576 * 0 + 4194304 * pri.val)) 29 = false from by simp only [bitAt, beq_iff_eq, beq_eq_false_iff_ne]; omega]
      rfl)
  | true =>
    exact decode_word _ _ _ _ (by
      show decodeWord (3 + 8 * 23 + 256 * (acc.val + 16 * ringA.val + 128 * ringB.val + 1024 * k.val + 32768 * pair.val + 1048576 * 1 + 4194304 * pri.val)) none = .ok _
      simp only [decodeWord_23 (show fld (3 + 8 * 23 + 256 * (acc.val + 16 * ringA.val + 128 * ringB.val + 1024 * k.val + 32768 * pair.val + 1048576 * 1 + 4194304 * pri.val)) 7 3 = 23 from by simp only [fld]; omega), decodeMma, noLit,
        show bitAt (3 + 8 * 23 + 256 * (acc.val + 16 * ringA.val + 128 * ringB.val + 1024 * k.val + 32768 * pair.val + 1048576 * 1 + 4194304 * pri.val)) 27 = false from by simp only [bitAt, beq_iff_eq, beq_eq_false_iff_ne]; omega,
        show fld (3 + 8 * 23 + 256 * (acc.val + 16 * ringA.val + 128 * ringB.val + 1024 * k.val + 32768 * pair.val + 1048576 * 1 + 4194304 * pri.val)) 26 23 = pair.val from by simp only [fld]; omega,
        finIn_val,
        show finAt 4 (3 + 8 * 23 + 256 * (acc.val + 16 * ringA.val + 128 * ringB.val + 1024 * k.val + 32768 * pair.val + 1048576 * 1 + 4194304 * pri.val)) 30 = pri from Fin.ext (by simp only [finAt, Fin.val_ofNat]; omega),
        show bitAt (3 + 8 * 23 + 256 * (acc.val + 16 * ringA.val + 128 * ringB.val + 1024 * k.val + 32768 * pair.val + 1048576 * 1 + 4194304 * pri.val)) 28 = true from by simp only [bitAt, beq_iff_eq, beq_eq_false_iff_ne]; omega,
        show finAt 32 (3 + 8 * 23 + 256 * (acc.val + 16 * ringA.val + 128 * ringB.val + 1024 * k.val + 32768 * pair.val + 1048576 * 1 + 4194304 * pri.val)) 18 = k from Fin.ext (by simp only [finAt, Fin.val_ofNat]; omega),
        show finAt 8 (3 + 8 * 23 + 256 * (acc.val + 16 * ringA.val + 128 * ringB.val + 1024 * k.val + 32768 * pair.val + 1048576 * 1 + 4194304 * pri.val)) 15 = ringB from Fin.ext (by simp only [finAt, Fin.val_ofNat]; omega),
        show finAt 8 (3 + 8 * 23 + 256 * (acc.val + 16 * ringA.val + 128 * ringB.val + 1024 * k.val + 32768 * pair.val + 1048576 * 1 + 4194304 * pri.val)) 12 = ringA from Fin.ext (by simp only [finAt, Fin.val_ofNat]; omega),
        show finAt 16 (3 + 8 * 23 + 256 * (acc.val + 16 * ringA.val + 128 * ringB.val + 1024 * k.val + 32768 * pair.val + 1048576 * 1 + 4194304 * pri.val)) 8 = acc from Fin.ext (by simp only [finAt, Fin.val_ofNat]; omega),
        regAt,
        show bitAt (3 + 8 * 23 + 256 * (acc.val + 16 * ringA.val + 128 * ringB.val + 1024 * k.val + 32768 * pair.val + 1048576 * 1 + 4194304 * pri.val)) 29 = false from by simp only [bitAt, beq_iff_eq, beq_eq_false_iff_ne]; omega]
      rfl)

theorem mmas (pri : Fin 4) (x sp : Bool) (pair : Fin 10) (k : Reg) (ringB ringA : Fin 8) (acc : Fin 16) : Statement (.mmas pri x sp pair k ringB ringA acc) := by
  intro hw _ rest
  have hpri := pri.isLt
  have hpair := pair.isLt
  have hk := k.isLt
  have hringB := ringB.isLt
  have hringA := ringA.isLt
  have hacc := acc.isLt
  have hw2 : (decide (k.val ≤ 28) && pair.val != 8) = true := hw
  match x, sp with
  | false, false =>
    exact decode_word _ _ _ _ (by
      show decodeWord (3 + 8 * 23 + 256 * (acc.val + 16 * ringA.val + 128 * ringB.val + 1024 * k.val + 32768 * pair.val + 524288 + 1048576 * 0 + 2097152 * 0 + 4194304 * pri.val)) none = .ok _
      simp only [decodeWord_23 (show fld (3 + 8 * 23 + 256 * (acc.val + 16 * ringA.val + 128 * ringB.val + 1024 * k.val + 32768 * pair.val + 524288 + 1048576 * 0 + 2097152 * 0 + 4194304 * pri.val)) 7 3 = 23 from by simp only [fld]; omega), decodeMma, noLit,
        show bitAt (3 + 8 * 23 + 256 * (acc.val + 16 * ringA.val + 128 * ringB.val + 1024 * k.val + 32768 * pair.val + 524288 + 1048576 * 0 + 2097152 * 0 + 4194304 * pri.val)) 27 = true from by simp only [bitAt, beq_iff_eq, beq_eq_false_iff_ne]; omega,
        show fld (3 + 8 * 23 + 256 * (acc.val + 16 * ringA.val + 128 * ringB.val + 1024 * k.val + 32768 * pair.val + 524288 + 1048576 * 0 + 2097152 * 0 + 4194304 * pri.val)) 26 23 = pair.val from by simp only [fld]; omega,
        finIn_val,
        show finAt 4 (3 + 8 * 23 + 256 * (acc.val + 16 * ringA.val + 128 * ringB.val + 1024 * k.val + 32768 * pair.val + 524288 + 1048576 * 0 + 2097152 * 0 + 4194304 * pri.val)) 30 = pri from Fin.ext (by simp only [finAt, Fin.val_ofNat]; omega),
        show bitAt (3 + 8 * 23 + 256 * (acc.val + 16 * ringA.val + 128 * ringB.val + 1024 * k.val + 32768 * pair.val + 524288 + 1048576 * 0 + 2097152 * 0 + 4194304 * pri.val)) 28 = false from by simp only [bitAt, beq_iff_eq, beq_eq_false_iff_ne]; omega,
        show finAt 32 (3 + 8 * 23 + 256 * (acc.val + 16 * ringA.val + 128 * ringB.val + 1024 * k.val + 32768 * pair.val + 524288 + 1048576 * 0 + 2097152 * 0 + 4194304 * pri.val)) 18 = k from Fin.ext (by simp only [finAt, Fin.val_ofNat]; omega),
        show finAt 8 (3 + 8 * 23 + 256 * (acc.val + 16 * ringA.val + 128 * ringB.val + 1024 * k.val + 32768 * pair.val + 524288 + 1048576 * 0 + 2097152 * 0 + 4194304 * pri.val)) 15 = ringB from Fin.ext (by simp only [finAt, Fin.val_ofNat]; omega),
        show finAt 8 (3 + 8 * 23 + 256 * (acc.val + 16 * ringA.val + 128 * ringB.val + 1024 * k.val + 32768 * pair.val + 524288 + 1048576 * 0 + 2097152 * 0 + 4194304 * pri.val)) 12 = ringA from Fin.ext (by simp only [finAt, Fin.val_ofNat]; omega),
        show finAt 16 (3 + 8 * 23 + 256 * (acc.val + 16 * ringA.val + 128 * ringB.val + 1024 * k.val + 32768 * pair.val + 524288 + 1048576 * 0 + 2097152 * 0 + 4194304 * pri.val)) 8 = acc from Fin.ext (by simp only [finAt, Fin.val_ofNat]; omega),
        regAt,
        show bitAt (3 + 8 * 23 + 256 * (acc.val + 16 * ringA.val + 128 * ringB.val + 1024 * k.val + 32768 * pair.val + 524288 + 1048576 * 0 + 2097152 * 0 + 4194304 * pri.val)) 29 = false from by simp only [bitAt, beq_iff_eq, beq_eq_false_iff_ne]; omega,
        show fld (3 + 8 * 23 + 256 * (acc.val + 16 * ringA.val + 128 * ringB.val + 1024 * k.val + 32768 * pair.val + 524288 + 1048576 * 0 + 2097152 * 0 + 4194304 * pri.val)) 22 18 = k.val from by simp only [fld]; omega,
        if_true]
      show (do need (decide (k.val ≤ 28) && pair.val != 8) DecodeError.reservedOp; Except.ok (Instr.mmas pri false false pair k ringB ringA acc)) = _
      rw [hw2]
      rfl)
  | false, true =>
    exact decode_word _ _ _ _ (by
      show decodeWord (3 + 8 * 23 + 256 * (acc.val + 16 * ringA.val + 128 * ringB.val + 1024 * k.val + 32768 * pair.val + 524288 + 1048576 * 1 + 2097152 * 0 + 4194304 * pri.val)) none = .ok _
      simp only [decodeWord_23 (show fld (3 + 8 * 23 + 256 * (acc.val + 16 * ringA.val + 128 * ringB.val + 1024 * k.val + 32768 * pair.val + 524288 + 1048576 * 1 + 2097152 * 0 + 4194304 * pri.val)) 7 3 = 23 from by simp only [fld]; omega), decodeMma, noLit,
        show bitAt (3 + 8 * 23 + 256 * (acc.val + 16 * ringA.val + 128 * ringB.val + 1024 * k.val + 32768 * pair.val + 524288 + 1048576 * 1 + 2097152 * 0 + 4194304 * pri.val)) 27 = true from by simp only [bitAt, beq_iff_eq, beq_eq_false_iff_ne]; omega,
        show fld (3 + 8 * 23 + 256 * (acc.val + 16 * ringA.val + 128 * ringB.val + 1024 * k.val + 32768 * pair.val + 524288 + 1048576 * 1 + 2097152 * 0 + 4194304 * pri.val)) 26 23 = pair.val from by simp only [fld]; omega,
        finIn_val,
        show finAt 4 (3 + 8 * 23 + 256 * (acc.val + 16 * ringA.val + 128 * ringB.val + 1024 * k.val + 32768 * pair.val + 524288 + 1048576 * 1 + 2097152 * 0 + 4194304 * pri.val)) 30 = pri from Fin.ext (by simp only [finAt, Fin.val_ofNat]; omega),
        show bitAt (3 + 8 * 23 + 256 * (acc.val + 16 * ringA.val + 128 * ringB.val + 1024 * k.val + 32768 * pair.val + 524288 + 1048576 * 1 + 2097152 * 0 + 4194304 * pri.val)) 28 = true from by simp only [bitAt, beq_iff_eq, beq_eq_false_iff_ne]; omega,
        show finAt 32 (3 + 8 * 23 + 256 * (acc.val + 16 * ringA.val + 128 * ringB.val + 1024 * k.val + 32768 * pair.val + 524288 + 1048576 * 1 + 2097152 * 0 + 4194304 * pri.val)) 18 = k from Fin.ext (by simp only [finAt, Fin.val_ofNat]; omega),
        show finAt 8 (3 + 8 * 23 + 256 * (acc.val + 16 * ringA.val + 128 * ringB.val + 1024 * k.val + 32768 * pair.val + 524288 + 1048576 * 1 + 2097152 * 0 + 4194304 * pri.val)) 15 = ringB from Fin.ext (by simp only [finAt, Fin.val_ofNat]; omega),
        show finAt 8 (3 + 8 * 23 + 256 * (acc.val + 16 * ringA.val + 128 * ringB.val + 1024 * k.val + 32768 * pair.val + 524288 + 1048576 * 1 + 2097152 * 0 + 4194304 * pri.val)) 12 = ringA from Fin.ext (by simp only [finAt, Fin.val_ofNat]; omega),
        show finAt 16 (3 + 8 * 23 + 256 * (acc.val + 16 * ringA.val + 128 * ringB.val + 1024 * k.val + 32768 * pair.val + 524288 + 1048576 * 1 + 2097152 * 0 + 4194304 * pri.val)) 8 = acc from Fin.ext (by simp only [finAt, Fin.val_ofNat]; omega),
        regAt,
        show bitAt (3 + 8 * 23 + 256 * (acc.val + 16 * ringA.val + 128 * ringB.val + 1024 * k.val + 32768 * pair.val + 524288 + 1048576 * 1 + 2097152 * 0 + 4194304 * pri.val)) 29 = false from by simp only [bitAt, beq_iff_eq, beq_eq_false_iff_ne]; omega,
        show fld (3 + 8 * 23 + 256 * (acc.val + 16 * ringA.val + 128 * ringB.val + 1024 * k.val + 32768 * pair.val + 524288 + 1048576 * 1 + 2097152 * 0 + 4194304 * pri.val)) 22 18 = k.val from by simp only [fld]; omega,
        if_true]
      show (do need (decide (k.val ≤ 28) && pair.val != 8) DecodeError.reservedOp; Except.ok (Instr.mmas pri false true pair k ringB ringA acc)) = _
      rw [hw2]
      rfl)
  | true, false =>
    exact decode_word _ _ _ _ (by
      show decodeWord (3 + 8 * 23 + 256 * (acc.val + 16 * ringA.val + 128 * ringB.val + 1024 * k.val + 32768 * pair.val + 524288 + 1048576 * 0 + 2097152 * 1 + 4194304 * pri.val)) none = .ok _
      simp only [decodeWord_23 (show fld (3 + 8 * 23 + 256 * (acc.val + 16 * ringA.val + 128 * ringB.val + 1024 * k.val + 32768 * pair.val + 524288 + 1048576 * 0 + 2097152 * 1 + 4194304 * pri.val)) 7 3 = 23 from by simp only [fld]; omega), decodeMma, noLit,
        show bitAt (3 + 8 * 23 + 256 * (acc.val + 16 * ringA.val + 128 * ringB.val + 1024 * k.val + 32768 * pair.val + 524288 + 1048576 * 0 + 2097152 * 1 + 4194304 * pri.val)) 27 = true from by simp only [bitAt, beq_iff_eq, beq_eq_false_iff_ne]; omega,
        show fld (3 + 8 * 23 + 256 * (acc.val + 16 * ringA.val + 128 * ringB.val + 1024 * k.val + 32768 * pair.val + 524288 + 1048576 * 0 + 2097152 * 1 + 4194304 * pri.val)) 26 23 = pair.val from by simp only [fld]; omega,
        finIn_val,
        show finAt 4 (3 + 8 * 23 + 256 * (acc.val + 16 * ringA.val + 128 * ringB.val + 1024 * k.val + 32768 * pair.val + 524288 + 1048576 * 0 + 2097152 * 1 + 4194304 * pri.val)) 30 = pri from Fin.ext (by simp only [finAt, Fin.val_ofNat]; omega),
        show bitAt (3 + 8 * 23 + 256 * (acc.val + 16 * ringA.val + 128 * ringB.val + 1024 * k.val + 32768 * pair.val + 524288 + 1048576 * 0 + 2097152 * 1 + 4194304 * pri.val)) 28 = false from by simp only [bitAt, beq_iff_eq, beq_eq_false_iff_ne]; omega,
        show finAt 32 (3 + 8 * 23 + 256 * (acc.val + 16 * ringA.val + 128 * ringB.val + 1024 * k.val + 32768 * pair.val + 524288 + 1048576 * 0 + 2097152 * 1 + 4194304 * pri.val)) 18 = k from Fin.ext (by simp only [finAt, Fin.val_ofNat]; omega),
        show finAt 8 (3 + 8 * 23 + 256 * (acc.val + 16 * ringA.val + 128 * ringB.val + 1024 * k.val + 32768 * pair.val + 524288 + 1048576 * 0 + 2097152 * 1 + 4194304 * pri.val)) 15 = ringB from Fin.ext (by simp only [finAt, Fin.val_ofNat]; omega),
        show finAt 8 (3 + 8 * 23 + 256 * (acc.val + 16 * ringA.val + 128 * ringB.val + 1024 * k.val + 32768 * pair.val + 524288 + 1048576 * 0 + 2097152 * 1 + 4194304 * pri.val)) 12 = ringA from Fin.ext (by simp only [finAt, Fin.val_ofNat]; omega),
        show finAt 16 (3 + 8 * 23 + 256 * (acc.val + 16 * ringA.val + 128 * ringB.val + 1024 * k.val + 32768 * pair.val + 524288 + 1048576 * 0 + 2097152 * 1 + 4194304 * pri.val)) 8 = acc from Fin.ext (by simp only [finAt, Fin.val_ofNat]; omega),
        regAt,
        show bitAt (3 + 8 * 23 + 256 * (acc.val + 16 * ringA.val + 128 * ringB.val + 1024 * k.val + 32768 * pair.val + 524288 + 1048576 * 0 + 2097152 * 1 + 4194304 * pri.val)) 29 = true from by simp only [bitAt, beq_iff_eq, beq_eq_false_iff_ne]; omega,
        show fld (3 + 8 * 23 + 256 * (acc.val + 16 * ringA.val + 128 * ringB.val + 1024 * k.val + 32768 * pair.val + 524288 + 1048576 * 0 + 2097152 * 1 + 4194304 * pri.val)) 22 18 = k.val from by simp only [fld]; omega,
        if_true]
      show (do need (decide (k.val ≤ 28) && pair.val != 8) DecodeError.reservedOp; Except.ok (Instr.mmas pri true false pair k ringB ringA acc)) = _
      rw [hw2]
      rfl)
  | true, true =>
    exact decode_word _ _ _ _ (by
      show decodeWord (3 + 8 * 23 + 256 * (acc.val + 16 * ringA.val + 128 * ringB.val + 1024 * k.val + 32768 * pair.val + 524288 + 1048576 * 1 + 2097152 * 1 + 4194304 * pri.val)) none = .ok _
      simp only [decodeWord_23 (show fld (3 + 8 * 23 + 256 * (acc.val + 16 * ringA.val + 128 * ringB.val + 1024 * k.val + 32768 * pair.val + 524288 + 1048576 * 1 + 2097152 * 1 + 4194304 * pri.val)) 7 3 = 23 from by simp only [fld]; omega), decodeMma, noLit,
        show bitAt (3 + 8 * 23 + 256 * (acc.val + 16 * ringA.val + 128 * ringB.val + 1024 * k.val + 32768 * pair.val + 524288 + 1048576 * 1 + 2097152 * 1 + 4194304 * pri.val)) 27 = true from by simp only [bitAt, beq_iff_eq, beq_eq_false_iff_ne]; omega,
        show fld (3 + 8 * 23 + 256 * (acc.val + 16 * ringA.val + 128 * ringB.val + 1024 * k.val + 32768 * pair.val + 524288 + 1048576 * 1 + 2097152 * 1 + 4194304 * pri.val)) 26 23 = pair.val from by simp only [fld]; omega,
        finIn_val,
        show finAt 4 (3 + 8 * 23 + 256 * (acc.val + 16 * ringA.val + 128 * ringB.val + 1024 * k.val + 32768 * pair.val + 524288 + 1048576 * 1 + 2097152 * 1 + 4194304 * pri.val)) 30 = pri from Fin.ext (by simp only [finAt, Fin.val_ofNat]; omega),
        show bitAt (3 + 8 * 23 + 256 * (acc.val + 16 * ringA.val + 128 * ringB.val + 1024 * k.val + 32768 * pair.val + 524288 + 1048576 * 1 + 2097152 * 1 + 4194304 * pri.val)) 28 = true from by simp only [bitAt, beq_iff_eq, beq_eq_false_iff_ne]; omega,
        show finAt 32 (3 + 8 * 23 + 256 * (acc.val + 16 * ringA.val + 128 * ringB.val + 1024 * k.val + 32768 * pair.val + 524288 + 1048576 * 1 + 2097152 * 1 + 4194304 * pri.val)) 18 = k from Fin.ext (by simp only [finAt, Fin.val_ofNat]; omega),
        show finAt 8 (3 + 8 * 23 + 256 * (acc.val + 16 * ringA.val + 128 * ringB.val + 1024 * k.val + 32768 * pair.val + 524288 + 1048576 * 1 + 2097152 * 1 + 4194304 * pri.val)) 15 = ringB from Fin.ext (by simp only [finAt, Fin.val_ofNat]; omega),
        show finAt 8 (3 + 8 * 23 + 256 * (acc.val + 16 * ringA.val + 128 * ringB.val + 1024 * k.val + 32768 * pair.val + 524288 + 1048576 * 1 + 2097152 * 1 + 4194304 * pri.val)) 12 = ringA from Fin.ext (by simp only [finAt, Fin.val_ofNat]; omega),
        show finAt 16 (3 + 8 * 23 + 256 * (acc.val + 16 * ringA.val + 128 * ringB.val + 1024 * k.val + 32768 * pair.val + 524288 + 1048576 * 1 + 2097152 * 1 + 4194304 * pri.val)) 8 = acc from Fin.ext (by simp only [finAt, Fin.val_ofNat]; omega),
        regAt,
        show bitAt (3 + 8 * 23 + 256 * (acc.val + 16 * ringA.val + 128 * ringB.val + 1024 * k.val + 32768 * pair.val + 524288 + 1048576 * 1 + 2097152 * 1 + 4194304 * pri.val)) 29 = true from by simp only [bitAt, beq_iff_eq, beq_eq_false_iff_ne]; omega,
        show fld (3 + 8 * 23 + 256 * (acc.val + 16 * ringA.val + 128 * ringB.val + 1024 * k.val + 32768 * pair.val + 524288 + 1048576 * 1 + 2097152 * 1 + 4194304 * pri.val)) 22 18 = k.val from by simp only [fld]; omega,
        if_true]
      show (do need (decide (k.val ≤ 28) && pair.val != 8) DecodeError.reservedOp; Except.ok (Instr.mmas pri true true pair k ringB ringA acc)) = _
      rw [hw2]
      rfl)

theorem accz (acc : Fin 16) : Statement (.accz acc) := by
  intro hw _ rest
  have hacc := acc.isLt
  exact rrr_ok ⟨24, by decide⟩ ⟨0, by first | decide | omega⟩ ⟨acc.val, by first | decide | omega⟩ ⟨0, by first | decide | omega⟩ ⟨0, by first | decide | omega⟩ _ rest fun w h => by
    simp only [decodeWord_24 h.major, decodeMat, h.f17_13, h.f31_24, h.f12_8, noB, noLit, h.f23_23, h.f22_18, zero, finIn_val, ofNat_val]
    rfl

theorem accstat (d : Reg) (acc : Fin 16) : Statement (.accstat d acc) := by
  intro hw _ rest
  have hacc := acc.isLt
  exact rrr_ok ⟨24, by decide⟩ d ⟨acc.val, by first | decide | omega⟩ ⟨0, by first | decide | omega⟩ ⟨2, by first | decide | omega⟩ _ rest fun w h => by
    simp only [decodeWord_24 h.major, decodeMat, h.f17_13, h.f31_24, h.rd, noB, noLit, h.f23_23, h.f22_18, finIn_val, ofNat_val]
    rfl

theorem ringcfg (ring : Fin 8) (b : OpB) : Statement (.ringcfg ring b) := by
  intro hw _ rest
  have hring := ring.isLt
  exact rrrB_ok ⟨24, by decide⟩ ⟨0, by first | decide | omega⟩ ⟨ring.val, by first | decide | omega⟩ ⟨2, by first | decide | omega⟩ b _ rest fun w lit h => by
    simp only [decodeWord_24 h.major, decodeMat, h.f17_13, h.f31_24, h.f12_8, h.opb, zero, finIn_val, ofNat_val]
    rfl

theorem ringst (d : Reg) (ring : Fin 8) (code : Fin 2) : Statement (.ringst d ring code) := by
  intro hw _ rest
  have hring := ring.isLt
  have hcode := code.isLt
  exact rrr_ok ⟨24, by decide⟩ d ⟨ring.val, by first | decide | omega⟩ ⟨code.val, by first | decide | omega⟩ ⟨6, by first | decide | omega⟩ _ rest fun w h => by
    simp only [decodeWord_24 h.major, decodeMat, h.f17_13, h.f31_24, h.f22_18, h.rd, codeB, noLit, h.f23_23, finIn_val, ofNat_val]
    rfl

theorem rpop (ring : Fin 8) (b : OpB) : Statement (.rpop ring b) := by
  intro hw _ rest
  have hring := ring.isLt
  exact rrrB_ok ⟨24, by decide⟩ ⟨0, by first | decide | omega⟩ ⟨ring.val, by first | decide | omega⟩ ⟨4, by first | decide | omega⟩ b _ rest fun w lit h => by
    simp only [decodeWord_24 h.major, decodeMat, h.f17_13, h.f31_24, h.f12_8, h.opb, zero, finIn_val, ofNat_val]
    rfl

theorem mqpri (d : Reg) (acc : Fin 16) (b : OpB) : Statement (.mqpri d acc b) := by
  intro hw _ rest
  have hacc := acc.isLt
  exact rrrB_ok ⟨24, by decide⟩ d ⟨acc.val, by first | decide | omega⟩ ⟨5, by first | decide | omega⟩ b _ rest fun w lit h => by
    simp only [decodeWord_24 h.major, decodeMat, h.f17_13, h.f31_24, h.rd, h.opb, finIn_val, ofNat_val]
    rfl

theorem mqdrain (d : Reg) (acc : Fin 16) (code : Fin 4) : Statement (.mqdrain d acc code) := by
  intro hw _ rest
  have hacc := acc.isLt
  have hcode := code.isLt
  exact rrr_ok ⟨24, by decide⟩ d ⟨acc.val, by first | decide | omega⟩ ⟨code.val, by first | decide | omega⟩ ⟨12, by first | decide | omega⟩ _ rest fun w h => by
    have hw2 : (decide (code.val < 2) || acc.val == 0) = true := hw
    simp only [decodeWord_24 h.major, decodeMat, h.f17_13, h.f31_24, h.f22_18, h.rd, codeB, noLit, h.f23_23, finIn_val, ofNat_val]
    show (do need (decide (code.val < 2) || acc.val == 0) DecodeError.nonZeroField; Except.ok (Instr.mqdrain d acc code)) = _
    rw [hw2]
    rfl

theorem cpset (sh : Fin 17) (b : OpB) : Statement (.cpset sh b) := by
  intro hw _ rest
  have hsh := sh.isLt
  exact rrrB_ok ⟨25, by decide⟩ ⟨0, by first | decide | omega⟩ ⟨sh.val, by first | decide | omega⟩ ⟨0, by first | decide | omega⟩ b _ rest fun w lit h => by
    simp only [decodeWord_25 h.major, decodeCopy, h.f31_24, h.f12_8, h.f17_13, h.opb, zero, finIn_val, ofNat_val]
    rfl

theorem cpget (d : Reg) (sh : Fin 22) : Statement (.cpget d sh) := by
  intro hw _ rest
  have hsh := sh.isLt
  exact rrr_ok ⟨25, by decide⟩ d ⟨sh.val, by first | decide | omega⟩ ⟨0, by first | decide | omega⟩ ⟨2, by first | decide | omega⟩ _ rest fun w h => by
    simp only [decodeWord_25 h.major, decodeCopy, h.f31_24, h.f17_13, h.rd, noB, noLit, h.f23_23, h.f22_18, finIn_val, ofNat_val]
    rfl

theorem cpgo (d : Reg) (b : OpB) : Statement (.cpgo d b) := by
  intro hw _ rest
  exact rrrB_ok ⟨25, by decide⟩ d ⟨0, by first | decide | omega⟩ ⟨2, by first | decide | omega⟩ b _ rest fun w lit h => by
    simp only [decodeWord_25 h.major, decodeCopy, h.f31_24, h.f17_13, h.rd, h.opb, zero, ofNat_val]
    rfl

theorem cpfol (b : OpB) : Statement (.cpfol b) := by
  intro hw _ rest
  exact rrrB_ok ⟨25, by decide⟩ ⟨0, by first | decide | omega⟩ ⟨0, by first | decide | omega⟩ ⟨3, by first | decide | omega⟩ b _ rest fun w lit h => by
    simp only [decodeWord_25 h.major, decodeCopy, h.f31_24, h.f17_8, h.opb, zero, ofNat_val]
    rfl

theorem wtagAll (d : Reg) (b : OpB) : Statement (.wtagAll d b) := by
  intro hw _ rest
  exact rrrB_ok ⟨25, by decide⟩ d ⟨0, by first | decide | omega⟩ ⟨4, by first | decide | omega⟩ b _ rest fun w lit h => by
    simp only [decodeWord_25 h.major, decodeCopy, h.f31_24, h.f17_13, h.rd, h.opb, zero, ofNat_val]
    rfl

theorem wtagAny (d : Reg) (b : OpB) : Statement (.wtagAny d b) := by
  intro hw _ rest
  exact rrrB_ok ⟨25, by decide⟩ d ⟨0, by first | decide | omega⟩ ⟨5, by first | decide | omega⟩ b _ rest fun w lit h => by
    simp only [decodeWord_25 h.major, decodeCopy, h.f31_24, h.f17_13, h.rd, h.opb, zero, ofNat_val]
    rfl

theorem ffr (d : Reg) (b : OpB) : Statement (.ffr d b) := by
  intro hw _ rest
  exact rrrB_ok ⟨25, by decide⟩ d ⟨0, by first | decide | omega⟩ ⟨6, by first | decide | omega⟩ b _ rest fun w lit h => by
    simp only [decodeWord_25 h.major, decodeCopy, h.f31_24, h.f17_13, h.rd, h.opb, zero, ofNat_val]
    rfl

theorem tagst (d : Reg) (b : OpB) : Statement (.tagst d b) := by
  intro hw _ rest
  exact rrrB_ok ⟨25, by decide⟩ d ⟨0, by first | decide | omega⟩ ⟨7, by first | decide | omega⟩ b _ rest fun w lit h => by
    simp only [decodeWord_25 h.major, decodeCopy, h.f31_24, h.f17_13, h.rd, h.opb, zero, ofNat_val]
    rfl

theorem cpcan (d a : Reg) : Statement (.cpcan d a) := by
  intro hw _ rest
  exact rrr_ok ⟨25, by decide⟩ d a ⟨0, by first | decide | omega⟩ ⟨16, by first | decide | omega⟩ _ rest fun w h => by
    simp only [decodeWord_25 h.major, decodeCopy, h.f31_24, h.rd, h.ra, noB, noLit, h.f23_23, h.f22_18, ofNat_val]
    rfl

theorem gdecl (g : Fin 4) (a : Reg) : Statement (.gdecl g a) := by
  intro hw _ rest
  have hg := g.isLt
  exact rrr_ok ⟨26, by decide⟩ ⟨g.val, by first | decide | omega⟩ a ⟨0, by first | decide | omega⟩ ⟨0, by first | decide | omega⟩ _ rest fun w h => by
    simp only [decodeWord_26 h.major, decodeGrid, h.f12_8, h.f31_24, h.ra, noB, noLit, h.f23_23, h.f22_18, finIn_val, ofNat_val]
    rfl

theorem gldW (d a : Reg) (b : OpB) : Statement (.gldW d a b) := by
  intro hw _ rest
  exact rrrB_ok ⟨26, by decide⟩ d a ⟨1, by first | decide | omega⟩ b _ rest fun w lit h => by
    simp only [decodeWord_26 h.major, decodeGrid, h.f12_8, h.f31_24, h.rd, h.ra, h.opb, finIn_val, ofNat_val]
    rfl

theorem gldF (d a : Reg) (b : OpB) : Statement (.gldF d a b) := by
  intro hw _ rest
  exact rrrB_ok ⟨26, by decide⟩ d a ⟨2, by first | decide | omega⟩ b _ rest fun w lit h => by
    simp only [decodeWord_26 h.major, decodeGrid, h.f12_8, h.f31_24, h.rd, h.ra, h.opb, finIn_val, ofNat_val]
    rfl

theorem gst (s a : Reg) : Statement (.gst s a) := by
  intro hw _ rest
  exact rrr_ok ⟨26, by decide⟩ s a ⟨0, by first | decide | omega⟩ ⟨6, by first | decide | omega⟩ _ rest fun w h => by
    simp only [decodeWord_26 h.major, decodeGrid, h.f12_8, h.f31_24, h.rd, h.ra, noB, noLit, h.f23_23, h.f22_18, finIn_val, ofNat_val]
    rfl

theorem hstep (g : Fin 4) (b : OpB) : Statement (.hstep g b) := by
  intro hw _ rest
  have hg := g.isLt
  exact rrrB_ok ⟨26, by decide⟩ ⟨g.val, by first | decide | omega⟩ ⟨0, by first | decide | omega⟩ ⟨4, by first | decide | omega⟩ b _ rest fun w lit h => by
    simp only [decodeWord_26 h.major, decodeGrid, h.f12_8, h.f31_24, h.f17_13, h.opb, zero, finIn_val, ofNat_val]
    rfl

theorem hrel (g : Fin 4) (b : OpB) : Statement (.hrel g b) := by
  intro hw _ rest
  have hg := g.isLt
  exact rrrB_ok ⟨26, by decide⟩ ⟨g.val, by first | decide | omega⟩ ⟨0, by first | decide | omega⟩ ⟨5, by first | decide | omega⟩ b _ rest fun w lit h => by
    simp only [decodeWord_26 h.major, decodeGrid, h.f12_8, h.f31_24, h.f17_13, h.opb, zero, finIn_val, ofNat_val]
    rfl

theorem hwait (g : Fin 4) (b : OpB) : Statement (.hwait g b) := by
  intro hw _ rest
  have hg := g.isLt
  exact rrrB_ok ⟨26, by decide⟩ ⟨g.val, by first | decide | omega⟩ ⟨0, by first | decide | omega⟩ ⟨6, by first | decide | omega⟩ b _ rest fun w lit h => by
    simp only [decodeWord_26 h.major, decodeGrid, h.f12_8, h.f31_24, h.f17_13, h.opb, zero, finIn_val, ofNat_val]
    rfl

theorem gqry (d : Reg) (g : Fin 4) (code : Fin 10) : Statement (.gqry d g code) := by
  intro hw _ rest
  have hg := g.isLt
  have hcode := code.isLt
  exact rrr_ok ⟨26, by decide⟩ d ⟨g.val, by first | decide | omega⟩ ⟨code.val, by first | decide | omega⟩ ⟨14, by first | decide | omega⟩ _ rest fun w h => by
    simp only [decodeWord_26 h.major, decodeGrid, h.f12_8, h.f31_24, h.f17_13, h.f22_18, h.rd, codeB, noLit, h.f23_23, finIn_val, ofNat_val]
    rfl

theorem ggather (d a : Reg) (g : Fin 4) : Statement (.ggather d a g) := by
  intro hw _ rest
  have hg := g.isLt
  exact rrr_ok ⟨26, by decide⟩ d a ⟨g.val, by first | decide | omega⟩ ⟨16, by first | decide | omega⟩ _ rest fun w h => by
    simp only [decodeWord_26 h.major, decodeGrid, h.f12_8, h.f31_24, h.f22_20, h.rd, h.ra, h.g, codeB, noLit, h.f23_23, zero, finIn_val, ofNat_val, show g.val / 4 = 0 from by omega, show Fin.ofNat 4 g.val = g from Fin.ext (by simp only [Fin.val_ofNat]; omega)]
    rfl

theorem gscat (op : Fin 4) (wa ws : Reg) (g : Fin 4) : Statement (.gscat op wa ws g) := by
  intro hw _ rest
  have hop := op.isLt
  have hg := g.isLt
  exact rrr_ok ⟨26, by decide⟩ wa ws ⟨g.val + 4 * op.val, by first | decide | omega⟩ ⟨18, by first | decide | omega⟩ _ rest fun w h => by
    simp only [decodeWord_26 h.major, decodeGrid, h.f12_8, h.f31_24, h.f22_20, h.rd, h.ra, h.g, codeB, noLit, h.f23_23, finIn_val, ofNat_val, show (g.val + 4 * op.val) / 4 = op.val from by omega, show Fin.ofNat 4 (g.val + 4 * op.val) = g from Fin.ext (by simp only [Fin.val_ofNat]; omega)]
    rfl

theorem kdetach : Statement .kdetach := by
  intro hw _ rest
  exact rrr_ok ⟨27, by decide⟩ ⟨0, by first | decide | omega⟩ ⟨0, by first | decide | omega⟩ ⟨0, by first | decide | omega⟩ ⟨0, by first | decide | omega⟩ _ rest fun w h => by
    simp only [decodeWord_27 h.major, decodeNet, h.f31_24, h.f17_8, noB, noLit, h.f23_23, h.f22_18, zero, ofNat_val]
    rfl

theorem kstat (d : Reg) (code : Fin 6) : Statement (.kstat d code) := by
  intro hw _ rest
  have hcode := code.isLt
  exact rrr_ok ⟨27, by decide⟩ d ⟨0, by first | decide | omega⟩ ⟨code.val, by first | decide | omega⟩ ⟨2, by first | decide | omega⟩ _ rest fun w h => by
    simp only [decodeWord_27 h.major, decodeNet, h.f31_24, h.f17_13, h.f22_18, h.rd, codeB, noLit, h.f23_23, zero, finIn_val, ofNat_val]
    rfl

theorem nred (op typ : Fin 3) (a : Reg) (b : OpB) : Statement (.nred op typ a b) := by
  intro hw _ rest
  have hop := op.isLt
  have htyp := typ.isLt
  exact rrrB_ok ⟨27, by decide⟩ ⟨2 * typ.val + 8 * op.val, by first | decide | omega⟩ a ⟨2, by first | decide | omega⟩ b _ rest fun w lit h => by
    simp only [decodeWord_27 h.major, decodeNet, h.f31_24, h.f8_8, h.f12_11, h.f10_9, h.ra, h.opb, zero, finIn_val, ofNat_val, show (2 * typ.val + 8 * op.val) / 8 = op.val from by omega, show (2 * typ.val + 8 * op.val) / 2 % 4 = typ.val from by omega, show (2 * typ.val + 8 * op.val) % 2 = 0 from by omega]
    rfl

theorem nredNd (op typ : Fin 3) (a : Reg) (b : OpB) : Statement (.nredNd op typ a b) := by
  intro hw _ rest
  have hop := op.isLt
  have htyp := typ.isLt
  exact rrrB_ok ⟨27, by decide⟩ ⟨2 * typ.val + 8 * op.val, by first | decide | omega⟩ a ⟨3, by first | decide | omega⟩ b _ rest fun w lit h => by
    simp only [decodeWord_27 h.major, decodeNet, h.f31_24, h.f8_8, h.f12_11, h.f10_9, h.ra, h.opb, zero, finIn_val, ofNat_val, show (2 * typ.val + 8 * op.val) / 8 = op.val from by omega, show (2 * typ.val + 8 * op.val) / 2 % 4 = typ.val from by omega, show (2 * typ.val + 8 * op.val) % 2 = 0 from by omega]
    rfl

theorem nstat (d : Reg) (code : Fin 4) : Statement (.nstat d code) := by
  intro hw _ rest
  have hcode := code.isLt
  exact rrr_ok ⟨27, by decide⟩ d ⟨0, by first | decide | omega⟩ ⟨code.val, by first | decide | omega⟩ ⟨8, by first | decide | omega⟩ _ rest fun w h => by
    simp only [decodeWord_27 h.major, decodeNet, h.f31_24, h.f17_13, h.f22_18, h.rd, codeB, noLit, h.f23_23, zero, finIn_val, ofNat_val]
    rfl

theorem reservedEncoding (bits : Nat) : Statement (.reservedEncoding bits) := by
  intro _ h
  exact absurd rfl h

theorem handlerEntry (c : CtxId) : Statement (.handlerEntry c) := by
  intro _ h
  exact absurd rfl h

theorem watchdogExpiry (c : CtxId) : Statement (.watchdogExpiry c) := by
  intro _ h
  exact absurd rfl h

theorem breakpointHalt (c : CtxId) : Statement (.breakpointHalt c) := by
  intro _ h
  exact absurd rfl h

theorem registrationMove (cell idx : Nat) : Statement (.registrationMove cell idx) := by
  intro _ h
  exact absurd rfl h

theorem gatewayQueueDelivery (q : GwId) (peer : Option PeerEntry) : Statement (.gatewayQueueDelivery q peer) := by
  intro _ h
  exact absurd rfl h

theorem loadValueReturn (c : CtxId) (idx : Nat) : Statement (.loadValueReturn c idx) := by
  intro _ h
  exact absurd rfl h

theorem releasePerformed (c : CtxId) : Statement (.releasePerformed c) := by
  intro _ h
  exact absurd rfl h

theorem atomicAtHome (c : CtxId) : Statement (.atomicAtHome c) := by
  intro _ h
  exact absurd rfl h

theorem translationWalk (cluster asid : Nat) (va : Word) (kind : Fin 4) : Statement (.translationWalk cluster asid va kind) := by
  intro _ h
  exact absurd rfl h

theorem tlbInvalidationDone : Statement .tlbInvalidationDone := by
  intro _ h
  exact absurd rfl h

theorem bankModeMove (cluster : Nat) (bank : Fin 16) : Statement (.bankModeMove cluster bank) := by
  intro _ h
  exact absurd rfl h

theorem vectorRowFill (c : CtxId) (w : Reg) : Statement (.vectorRowFill c w) := by
  intro _ h
  exact absurd rfl h

theorem messageArrival (src : MsgSrc) : Statement (.messageArrival src) := by
  intro _ h
  exact absurd rfl h

theorem refusedMessageRetry (cell idx : Nat) : Statement (.refusedMessageRetry cell idx) := by
  intro _ h
  exact absurd rfl h

theorem noticeArrival (src : NoticeSrc) : Statement (.noticeArrival src) := by
  intro _ h
  exact absurd rfl h

theorem strandArrival (src : MsgSrc) : Statement (.strandArrival src) := by
  intro _ h
  exact absurd rfl h

theorem strandResumption (c : CtxId) : Statement (.strandResumption c) := by
  intro _ h
  exact absurd rfl h

theorem sectionCommitComplete (c : CtxId) : Statement (.sectionCommitComplete c) := by
  intro _ h
  exact absurd rfl h

theorem machineCheck (c : CtxId) : Statement (.machineCheck c) := by
  intro _ h
  exact absurd rfl h

theorem spawnCountRequest (idx : Nat) (peer : Option PeerSpawn) : Statement (.spawnCountRequest idx peer) := by
  intro _ h
  exact absurd rfl h

theorem spawnCountAnswer (c : CtxId) : Statement (.spawnCountAnswer c) := by
  intro _ h
  exact absurd rfl h

theorem spawnDecrementArrival (idx : Nat) (peer : Option (BitVec 40)) : Statement (.spawnDecrementArrival idx peer) := by
  intro _ h
  exact absurd rfl h

theorem barrierArrival (idx : Nat) (peer : Option PeerBarr) : Statement (.barrierArrival idx peer) := by
  intro _ h
  exact absurd rfl h

theorem emeOperationStart (cluster idx : Nat) : Statement (.emeOperationStart cluster idx) := by
  intro _ h
  exact absurd rfl h

theorem emeKStep (cluster : Nat) : Statement (.emeKStep cluster) := by
  intro _ h
  exact absurd rfl h

theorem acczRun (cluster idx : Nat) : Statement (.acczRun cluster idx) := by
  intro _ h
  exact absurd rfl h

theorem rpopRetire (cluster idx : Nat) : Statement (.rpopRetire cluster idx) := by
  intro _ h
  exact absurd rfl h

theorem copyChunk (cluster idx : Nat) : Statement (.copyChunk cluster idx) := by
  intro _ h
  exact absurd rfl h

theorem ringTilePush (cluster idx : Nat) : Statement (.ringTilePush cluster idx) := by
  intro _ h
  exact absurd rfl h

theorem demandSliceFetch (cluster idx : Nat) : Statement (.demandSliceFetch cluster idx) := by
  intro _ h
  exact absurd rfl h

theorem copyTransferCompletion (cluster idx : Nat) : Statement (.copyTransferCompletion cluster idx) := by
  intro _ h
  exact absurd rfl h

theorem haloStripArrival (cluster : Nat) (src : StripSrc) : Statement (.haloStripArrival cluster src) := by
  intro _ h
  exact absurd rfl h

theorem haloStripRetry (cluster idx : Nat) : Statement (.haloStripRetry cluster idx) := by
  intro _ h
  exact absurd rfl h

theorem gridActiveMessage (cluster : Nat) (src : LaneSrc) : Statement (.gridActiveMessage cluster src) := by
  intro _ h
  exact absurd rfl h

theorem gatherLaneReturn (c : CtxId) (lane : Nat) : Statement (.gatherLaneReturn c lane) := by
  intro _ h
  exact absurd rfl h

theorem queueTailObservation (q : Fin 64) : Statement (.queueTailObservation q) := by
  intro _ h
  exact absurd rfl h

theorem launchSelection : Statement .launchSelection := by
  intro _ h
  exact absurd rfl h

theorem launchRequestAppend (idx : Nat) : Statement (.launchRequestAppend idx) := by
  intro _ h
  exact absurd rfl h

theorem groupPlacement (lslot : Nat) (die : Fin 4) (choices : List PlaceChoice) : Statement (.groupPlacement lslot die choices) := by
  intro _ h
  exact absurd rfl h

theorem gangReserve (req : GangRequest) : Statement (.gangReserve req) := by
  intro _ h
  exact absurd rfl h

theorem gangReserveAnswer (lslot member : Nat) (answer : GangAnswer) : Statement (.gangReserveAnswer lslot member answer) := by
  intro _ h
  exact absurd rfl h

theorem gangCommit (lslot : Nat) (slots : List Nat) (choices : List PlaceChoice) : Statement (.gangCommit lslot slots choices) := by
  intro _ h
  exact absurd rfl h

theorem gangAbandon (lslot : Nat) : Statement (.gangAbandon lslot) := by
  intro _ h
  exact absurd rfl h

theorem contextEviction (src : EvictSrc) : Statement (.contextEviction src) := by
  intro _ h
  exact absurd rfl h

theorem evictionSharedSave (lslot : Nat) (stopped : List Nat) : Statement (.evictionSharedSave lslot stopped) := by
  intro _ h
  exact absurd rfl h

theorem rePlacement (lslot : Nat) (die : Fin 4) (choices : List PlaceChoice) : Statement (.rePlacement lslot die choices) := by
  intro _ h
  exact absurd rfl h

theorem groupRetirement (lslot group : Nat) (detached : List Nat) (reports : List MemberReport) : Statement (.groupRetirement lslot group detached reports) := by
  intro _ h
  exact absurd rfl h

theorem faultRecordDelivery (idx : Nat) : Statement (.faultRecordDelivery idx) := by
  intro _ h
  exact absurd rfl h

theorem breakpointBroadcastDone : Statement .breakpointBroadcastDone := by
  intro _ h
  exact absurd rfl h

theorem timingDumpDone (die : Fin 4) : Statement (.timingDumpDone die) := by
  intro _ h
  exact absurd rfl h

theorem flitReceive (port : Fin 30) (unit : WireUnit) (note : FlitNote) : Statement (.flitReceive port unit note) := by
  intro _ h
  exact absurd rfl h

theorem lendPeriod (port : Fin 30) : Statement (.lendPeriod port) := by
  intro _ h
  exact absurd rfl h

theorem lendReceived (port : Fin 30) (seq : Nat) (limits : List Nat) : Statement (.lendReceived port seq limits) := by
  intro _ h
  exact absurd rfl h

theorem lendAckReceived (port : Fin 30) (seq : Nat) : Statement (.lendAckReceived port seq) := by
  intro _ h
  exact absurd rfl h

theorem creditReturn (port : Fin 30) (channel : Fin 6) (cls : Fin 4) : Statement (.creditReturn port channel cls) := by
  intro _ h
  exact absurd rfl h

theorem keySwitch (port : Fin 30) : Statement (.keySwitch port) := by
  intro _ h
  exact absurd rfl h

theorem linkKeyInstall (port : Fin 30) (sending : Bool) (key : BitVec 256) (salt : BitVec 48) : Statement (.linkKeyInstall port sending key salt) := by
  intro _ h
  exact absurd rfl h

theorem capabilityRelay (module : Nat) (vec : Word32) : Statement (.capabilityRelay module vec) := by
  intro _ h
  exact absurd rfl h

theorem keystoneRequestServe (q : GwId) (peer : Option PeerEntry) : Statement (.keystoneRequestServe q peer) := by
  intro _ h
  exact absurd rfl h

theorem windowCollapse (lslot departed : Nat) (cause : Fin 4) : Statement (.windowCollapse lslot departed cause) := by
  intro _ h
  exact absurd rfl h

theorem nredContributionArrival (idx : Nat) (peer : Option Contribution) (plan : List (Nat × Nat)) : Statement (.nredContributionArrival idx peer plan) := by
  intro _ h
  exact absurd rfl h

theorem ethernetRdmaWrite (pa : Nat) (bytes : List Byte) (core : Option (Fin 4)) : Statement (.ethernetRdmaWrite pa bytes core) := by
  intro _ h
  exact absurd rfl h

theorem checkpointStream (cluster : Nat) (pa : Nat) (port : Fin 2) : Statement (.checkpointStream cluster pa port) := by
  intro _ h
  exact absurd rfl h

theorem powerOn : Statement .powerOn := by
  intro _ h
  exact absurd rfl h

theorem bringupStep (outcomes : List (Nat × Bool × Word32)) (sync : Option Word) : Statement (.bringupStep outcomes sync) := by
  intro _ h
  exact absurd rfl h

theorem runtimeMarkOut (unit : OutUnit) (detail : Word32) : Statement (.runtimeMarkOut unit detail) := by
  intro _ h
  exact absurd rfl h

theorem journalErase : Statement .journalErase := by
  intro _ h
  exact absurd rfl h

theorem attestationQuote (nonce : BitVec 256) (pa : Nat) : Statement (.attestationQuote nonce pa) := by
  intro _ h
  exact absurd rfl h

theorem throttleStep (die : Fin 5) (watts : Nat) (hot : Bool) : Statement (.throttleStep die watts hot) := by
  intro _ h
  exact absurd rfl h

theorem csmodeWrite (cluster : Nat) (value : Word32) : Statement (.csmodeWrite cluster value) := by
  intro _ h
  exact absurd rfl h

theorem trespRetry (core die : Fin 4) (token : Nat) : Statement (.trespRetry core die token) := by
  intro _ h
  exact absurd rfl h

theorem trespFatal (core die : Fin 4) (token : Nat) : Statement (.trespFatal core die token) := by
  intro _ h
  exact absurd rfl h

theorem hbmCounterClear (die : Fin 4) : Statement (.hbmCounterClear die) := by
  intro _ h
  exact absurd rfl h

theorem tlbinvAll : Statement .tlbinvAll := by
  intro _ h
  exact absurd rfl h

theorem tlbinvAsid (asid : Nat) : Statement (.tlbinvAsid asid) := by
  intro _ h
  exact absurd rfl h

theorem tlbinvPage (asid : Nat) : Statement (.tlbinvPage asid) := by
  intro _ h
  exact absurd rfl h

theorem actctlResume (core die : Fin 4) (cellInDie : Fin 512) (strand : Bool) : Statement (.actctlResume core die cellInDie strand) := by
  intro _ h
  exact absurd rfl h

theorem actctlSkip (core die : Fin 4) (cellInDie : Fin 512) (strand : Bool) : Statement (.actctlSkip core die cellInDie strand) := by
  intro _ h
  exact absurd rfl h

theorem actctlEnd (core die : Fin 4) (cellInDie : Fin 512) (strand : Bool) : Statement (.actctlEnd core die cellInDie strand) := by
  intro _ h
  exact absurd rfl h

theorem notectl (core die : Fin 4) (cellInDie : Fin 512) : Statement (.notectl core die cellInDie) := by
  intro _ h
  exact absurd rfl h

theorem heldNoticeSend (idx : Nat) : Statement (.heldNoticeSend idx) := by
  intro _ h
  exact absurd rfl h

theorem cpctlReplay (core die : Fin 4) : Statement (.cpctlReplay core die) := by
  intro _ h
  exact absurd rfl h

theorem cpctlComplete (core die : Fin 4) (code : Byte) : Statement (.cpctlComplete core die code) := by
  intro _ h
  exact absurd rfl h

theorem lcancel (core : Fin 4) (asid lslot : Nat) : Statement (.lcancel core asid lslot) := by
  intro _ h
  exact absurd rfl h

theorem bpctlWrite (n : Fin 8) (value : Word) : Statement (.bpctlWrite n value) := by
  intro _ h
  exact absurd rfl h

theorem dbgctlResume (core die : Fin 4) (cellInDie : Fin 512) (strand : Bool) : Statement (.dbgctlResume core die cellInDie strand) := by
  intro _ h
  exact absurd rfl h

theorem dbgctlStep (core die : Fin 4) (cellInDie : Fin 512) (strand : Bool) : Statement (.dbgctlStep core die cellInDie strand) := by
  intro _ h
  exact absurd rfl h

theorem dbgctlHaltRequest (core die : Fin 4) (cellInDie : Fin 512) (strand : Bool) : Statement (.dbgctlHaltRequest core die cellInDie strand) := by
  intro _ h
  exact absurd rfl h

theorem dbgctlAbort (core die : Fin 4) (cellInDie : Fin 512) (strand : Bool) : Statement (.dbgctlAbort core die cellInDie strand) := by
  intro _ h
  exact absurd rfl h

theorem ttdump (die : Fin 4) (cellInDie : Fin 512) (clear : Bool) : Statement (.ttdump die cellInDie clear) := by
  intro _ h
  exact absurd rfl h

theorem registerWrite (unit : RegUnit) (offset : Nat) (value : Word) : Statement (.registerWrite unit offset value) := by
  intro _ h
  exact absurd rfl h

theorem powerOff (badCrc : Bool) : Statement (.powerOff badCrc) := by
  intro _ h
  exact absurd rfl h

theorem ryoftLinkLoss (port : Fin 30) : Statement (.ryoftLinkLoss port) := by
  intro _ h
  exact absurd rfl h

theorem uncorrectableMemoryError (die : Fin 5) (controller : Byte) (asid : Nat) (who : ErrorAt) : Statement (.uncorrectableMemoryError die controller asid who) := by
  intro _ h
  exact absurd rfl h

end Sys2Proof.Laws.RoundTrip
end

