-- ==== Sys2Proof/Laws/Route.lean ====
section
/-! SUPPORT. What sending on a link can change: one lemma per operation of Route.lean, which later proofs cite in its place. -/

namespace Sys2Proof.Machine

/-- `t` is `s` but for the links: the ports, what the hub has sent and numbered, and the free-value counter. -/
def LinksOnly (s t : State) : Prop :=
  ∃ (n : Nat) (ports : Vector Port 30) (out : List (Nat × CtlMsg)) (seqs : Tbl Nat) (waiting : List RyPacket) (slots : List Nat),
    t = { s with freeCtr := n, hub := { s.hub with ports := ports, ctlOut := out, sendSeq := seqs, noRoute := waiting,
                                                   replySlots := slots } }

theorem LinksOnly.refl (s : State) : LinksOnly s s := ⟨_, _, _, _, _, _, rfl⟩

theorem LinksOnly.trans {s t u : State} (h : LinksOnly s t) (k : LinksOnly t u) : LinksOnly s u := by
  obtain ⟨_, _, _, _, _, _, rfl⟩ := h
  obtain ⟨_, _, _, _, _, _, rfl⟩ := k
  exact ⟨_, _, _, _, _, _, rfl⟩

/-- Sending changes no memory, no context, no cell, cluster or die. -/
theorem LinksOnly.keeps {s t : State} (h : LinksOnly s t) :
    t.mem = s.mem ∧ t.ctxs = s.ctxs ∧ t.cells = s.cells ∧ t.clusters = s.clusters ∧ t.dies = s.dies ∧ t.gwq = s.gwq := by
  obtain ⟨_, _, _, _, _, _, rfl⟩ := h
  exact ⟨rfl, rfl, rfl, rfl, rfl, rfl⟩

/-- Nor what the hub holds beside its links. -/
theorem LinksOnly.keepsHub {s t : State} (h : LinksOnly s t) :
    t.hub.launches = s.hub.launches ∧ t.hub.bootJournal = s.hub.bootJournal ∧ t.hub.beacon = s.hub.beacon ∧
    t.hub.bootStep = s.hub.bootStep ∧ t.hub.caps = s.hub.caps ∧ t.hub.outClusters = s.hub.outClusters ∧
    t.hub.outPorts = s.hub.outPorts ∧ t.hub.outEther = s.hub.outEther := by
  obtain ⟨_, _, _, _, _, _, rfl⟩ := h
  exact ⟨rfl, rfl, rfl, rfl, rfl, rfl, rfl, rfl⟩

theorem LinksOnly.foldl {α : Type} {f : State → α → State} (h : ∀ s a, LinksOnly s (f s a)) :
    ∀ (l : List α) (s : State), LinksOnly s (l.foldl f s)
  | [], s => .refl s
  | a :: l, s => (h s a).trans (LinksOnly.foldl h l (f s a))

theorem modPort_links (s : State) (p : Nat) (f : Port → Port) : LinksOnly s (modPort s p f) := ⟨_, _, _, _, _, _, rfl⟩

theorem bumpFree_links (s : State) : LinksOnly s (bumpFree s) := ⟨_, _, _, _, _, _, rfl⟩

theorem freeInput_links (s : State) (src : Option Nat) (p : RyPacket) : LinksOnly s (freeInput s src p) := by
  cases src with
  | none => exact .refl s
  | some q => exact (modPort_links s q _).trans (bumpFree_links _)

theorem pumpPort_links (port : Nat) : ∀ (n : Nat) (s : State), LinksOnly s (pumpPort s port n)
  | 0, s => .refl s
  | n + 1, s => by
    unfold pumpPort
    dsimp only
    split
    · exact .refl s
    · split
      · exact .refl s
      · split
        · exact .refl s
        · exact ((modPort_links s port _).trans (freeInput_links _ _ _)).trans (pumpPort_links port n _)

theorem pump_links (s : State) (port : Nat) : LinksOnly s (pump s port) := pumpPort_links port _ s

theorem startPacket_links (s : State) (p : RyPacket) : LinksOnly s (startPacket s p) := by
  unfold startPacket
  split
  · exact ⟨_, _, _, _, _, _, rfl⟩
  · split
    · exact .refl s
    · exact (modPort_links s _ _).trans (pump_links _ _)

/-- Injecting a packet changes the links alone. -/
theorem inject_links (s : State) (dst : Nat) (channel : Fin 6) : LinksOnly s (inject s dst channel) := by
  unfold inject
  split
  · exact .refl s
  · exact LinksOnly.trans ⟨_, _, _, _, _, _, rfl⟩ (startPacket_links _ _)

/-- So does a word on the control channel. -/
theorem sendCtl_links (s : State) (m : Nat) (w : CtlMsg) : LinksOnly s (sendCtl s m w) := by
  unfold sendCtl
  split
  · exact .refl s
  · exact LinksOnly.trans ⟨_, _, _, _, _, _, rfl⟩ (inject_links _ _ _)

theorem tellModules_links (s : State) (ms : List Nat) (w : CtlMsg) : LinksOnly s (tellModules s ms w) :=
  LinksOnly.foldl (fun s m => sendCtl_links s m w) ms s

/-- Packets that had no route try again: the links alone change. -/
theorem retryRoutes_links (s : State) : LinksOnly s (retryRoutes s) :=
  LinksOnly.trans ⟨_, _, _, _, _, _, rfl⟩ (LinksOnly.foldl startPacket_links _ _)

end Sys2Proof.Machine
end

