-- ==== Sys2Proof/Safety.lean ====
section
/-! DEFINITION. What counts as a safe step and a safe run: the machine neither stops with a fault nor lacks a meaning. -/

namespace Sys2Proof.Safety

open Sys2Proof.Machine

/-- A step that gives a next state. -/
def goesOn (s : State) : Prop := ∃ t, step s = .next t

/-- n steps, each giving a next state. -/
def safeFor : Nat → State → Prop
  | 0, _ => True
  | n + 1, s => ∃ t, step s = .next t ∧ safeFor n t

/-- Memory in its canonical form. -/
def MemOk (s : State) : Prop := Memory.wf s.mem

end Sys2Proof.Safety
end

