-- ==== Sys2Proof/Tests/Slice0.lean ====
section
/-! SUPPORT. The model's own tests. -/

namespace Sys2Proof.Tests

open Sys2Proof.Machine Sys2Proof.Claims

set_option Elab.async false

/-- The actor of the tests: cell 5, in cluster 1. -/
def who : CtxId := { cell := 5, slot := 1 }

/-- Its context: running at 0x1000, 4 KiB of frame and 32 KiB of scratch granted. -/
def ctx0 : Ctx :=
  { Ctx.free with state := .running, pc := 0x1000, wdog := 1000, wdogBudget := 1000, spawnlim := 4,
                  grants := { Grants.none with frameOff := 0x80000, frameSize := 0x1000, scratchOff := 0x1000, scratchSize := 0x8000 } }

/-- The machine after reset with that context, its cluster's banks all SCRATCH. -/
def st (f : Ctx → Ctx) : State :=
  modCluster (setCtx { State.reset with cur := who } who (f ctx0)) 1 fun k => { k with modes := 0x55555555 }

def setX (x : Ctx) (r : Reg) (v : Word) : Ctx := { x with regs := { x.regs with x := x.regs.x.set r.val v r.isLt } }
def setF (x : Ctx) (r : Reg) (v : Word) : Ctx := { x with regs := { x.regs with f := x.regs.f.set r.val v r.isLt } }

/-- What a step's next state holds, if there is one. -/
def after {α : Type} (o : Host.Outcome State Fault Refusal) (f : State → α) : Option α :=
  match o with
  | .next s => some (f s)
  | _ => none

def xs (r : Reg) (s : State) : Word := (getCtx s who).regs.x[r]

/-- A fact that is there can be named. -/
theorem isSome_ex {α : Type} {o : Option α} (h : o.isSome = true) : ∃ a, o = some a := Option.isSome_iff_exists.mp h

/-- What is said of every value of an option, if it has none, or one. -/
theorem of_none {α : Type} {o : Option α} {P : α → Prop} (h : o = none) : ∀ a, o = some a → P a := fun _ e => by rw [h] at e; cases e
theorem of_some {α : Type} {o : Option α} {P : α → Prop} {b : α} (h : o = some b) (p : P b) : ∀ a, o = some a → P a :=
  fun _ e => by rw [h] at e; cases e; exact p

/-- The code page of the tests: VA and PA from 0 on, every permission. -/
def page : TlbEntry := { asid := 0, vpn := 0, block := false, pte := 0x3F }

/-- The state `st f` with the page in the cluster's TLB and, in the cell's instruction view, two blocks of NOPs at 0x1000. -/
def stCode (f : Ctx → Ctx) : State :=
  modCell (modCluster (st f) 1 fun k => { k with tlbPages := [page] }) 5 fun k =>
    { k with iview := (upFrom 0 8).map fun j => (0x1000 + 8 * j, 0x0000000300000003) }

/-- A block of eight NOPs. -/
def nops : Nat := 0x0000000300000003000000030000000300000003000000030000000300000003

theorem st_code (va : Word) (h : va = 0x1020 ∨ va = 0x1022 := by decide) : CodeAtHand (stCode id) va nops := by
  rcases h with rfl | rfl <;>
  exact ⟨by decide +kernel, by decide +kernel, by decide +kernel, page, 0x0000000300000003, 0x0000000300000003, 0x0000000300000003,
    0x0000000300000003, by decide +kernel⟩

theorem nops_starts {k : Nat} (h : MarkedStart nops k) : k % 2 = 0 ∨ 16 ≤ k := by
  induction h with
  | first => decide
  | after k _ ih =>
    rcases Nat.lt_or_ge k 16 with h | h
    · have : ∀ k, k < 16 → k % 2 = 0 → (k + parcelCount (nops / 65536 ^ k % 65536)) % 2 = 0 := by decide +kernel
      exact .inl (this k h (by omega))
    · exact .inr (by omega)

/-! ### Integer instructions, branches -/

theorem test_hyp_integer : ∃ s i d v, Quiet s ∧ integerRow (getCtx s s.cur) i = some (d, v) ∧ d = 0 :=
  ⟨st id, .add 0 11 (.lit 0xFFFFFFFF), 0, 0xFFFFFFFFFFFFFFFF, by unfold Quiet Issues; decide +kernel, by decide +kernel, rfl⟩

theorem test_hyp_immediate : ∃ s i d v, Quiet s ∧ immediateRow (getCtx s s.cur) i = some (d, v) :=
  ⟨st id, .lui 31 (.imm 0x40000), 31, 0xFFFFFFFF80000000, by unfold Quiet Issues; decide +kernel⟩

theorem test_hyp_branch_taken : ∃ s i va, Quiet s ∧ branchRow (getCtx s s.cur) i = some (true, va) ∧ TargetAtHand s va :=
  ⟨stCode id, .beq 1 2 (.imm 16), 0x1020, by unfold Quiet Issues; decide +kernel, by decide +kernel,
    by decide +kernel, nops, st_code _, by rw [show (0x1020 : Word).toNat / 2 % 16 = 0 by decide]; exact .first⟩

theorem test_hyp_branch_not_taken : ∃ s i va, Quiet s ∧ branchRow (getCtx s s.cur) i = some (false, va) :=
  ⟨st id, .cBnez 0 1, 0x1002, by unfold Quiet Issues; decide +kernel⟩

theorem test_hyp_jump : ∃ s i d va, Quiet s ∧ jumpRow (getCtx s s.cur) i = some (d, va) ∧ TargetAtHand s va :=
  ⟨stCode id, .jalr 5 0 (.imm 0x1020), 5, 0x1020, by unfold Quiet Issues; decide +kernel, by decide +kernel,
    by decide +kernel, nops, st_code _, by rw [show (0x1020 : Word).toNat / 2 % 16 = 0 by decide]; exact .first⟩

theorem test_hyp_bad_target_odd : ∃ s i d va, Quiet s ∧ jumpRow (getCtx s s.cur) i = some (d, va) ∧ va.toNat % 2 = 1 :=
  ⟨st id, .jalr 5 0 (.imm 0x1021), 5, 0x1021, by unfold Quiet Issues; decide +kernel⟩

theorem test_hyp_bad_target_unmarked : ∃ s i va blk, Quiet s ∧ branchRow (getCtx s s.cur) i = some (true, va) ∧
    CodeAtHand s va blk ∧ ¬ MarkedStart blk (va.toNat / 2 % 16) :=
  ⟨stCode id, .bge 1 2 (.imm 17), 0x1022, nops, by unfold Quiet Issues; decide +kernel, by decide +kernel, st_code _,
    fun h => absurd (nops_starts h) (by decide +kernel)⟩

/-! ### Loads, stores and atomics -/

/-- An offset of the frame grant in the LOCAL window, and its place in memory; the same of the scratch grant. -/
def frameVa (n : Nat) : Word := BitVec.ofNat 64 (0xFFFFFFFFFFE80000 + n)
def frameAt (n : Nat) : Nat := 2 ^ 56 + 2 ^ 21 + 0x80000 + n
def scratchVa (n : Nat) : Word := BitVec.ofNat 64 (0xFFFFFFFFFFE01000 + n)
def scratchAt (n : Nat) : Nat := 2 ^ 56 + 2 ^ 21 + 0x1000 + n

/-- The state `st` with x11 an address. -/
def stAt (va : Word) : State := st fun x => setX x 11 va

theorem test_hyp_local_load : ∃ s i r a k, Quiet s ∧ s.lateLoads = false ∧ loadRow (getCtx s s.cur) i = some r ∧
    Granted s r.va r.size a k :=
  ⟨stAt (frameVa 0xFF0), .ldD 10 11 (.imm 1) true, ⟨frameVa 0xFF8, 8, false, false, 10, true⟩, frameAt 0xFF8, .frame,
    by unfold Quiet Issues; decide +kernel, by decide +kernel, by decide +kernel, by unfold Granted; decide +kernel⟩

theorem test_hyp_local_store : ∀ o, ∃ s i r a k, Quiet s ∧ storeRow (getCtx s s.cur) i = some r ∧
    r.ord = o ∧ Granted s r.va r.size a k ∧ unpropagated s s.cur.cell (.ctx s.cur) = false ∧
    (getCtx s s.cur).sec.buffer = [] ∧ (getCtx s s.cur).sec.journal.length < 256 := by
  intro o
  refine ⟨stAt (scratchVa 0x7FF8), .stB 3 11 (.imm 7) o, ⟨scratchVa 0x7FFF, 1, 0, o⟩, scratchAt 0x7FFF, .scratch,
    by unfold Quiet Issues; decide +kernel, ?_, rfl, ?_, by decide +kernel⟩
  · cases o <;> decide +kernel
  · show Granted _ (scratchVa 0x7FFF) 1 _ _
    unfold Granted; decide +kernel

/-- The state with the test page in the TLB and x11 an address of it. -/
def stMapped (va : Word) (f : Section → Section) : State :=
  modCluster (st fun x => { setX x 11 va with sec := f x.sec }) 1 fun k => { k with tlbPages := [page] }

theorem test_hyp_global_load_from_view : ∃ s i r a e v, Quiet s ∧ s.lateLoads = false ∧ loadRow (getCtx s s.cur) i = some r ∧
    Mapped s r.va r.size kRead a e ∧ keySpace (a / 8 * 8) = 0 ∧
    tfind (getCell s s.cur.cell).view (a / 8 * 8) = some v ∧ (v.owned = true ∨ ownInFlight s s.cur (a / 8 * 8) = false) :=
  ⟨modCell (stMapped 0x4000 id) 5 fun k => { k with view := [(0x4000, ⟨false, 0x1122334455667788⟩)] }, .ldW 10 11 (.imm 1) false,
    ⟨0x4004, 4, true, false, 10, false⟩, 0x4004, 0x3F, ⟨false, 0x1122334455667788⟩,
    by unfold Quiet Issues; decide +kernel, by decide +kernel, by decide +kernel,
    ⟨by decide +kernel, by decide +kernel, by decide +kernel, by decide +kernel,
      ⟨page, by decide +kernel⟩, by decide +kernel⟩,
    by decide +kernel⟩

theorem test_hyp_global_load_from_home : ∃ s i r a e, Quiet s ∧ s.lateLoads = false ∧ loadRow (getCtx s s.cur) i = some r ∧
    Mapped s r.va r.size kRead a e ∧ keySpace (a / 8 * 8) = 0 ∧ (ownBits s s.cur (a / 8 * 8)).1 ≠ BitVec.allOnes 64 ∧
    tfind (getCell s s.cur.cell).view (a / 8 * 8) = none ∧ homedHere s (dieOf s.cur.cell) (a / 8 * 8) = true ∧
    sliceBusy s (a / 8 * 8) = false :=
  ⟨stMapped 0x4000 id, .cLd 2 3 0, ⟨0x4000, 8, false, false, 10, false⟩, 0x4000, 0x3F,
    by unfold Quiet Issues; decide +kernel, by decide +kernel, by decide +kernel,
    ⟨by decide +kernel, by decide +kernel, by decide +kernel, by decide +kernel,
      ⟨page, by decide +kernel⟩, by decide +kernel⟩,
    by decide +kernel⟩

theorem test_hyp_global_store : ∀ b, ∃ s i r a e, Quiet s ∧ storeRow (getCtx s s.cur) i = some r ∧
    Mapped s r.va r.size kWrite a e ∧ (getCtx s s.cur).sec.irrevocable = b ∧ r.ord = .rel ∧
    (getCtx s s.cur).sec.buffer.length < 64 ∧ cellEffects s s.cur.cell < 256 ∧
    unpropagated s s.cur.cell (.ctx s.cur) = false := by
  have m : ∀ b : Bool, Mapped (stMapped 0x4000 fun k => { k with irrevocable := b }) 0x4000 8 kWrite 0x4000 0x3F := by
    intro b
    cases b <;>
    exact ⟨by decide +kernel, by decide +kernel, by decide +kernel, by decide +kernel,
      ⟨page, by decide +kernel⟩, by decide +kernel⟩
  intro b
  refine ⟨stMapped 0x4000 fun k => { k with irrevocable := b }, .stD 3 11 (.imm 0) .rel, ⟨0x4000, 8, 0, .rel⟩, 0x4000, 0x3F,
    ?_, ?_, m b, ?_, rfl, ?_, ?_, ?_⟩ <;> cases b <;> first | (unfold Quiet Issues; decide +kernel) | decide +kernel

theorem test_hyp_global_store_now : ∃ s i r a e, Quiet s ∧ storeRow (getCtx s s.cur) i = some r ∧
    Mapped s r.va r.size kWrite a e ∧ r.ord = .now ∧ (getCtx s s.cur).sec.buffer = [] :=
  ⟨stMapped 0x4000 id, .stfW 3 11 (.imm 1) .now, ⟨0x4004, 4, 0, .now⟩, 0x4004, 0x3F,
    by unfold Quiet Issues; decide +kernel, by decide +kernel,
    ⟨by decide +kernel, by decide +kernel, by decide +kernel, by decide +kernel,
      ⟨page, by decide +kernel⟩, by decide +kernel⟩,
    by decide +kernel⟩

theorem test_hyp_atomic : ∃ s i r a k, Quiet s ∧ s.lateLoads = false ∧ s.cur.cell < 2048 ∧
    atomicRow (getCtx s s.cur) i = some r ∧ Granted s r.va r.size a k ∧ (getCtx s s.cur).sec.buffer = [] ∧
    olderStore s s.cur a = false ∧ unpropagated s s.cur.cell (.ctx s.cur) = false :=
  ⟨stAt (frameVa 4), .amocas false .ar 10 11 (.lit 7), ⟨4, .ar, 10, frameVa 4, 7⟩, frameAt 4, .frame,
    by unfold Quiet Issues; decide +kernel, by decide +kernel, by decide +kernel, by decide +kernel,
    by unfold Granted; decide +kernel⟩

theorem test_hyp_misaligned : ∃ s i va n, Quiet s ∧ accessRow (getCtx s s.cur) i = some (va, n) ∧ isWindow va = false ∧
    va.toNat % n ≠ 0 :=
  ⟨stAt 0x4001, .ldH 10 11 (.imm 0) false, 0x4001, 2, by unfold Quiet Issues; decide +kernel⟩

theorem test_hyp_ungranted : ∃ s i va n, Quiet s ∧ accessRow (getCtx s s.cur) i = some (va, n) ∧ isWindow va = false ∧
    va.toNat % n = 0 ∧ isLocal va = true ∧ localLoc s s.cur (va.toNat - localBase) n = none :=
  ⟨stAt (frameVa 0x1000), .amoadd true .rlx 10 11 (.lit 1), frameVa 0x1000, 8, by unfold Quiet Issues; decide +kernel⟩

/-- The last 8 bytes of the frame, the first of the scratch, and 8 bytes across the end of the frame. -/
theorem test_hyp_grants : (st id).cur.slot < 16 ∧
    (0x80000 ≤ 0x80FF8 ∧ 0x80FF8 + 8 ≤ (getCtx (st id) who).grants.frameOff + (getCtx (st id) who).grants.frameSize) ∧
    (localLoc (st id) who 0x80FF8 8).map (·.kind) = some .frame ∧
    (localLoc (st id) who 0x1000 8).map (·.kind) = some .scratch ∧ localLoc (st id) who 0x80FFC 8 = none := by
  decide +kernel

/-! ### Floating point, system instructions -/

theorem test_hyp_float : ∃ s i d v fl, Quiet s ∧ floatRow (getCtx s s.cur) i = some (d, v, fl) ∧ fl = 0x10 :=
  ⟨st fun x => setF x 1 1, .fadd .w .frm 31 1 (.lit 0x3F800000), 31, 0x3F800000, 0x10, by unfold Quiet Issues; decide +kernel,
    by decide +kernel, rfl⟩

theorem test_hyp_float_to_x : ∃ s i d v fl, Quiet s ∧ floatToXRow (getCtx s s.cur) i = some (d, v, fl) :=
  ⟨st fun x => setF x 1 0x7F800000, .fcvt .rtz 10 0 1, 0, 0x7FFFFFFF, 1, by unfold Quiet Issues; decide +kernel⟩

theorem test_hyp_rounding : ∃ p m e c, 0 < m ∧ isCode (format p) c ∧ Exact (format p) false m e c :=
  ⟨.w, 3, -1, 0x3FC00000, by decide, by unfold isCode; decide +kernel, 12582912, -23, by decide +kernel, by decide, by decide +kernel⟩

theorem test_hyp_nan : isNaN (.nan true) = true ∧ isSnan (.nan true) = true := by decide

theorem test_hyp_wait : Issues (st id) ∧ countWithin (getCtx (st id) who).loads.length 0 ∧
    countWithin (unpropagatedCount (st id) who) 0 ∧
    ¬ countWithin ((List.range 64).countP fun i => !((0x7FFF : Word)).getLsbD i) 14 := by
  unfold Issues countWithin; decide +kernel

theorem test_hyp_system_register : ∃ s n v, Quiet s ∧
    systemRegister s (getCtx s s.cur) (getCell s s.cur.cell) n = some v ∧ listed n = true ∧ v = 1000 :=
  ⟨st fun x => { x with regs := { x.regs with c := x.regs.c.set 63 1000 } }, 0x43F, 1000, by unfold Quiet Issues; decide +kernel,
    by decide +kernel, by decide +kernel, rfl⟩

/-- A launch of one actor, which is `who`. -/
def launch0 : Launch :=
  { Launch.zero with groups := [(0, { cluster := 1, scratchOff := 0x1000, ctxs := [who], retired := false })],
                     actors := [(0, { place := .at who, mooring := [], taken := 0 })], nextGroup := 1 }

/-- The state `st` with the launch in slot 0. -/
def stLaunch (l : Launch) (f : Ctx → Ctx) : State := modHub (st f) fun h => { h with launches := [(0, l)] }

theorem test_hyp_launch_register : ∃ s l, Quiet s ∧ launchAt s (getCtx s s.cur).ident.lslot.toNat = some l ∧
    0 < l.packet.actors ∧ l.packet.actors ≤ 16 ∧ s.cur.cell < 2048 ∧ (getCtx s s.cur).wdog < 2 ^ 26 :=
  ⟨stLaunch launch0 id, launch0, by unfold Quiet Issues; decide +kernel⟩

theorem test_hyp_register_writes : Quiet (st id) ∧ (st id).cur.slot < 16 ∧ listed 0x17F = true ∧ listed 0x400 = true ∧
    listed 0x440 = false ∧ listed 0xFFF = false := by
  unfold Quiet Issues; decide +kernel

theorem test_hyp_fences : Issues (st id) ∧ unpropagated (st id) 5 (.ctx who) = false ∧ (getCtx (st id) who).sec.buffer = [] ∧
    allPropagated (st id) = true := by
  unfold Issues; decide +kernel

theorem test_hyp_trace : ∃ s l, Issues s ∧ launchAt s (getCtx s s.cur).ident.lslot.toNat = some l ∧
    l.packet.flags.getLsbD 3 = true ∧ s.hub.trbase.toNat % 32 = 11 ∧ (s.hub.trtail - s.hub.trhead).toNat < 2 ^ 11 ∧
    populated s (s.hub.trbase.toNat / 2 ^ 16 % 2 ^ 36 * 2 ^ 16 + s.hub.trtail.toNat % 2 ^ 11 * 32) 32 = true ∧
    (∀ g, (getCtx s s.cur).trigger = some g → g.stored.msg.cls < 64) :=
  let l := { launch0 with packet := { launch0.packet with flags := 8 } }
  ⟨modHub (stLaunch l id) fun h => { h with trbase := 0x1000B, trtail := 0x800, trhead := 1 }, l, by unfold Issues; decide +kernel⟩

theorem test_hyp_no_trace : ∃ s l, Issues s ∧ launchAt s (getCtx s s.cur).ident.lslot.toNat = some l ∧
    l.packet.flags.getLsbD 3 = false :=
  ⟨stLaunch launch0 id, launch0, by unfold Issues; decide +kernel⟩

theorem test_hyp_brk_debug : ∃ s l, Issues s ∧ launchAt s (getCtx s s.cur).ident.lslot.toNat = some l ∧
    l.packet.flags.getLsbD 4 = true :=
  let l := { launch0 with packet := { launch0.packet with flags := 0x10 } }
  ⟨stLaunch l id, l, by unfold Issues; decide +kernel⟩

theorem test_hyp_brk_plain : ∃ s, Issues s ∧
    (∀ l, launchAt s (getCtx s s.cur).ident.lslot.toNat = some l → l.packet.flags.getLsbD 4 = false) :=
  ⟨stLaunch launch0 id, by unfold Issues; decide +kernel, of_some (b := launch0) (by decide +kernel) (by decide +kernel)⟩

/-! ### Traps, handlers, commits -/

/-- A message of class 8 for mailbox 2, from the test actor to itself. -/
def mail : Message :=
  { dest := 0, mb := 2, len := 1, cls := 8, full := false, typ := 3, sender := 0, seq := 1, stime := 0, pcoff := 0, gtid := 7,
    payload := [42] }
def trig (src : TrigSource) : Trigger :=
  { stored := { msg := mail, arrival := 0, counted := false }, source := src, held := false, deferred := false }

theorem test_hyp_trap_revocable : ∃ s c g n, let x := getCtx s c
    c.slot < 16 ∧ x.sec.irrevocable = false ∧ x.sec.committed = 0 ∧ x.trigger = some g ∧ g.source = .mailbox n :=
  ⟨st fun x => { x with trigger := some (trig (.mailbox 2)) }, who, trig (.mailbox 2), 2, by decide +kernel, by decide +kernel,
    by decide +kernel, by decide +kernel, rfl⟩

theorem test_hyp_trap_frame : ∃ s c, let x := getCtx s c
    c.slot < 16 ∧ x.sec.irrevocable = false ∧ x.sec.committed = 0 ∧
    (∀ l, launchAt s x.ident.lslot.toNat = some l → l.packet.flags.getLsbD 3 = false) ∧ x.sec.journal ≠ [] ∧
    x.sec.journal.Pairwise (fun p q => p.1 + 32 ≤ q.1 ∨ q.1 + 32 ≤ p.1) :=
  ⟨st fun x => { x with sec := { x.sec with journal := [(frameAt 0, 1), (frameAt 32, 2)] } }, who, by decide +kernel,
    by decide +kernel, by decide +kernel, of_none (by decide +kernel), by decide +kernel⟩

theorem test_hyp_trap_irrevocable : ∃ s c, let x := getCtx s c
    c.slot < 16 ∧ x.sec.irrevocable = true ∧ ∀ g, x.trigger = some g → g.held = false :=
  ⟨st fun x => { x with sec := { x.sec with irrevocable := true } }, who, by decide +kernel, by decide +kernel,
    of_none (by decide +kernel)⟩

/-- A running strand in the last slot of the cell. -/
def strandWho : CtxId := { cell := 5, slot := 31 }
def stStrand (f : Ctx → Ctx) : State :=
  let s := st id
  { setCtx s strandWho (f { Ctx.free with state := .running, pc := 0x1000, wdog := 1000, wdogBudget := 1000,
                                          trigger := some (trig .strand) }) with cur := strandWho }

/-- A strand's message as it stands in a queue. -/
def strandMsg0 : StrandMsg :=
  { msg := mail, asid := 0, destCell := 5, fstat := 0, arrival := 0, faulted := false, counted := false }

/-- An irrevocable strand; a revocable one with room for its message, and one without. -/
theorem test_hyp_trap_strand : ∀ b n, (n = 15 ∨ n = 16) → ∃ s c g, let x := getCtx s c
    16 ≤ c.slot ∧ x.trigger = some g ∧ x.sec.irrevocable = b ∧ (getCell s c.cell).returns.length = n := by
  intro b n h
  refine ⟨modCell (stStrand fun x => { x with sec := { x.sec with irrevocable := b } }) 5 fun k =>
    { k with returns := List.replicate n strandMsg0 }, strandWho, trig .strand, ?_⟩
  rcases h with rfl | rfl <;> cases b <;> decide +kernel

theorem test_hyp_handler_entry : ∃ s c m rest l, let x := getCtx s c
    c.slot < 16 ∧ x.state = .ready ∧ x.resumeFrom = none ∧ x.notices = m :: rest ∧ m.msg.cls < 64 ∧
    launchAt s x.ident.lslot.toNat = some l ∧ l.evicting = false ∧ x.dbg.step = false ∧ x.dbg.haltReq = false ∧
    (x.routines.toList.getD m.msg.cls 0).getLsbD 0 = true :=
  let m : StoredMsg := { msg := { mail with cls := 63 }, arrival := 0, counted := false }
  ⟨stLaunch launch0 fun x => { x with state := .ready, notices := [m], routines := x.routines.set 63 0x1001 }, who, m, [], launch0,
    by decide +kernel⟩

/-- A message in the lowest mailbox with mail is served, and before it one whose mailbox has a full pass counter. -/
theorem test_hyp_handler_entry_mailbox : ∀ p n, (p = 15 ∧ n = 2) ∨ (p = 16 ∧ n = 7) → ∃ s c m l, let x := getCtx s c
    c.slot < 16 ∧ x.state = .ready ∧ x.resumeFrom = none ∧ m.msg.cls < 64 ∧
    launchAt s x.ident.lslot.toNat = some l ∧ l.evicting = false ∧ x.dbg.step = false ∧ x.dbg.haltReq = false ∧
    (x.routines.toList.getD m.msg.cls 0).getLsbD 0 = true ∧ x.notices = [] ∧ ServedNext x n ∧ x.mailboxes[n].fifo = [m] := by
  intro p n h
  let m : StoredMsg := { msg := mail, arrival := 0, counted := false }
  let b : Mailbox := { Mailbox.none with valid := true, fifo := [m] }
  refine ⟨stLaunch launch0 fun x => { x with state := .ready,
                                             routines := x.routines.set 8 0x1001,
                                             mailboxes := (x.mailboxes.set 2 b).set 7 { b with pass := p } }, who, m, launch0, ?_⟩
  unfold ServedNext
  rcases h with ⟨rfl, rfl⟩ | ⟨rfl, rfl⟩ <;> decide +kernel

/-- An actor between handlers, one in a handler of a class below 63, one in a TERMINATE handler. -/
theorem test_hyp_commit : ∀ g : Option Trigger, (g = none ∨ g = some (trig .notice) ∨
      g = some { trig .notice with stored := { msg := { mail with cls := 63 }, arrival := 0, counted := true } }) →
    ∃ s, CommitsAtOnce s ∧ s.cur.slot < 16 ∧ (getCtx s s.cur).trigger = g := by
  intro g h
  refine ⟨st fun x => { x with trigger := g }, ?_⟩
  unfold CommitsAtOnce Quiet Issues
  rcases h with rfl | rfl | rfl <;> decide +kernel

theorem test_hyp_sdone : CommitsAtOnce (stStrand id) ∧ 16 ≤ (stStrand id).cur.slot ∧
    (getCtx (stStrand id) strandWho).tag.tags = BitVec.allOnes 64 := by
  unfold CommitsAtOnce Quiet Issues; decide +kernel

theorem test_hyp_hcommit_strand : ∃ s g l, CommitsAtOnce s ∧ 16 ≤ s.cur.slot ∧ (getCtx s s.cur).trigger = some g ∧
    launchAt s (getCtx s s.cur).ident.lslot.toNat = some l :=
  ⟨modHub (stStrand id) fun h => { h with launches := [(0, launch0)] }, trig .strand, launch0,
    by unfold CommitsAtOnce Quiet Issues; decide +kernel⟩

/-- The strand with x9 the address 0x4000 of the mapped page, whose home is another cell than the strand's. -/
theorem test_hyp_migrate_away : ∃ s a g l e, let x := getCtx s s.cur
    let home := leafKey s e.pte (leafPa e.pte (xAt x a) e.block)
    CommitsAtOnce s ∧ 16 ≤ s.cur.slot ∧ x.tag.tags = BitVec.allOnes 64 ∧ (getCell s s.cur.cell).outq.length < 32 ∧
    x.trigger = some g ∧ launchAt s x.ident.lslot.toNat = some l ∧ isLocal (xAt x a) = false ∧ canonical (xAt x a) = true ∧
    tlbFind (getCluster s (clusterOf s.cur.cell)) x.ident.asid (xAt x a) kRead = some e ∧
    ¬ (homeCell home = s.cur.cell ∧ keyModule home = ownModule s) :=
  ⟨modCluster (modHub (stStrand fun x => setX x 9 0x4000) fun h => { h with launches := [(0, launch0)] }) 1 fun k =>
      { k with tlbPages := [page] }, 9, trig .strand, launch0, page, by unfold CommitsAtOnce Quiet Issues; decide +kernel⟩

theorem test_hyp_migrate : ∃ s a g l, let x := getCtx s s.cur
    CommitsAtOnce s ∧ 16 ≤ s.cur.slot ∧ x.tag.tags = BitVec.allOnes 64 ∧ x.trigger = some g ∧
    launchAt s x.ident.lslot.toNat = some l ∧ l.evicting = false ∧ isLocal (xAt x a) = true ∧ strandLslot s g.stored.msg = x.ident.lslot.toNat ∧
    l.packet.codebase.toNat ≤ (x.pc + 4).toNat ∧ (x.pc + 4).toNat < l.packet.codebase.toNat + 2 ^ 32 :=
  let l := { launch0 with packet := { launch0.packet with codebase := 0x1004 } }
  ⟨modHub (stStrand fun x => setX x 9 (frameVa 0)) fun h => { h with launches := [(0, l)] }, 9, trig .strand, l,
    by unfold CommitsAtOnce Quiet Issues; decide +kernel⟩

/-! ### Messages, queries -/

/-- Descriptors: class 61 with 16 words (x[d] to x[d + 15]) to mailbox 7; class 62, which no program may use. -/
def goodDesc : Word32 := BitVec.ofNat 32 (7 + 16 * 8 + 61 * 256)
def badDesc : Word32 := BitVec.ofNat 32 (62 * 256)

theorem test_hyp_effect : ∀ b, ∃ s i now e, let x := getCtx s s.cur
    Quiet s ∧ EffectOf s x i now e ∧ now = b ∧ x.sec.irrevocable = false ∧ x.sec.buffer = [] ∧
    cellEffects s s.cur.cell < 256 ∧ unpropagated s s.cur.cell (.ctx s.cur) = false ∧ (getCell s s.cur.cell).outq.length < 32 := by
  intro b
  exact ⟨st id, .send b 16 3 (.lit goodDesc), b, _, by unfold Quiet Issues; decide +kernel,
    .send b 16 3 (.lit goodDesc) (by unfold classOk; decide +kernel) (by unfold lengthOk; decide +kernel), rfl,
    by decide +kernel⟩

theorem test_hyp_reply_and_forward : ∃ s, Quiet s ∧ EffectOf s (getCtx s s.cur) (.reply true 31 (.lit 0x808)) true
      (.send (messageOf (getCtx s s.cur) 0x808 0 (payloadFrom (getCtx s s.cur) 31 0x808))) ∧
    ∃ e, EffectOf s (getCtx s s.cur) (.fwd false 3 (.lit 0x808)) false e :=
  let s := st fun x => { x with trigger := some (trig (.mailbox 2)) }
  have p : ProgramTrigger (getCtx s s.cur) mail := ⟨trig (.mailbox 2), by decide +kernel, rfl, by decide, by decide⟩
  ⟨s, by unfold Quiet Issues; decide +kernel,
    .reply true 31 (.lit 0x808) mail p (by unfold classOk; decide +kernel) (by unfold lengthOk; decide +kernel),
    _, .fwd false 3 (.lit 0x808) mail p (by unfold classOk; decide +kernel)⟩

/-- A committed gang of this module alone, its window ACTIVE; the launch with it; a state with that launch, x11 a mapped address
and grid slot 3 with a part. -/
def gang0 : Gang :=
  { member := 0, coordinator := true, modules := [0], slots := [0], state := 1, departed := [], cause := 0, detached := 0,
    ownDetached := 0, endedRanks := [], answers := [], committed := true, blocked := false, retired := [] }
def gangLaunch0 : Launch := { launch0 with gang := some gang0, packet := { launch0.packet with flags := 1, kshare := 1 } }
def stGang : State :=
  modCluster (stLaunch gangLaunch0 fun x =>
      { setX x 11 0x4000 with grid := x.grid.set 3 { GridSlot.unbound with desc := some 1, part := some 0 } }) 1 fun k =>
    { k with tlbPages := [page] }

theorem test_hyp_other_effects : Quiet stGang ∧ (∃ e, EffectOf stGang (getCtx stGang who) (.barr true 4 15 (.lit 9)) false e) ∧
    (∃ e, EffectOf stGang (getCtx stGang who) (.launch false 11 (.lit 63)) false e) ∧
    (∃ e, EffectOf stGang (getCtx stGang who) .kdetach false e) ∧
    ∃ e, EffectOf stGang (getCtx stGang who) (.hrel 3 (.lit 9)) false e :=
  ⟨by unfold Quiet Issues; decide +kernel, ⟨_, .barr true 4 15 (.lit 9) (by decide +kernel)⟩,
    ⟨_, .launch false 11 (.lit 63) page (by decide +kernel) (by decide +kernel) (by decide +kernel) (by decide +kernel) (by decide +kernel)⟩,
    ⟨_, .kdetach gangLaunch0 gang0 (by decide +kernel) (by decide +kernel) rfl⟩,
    ⟨_, .hrel 3 (.lit 9) 1 0 (by decide +kernel) (by decide +kernel) (by decide +kernel)⟩⟩

theorem test_hyp_bad_class : ∃ s b, Quiet s ∧ ¬ (classOk (intB (getCtx s s.cur) b) ∧ lengthOk 16 (intB (getCtx s s.cur) b)) :=
  ⟨st id, .lit badDesc, by unfold Quiet Issues; decide +kernel, by unfold classOk lengthOk; decide +kernel⟩

theorem test_hyp_bad_length : ∃ s b, Quiet s ∧ classOk (intB (getCtx s s.cur) b) ∧ ¬ lengthOk 17 (intB (getCtx s s.cur) b) :=
  ⟨st id, .lit goodDesc, by unfold Quiet Issues; decide +kernel, by unfold classOk; decide +kernel, by unfold lengthOk; decide +kernel⟩

theorem test_hyp_no_trigger : ∃ s, Quiet s ∧ (∀ m, ¬ ProgramTrigger (getCtx s s.cur) m) ∧
    ∀ g (n : Fin 8), (getCtx s s.cur).trigger = some g → g.source = .mailbox n → g.deferred = true := by
  have h : (getCtx (st id) (st id).cur).trigger = none := by decide +kernel
  refine ⟨st id, by unfold Quiet Issues; decide +kernel, fun m p => ?_, fun g n e => by rw [h] at e; cases e⟩
  obtain ⟨g, e, -⟩ := p
  rw [h] at e
  cases e

theorem test_hyp_defer : ∃ s g k, Quiet s ∧ (getCtx s s.cur).trigger = some g ∧ g.source = .mailbox k ∧ g.deferred = false :=
  ⟨st fun x => { x with trigger := some (trig (.mailbox 7)) }, trig (.mailbox 7), 7, by unfold Quiet Issues; decide +kernel,
    by decide +kernel, rfl, rfl⟩

theorem test_hyp_spawn : ∀ n, (n = 3 ∨ n = 4) → ∃ s a, let x := getCtx s s.cur
    Quiet s ∧ s.cur.slot < 16 ∧ isLocal (xAt x a) = true ∧ x.spawnlim = 4 ∧ x.strands = n ∧ x.sec.irrevocable = false ∧
    x.sec.buffer = [] ∧ cellEffects s s.cur.cell < 256 := by
  intro n h
  refine ⟨st fun x => { setX x 11 (frameVa 0) with strands := n }, 11, ?_⟩
  rcases h with rfl | rfl <;> (unfold Quiet Issues; decide +kernel)

theorem test_hyp_snapshots : ∃ s, ∃ k : Fin 8, let x := getCtx s s.cur
    Quiet s ∧ s.cur.slot < 16 ∧ x.mailboxes[k].valid = true ∧ x.mailboxes[k].fifo.length < 512 ∧ x.mailboxes[k].ovf.length < 2 ^ 21 ∧
    x.mailboxes[k].pass = 255 ∧ x.mailboxes[(6 : Fin 8)].valid = false ∧ x.grid[(3 : Fin 4)].desc = none :=
  ⟨st fun x => { x with mailboxes := x.mailboxes.set 7 { Mailbox.none with valid := true, pass := 255 } }, 7,
    by unfold Quiet Issues; decide +kernel⟩

theorem test_hyp_kstat : ∃ s l g, let x := getCtx s s.cur
    Quiet s ∧ s.cur.slot < 16 ∧ launchAt s x.ident.lslot.toNat = some l ∧ l.gang = some g ∧ l.packet.flags.getLsbD 0 = true ∧
    0 < l.packet.kshare :=
  ⟨stGang, gangLaunch0, gang0, by unfold Quiet Issues; decide +kernel, by decide +kernel, by decide +kernel, rfl,
    by decide +kernel⟩

theorem test_hyp_kstat_plain : ∃ s, Quiet s ∧ s.cur.slot < 16 ∧
    (∀ l, launchAt s (getCtx s s.cur).ident.lslot.toNat = some l → l.gang = none) :=
  ⟨stLaunch launch0 id, by unfold Quiet Issues; decide +kernel, by decide, of_some (b := launch0) (by decide +kernel) (by decide +kernel)⟩

theorem test_hyp_strand_queries : Quiet (stStrand id) ∧ 16 ≤ (stStrand id).cur.slot := by unfold Quiet Issues; decide +kernel

/-! ### The vector engine -/

/-- 256 bytes with lane k of 32 bits FP32 1.0 × 2^k for small k. -/
def someW : BitVec 2048 := 0x41000000408000004000000000000000400000003F800000

/-- The state `st` with w1 to w3 unbound in rows, w1 and w2 with lanes, x11 an address and t4 a view record. -/
def stVec (view : BitVec 512) (f : Ctx → Ctx) : State :=
  modCell (st fun x =>
      let w := fun (r : Reg) (v : BitVec 2048) (g : Vector WReg 32) => g.set r.val { bound := none, data := v, spilled := false } r.isLt
      let y := setX x 11 (scratchVa 0)
      f { y with regs := { y.regs with w := w 1 someW (w 2 someW y.regs.w), t := y.regs.t.set 4 view } }) 5 fun k =>
    { k with rows := [⟨1, 1, true, true⟩, ⟨1, 2, false, false⟩, ⟨1, 3, false, false⟩] }

theorem in_row (view : BitVec 512) (r : Reg) (h : r = 1 ∨ r = 2 ∨ r = 3) (f : Ctx → Ctx)
    (hb : (getCtx (stVec view f) (stVec view f).cur).regs.w[r].bound = none) : InRow (stVec view f) r := by
  refine ⟨hb, isSome_ex ?_⟩
  rcases h with rfl | rfl | rfl <;> rfl

theorem fresh_row (view : BitVec 512) (r : Reg) (h : r = 1 ∨ r = 2 ∨ r = 3) (f : Ctx → Ctx)
    (hb : (getCtx (stVec view f) (stVec view f).cur).regs.w[r].bound = none) : FreshRow (stVec view f) r := by
  refine ⟨hb, ?_⟩
  rcases h with rfl | rfl | rfl
  · exact ⟨⟨1, 1, true, true⟩, rfl, fun _ => rfl⟩
  · exact ⟨⟨1, 2, false, false⟩, rfl, nofun⟩
  · exact ⟨⟨1, 3, false, false⟩, rfl, nofun⟩

theorem start0 : VectorStart (stVec 0 id) := by unfold VectorStart Quiet Issues; decide +kernel

theorem test_hyp_elementwise : ∃ s i t d a b, let x := getCtx s s.cur
    VectorStart s ∧ vectorForm i = some (t, d, a, b) ∧ FreshRow s d ∧ (∀ r ∈ a :: bRegs b, InRow s r) ∧
    ∃ r : Nat → BitVec (laneBits t) × FFlags, ∀ k, k < lanes t → vectorLane t x.frm.toNat i (laneOf t x.regs.w[a].data k)
      (bLane x t b k) (laneOf t x.regs.w[d].data k) = some (r k) := by
  refine ⟨stVec 0 id, .vfma 0 1 2 (.reg 3), 0, 1, 2, some (.reg 3), start0, rfl,
    fresh_row _ _ (by decide) _ (by decide +kernel), ?_, ?_⟩
  · intro r h
    simp only [bRegs, List.mem_cons, List.not_mem_nil, or_false] at h
    rcases h with rfl | rfl <;> exact in_row _ _ (by decide) _ (by decide +kernel)
  · refine ⟨fun k => (vectorLane 0 0 (.vfma 0 1 2 (.reg 3)) (laneOf 0 someW k) 0 (laneOf 0 someW k)).getD (0, 0), ?_⟩
    decide +kernel

theorem test_hyp_elementwise_mismatch : ∃ i t d a b, vectorForm i = some (t, d, a, b) ∧
    vectorLane t 0 i 0 0 0 = none ∧ FreshRow (stVec 0 id) d ∧ ∀ r ∈ a :: bRegs b, InRow (stVec 0 id) r :=
  ⟨.vsqrt 1 1 2, 1, 1, 2, none, rfl, by decide +kernel, fresh_row _ _ (by decide) _ (by decide +kernel), fun r h => by
    simp only [bRegs, List.mem_cons, List.not_mem_nil, or_false] at h
    rw [h]; exact in_row _ _ (by decide) _ (by decide +kernel)⟩

theorem test_hyp_masks : ∃ s i d v, VectorStart s ∧ maskRow (getCtx s s.cur) i = some (d, v) ∧ d = 0 :=
  ⟨stVec 0 id, .vkopNot 0 7, 0, BitVec.allOnes 256, start0, by decide +kernel, rfl⟩

/-- What vector moves, compares, conversions, reductions and quantisers of registers ask: a start, a fresh row, a row. -/
theorem test_hyp_rows : VectorStart (stVec 0 id) ∧ FreshRow (stVec 0 id) 1 ∧ InRow (stVec 0 id) 1 ∧ InRow (stVec 0 id) 2 :=
  ⟨start0, fresh_row _ _ (by decide) _ (by decide +kernel), in_row _ _ (by decide) _ (by decide +kernel),
    in_row _ _ (by decide) _ (by decide +kernel)⟩

/-! ### Views -/

/-- A rank-1 FP32 view of n elements at a scratch offset. -/
def view1 (off ty n : Nat) : View :=
  { base := (scratchVa off).toNat, ty := ty, rank := 1, flags := 0, d := [n, 1, 1, 1], s := [1, 0, 0, 0],
    lo := (scratchVa 0).toNat, hi := (scratchVa 0x8000).toNat }

theorem placed_of {s : State} {v : View} {e0 n : Nat} {p : Nat → Nat} {fit : Nat → LocKind → Prop} (k : LocKind)
    (hk : ∀ i, i < n → fit (p i) k) (h : ∀ i, i < n → (v.lo : Int) ≤ elementAddress v (e0 + i) ∧ elementAddress v (e0 + i) + elementSize v ≤ (v.hi : Int) ∧
      Granted s (BitVec.ofInt 64 (elementAddress v (e0 + i))) (elementSize v) (p i) k) : Placed s v e0 n p fit :=
  fun i hi => ⟨(h i hi).1, (h i hi).2.1, k, hk i hi, (h i hi).2.2⟩

/-- Scratch is fit for every store. -/
theorem storable (s : State) (a : Nat) : Storable s a .scratch := .inl rfl

theorem test_hyp_vmkv : ∃ s b, VectorStart s ∧ (intL (getCtx s s.cur) b).toNat = 2 ^ 32 :=
  ⟨stVec 0 fun x => setX x 12 0x100000000, .reg 12, by unfold VectorStart Quiet Issues; decide +kernel⟩

theorem test_hyp_view_record : ∃ s a p k, VectorStart s ∧ InOneStep s ∧
    (∀ j, j < 8 → Granted s (xAt (getCtx s s.cur) a + BitVec.ofNat 64 (8 * j)) 8 (p + 8 * j) k) ∧
    (∀ j, j < 8 → AtHome s (p + 8 * j) k) ∧ Storable s p k :=
  ⟨stVec 0 id, 11, scratchAt 0, .scratch, start0, rfl, by unfold Granted; decide +kernel, by unfold AtHome; decide +kernel,
    storable _ _⟩

theorem test_hyp_part : ∃ s ta b r, let v := viewIn s ta
    VectorStart s ∧ viewFault v = none ∧ v.rank = 1 ∧ 8 ≤ elemBits v.ty ∧
    (∀ j, 1 ≤ j → j < 4 → (intL (getCtx s s.cur) b).toNat / 2 ^ (16 * j) % 2 ^ 16 ≤ 1) ∧ r = s.cur.cell % 4 :=
  ⟨stVec (recordOf (view1 0 0 10)) id, 4, .lit 4, 1, by unfold VectorStart Quiet Issues; decide +kernel, by decide +kernel,
    by decide +kernel, by decide +kernel,
    fun j h1 h4 => by obtain rfl | rfl | rfl : j = 1 ∨ j = 2 ∨ j = 3 := by omega
                      all_goals decide +kernel, by decide +kernel⟩

theorem test_hyp_part_by_register : ∃ s ta b r, let v := viewIn s ta
    VectorStart s ∧ viewFault v = none ∧ v.rank = 1 ∧ 8 ≤ elemBits v.ty ∧
    (∀ j, 1 ≤ j → j < 4 → (intL (getCtx s s.cur) b).toNat / 2 ^ (16 * j) % 2 ^ 16 ≤ 1) ∧
    ∃ q : Reg, ∃ h : q.val + 1 < 32, b = .reg q ∧ r = (xAt (getCtx s s.cur) ⟨q.val + 1, h⟩).toNat :=
  ⟨stVec (recordOf (view1 0 0 10)) fun x => setX x 30 4, 4, .reg 30, 0, by unfold VectorStart Quiet Issues; decide +kernel,
    by decide +kernel, by decide +kernel, by decide +kernel,
    fun j h1 h4 => by obtain rfl | rfl | rfl : j = 1 ∨ j = 2 ∨ j = 3 := by omega
                      all_goals decide +kernel, 30, by decide, rfl, by decide +kernel⟩

theorem test_hyp_bind : VectorStart (stVec (recordOf (view1 0 0 10)) id) ∧
    viewFault (viewIn (stVec (recordOf (view1 0 0 10)) id) 4) = none ∧ (viewIn (stVec (recordOf (view1 0 0 10)) id) 4).ty ≠ 10 ∧
    viewFault (viewIn (stVec 0 id) 4) = some 7 := by
  unfold VectorStart Quiet Issues; decide +kernel

/-- VLD and VST of the last chunk of 70 elements, which has 6. -/
theorem test_hyp_vector_load : ∃ s ta p, let v := viewIn s ta
    let m := min (perChunk v) (elementCount v - 1 * perChunk v)
    VectorStart s ∧ InOneStep s ∧ Plain v ∧ 1 * perChunk v < elementCount v ∧ FreshRow s 1 ∧ InRow s 1 ∧ v.flags / 8 % 2 = 0 ∧
    Placed s v (1 * perChunk v) m p (AtHome s) ∧ Placed s v (1 * perChunk v) m p (Storable s) :=
  ⟨stVec (recordOf (view1 4 0 70)) id, 4, fun i => scratchAt (4 + 4 * (64 + i)), by unfold VectorStart Quiet Issues; decide +kernel,
    rfl, by unfold Plain; decide +kernel, by decide +kernel, fresh_row _ _ (by decide) _ (by decide +kernel),
    in_row _ _ (by decide) _ (by decide +kernel), by decide +kernel,
    placed_of .scratch (by unfold AtHome; decide +kernel) (by unfold Granted; decide +kernel),
    placed_of .scratch (fun _ _ => storable _ _) (by unfold Granted; decide +kernel)⟩

theorem test_hyp_chunk_past_end : ∃ s ta, ∃ d : Reg, let v := viewIn s ta
    VectorStart s ∧ InOneStep s ∧ Plain v ∧ elementCount v ≤ 2 * perChunk v ∧ (getCtx s s.cur).regs.w[d].bound = none ∧ d = 31 :=
  ⟨stVec (recordOf (view1 4 0 70)) id, 4, (31 : Fin 32), by unfold VectorStart Quiet Issues; decide +kernel,
    rfl, by unfold Plain; decide +kernel, by decide +kernel, by decide +kernel, rfl⟩

/-- 32 addresses, 8 bytes apart, in lanes of 64 bits. -/
def addrW (first : Nat) : BitVec 2048 := BitVec.ofNat 2048 ((upFrom 0 32).foldr (fun k acc => (scratchVa (first + 8 * k)).toNat + 2 ^ 64 * acc) 0)
def stAddr (first : Nat) : State :=
  stVec 0 fun x => { x with regs := { x.regs with w := x.regs.w.set 2 { bound := none, data := addrW first, spilled := false } } }

theorem test_hyp_gather : ∃ s, ∃ p : Nat → Nat, VectorStart s ∧ InOneStep s ∧ InRow s 2 ∧ FreshRow s 1 ∧ InRow s 3 ∧
    ∀ k, k < 32 → ∃ q, AtHome s (p k) q ∧ Storable s (p k) q ∧ Granted s (lane64 (getCtx s s.cur).regs.w[(2 : Reg)].data k) 8 (p k) q := by
  refine ⟨stAddr 8, fun k => scratchAt (8 + 8 * k), by unfold VectorStart Quiet Issues; decide +kernel,
    rfl, in_row _ _ (by decide) _ (by decide +kernel), fresh_row _ _ (by decide) _ (by decide +kernel),
    in_row _ _ (by decide) _ (by decide +kernel), fun k hk => ⟨.scratch, ?_, storable _ _, ?_⟩⟩
  · revert k; unfold AtHome; decide +kernel
  · revert k; unfold Granted; decide +kernel

theorem test_hyp_gather_misaligned : ∃ s, VectorStart s ∧ InOneStep s ∧ InRow s 2 ∧ (getCtx s s.cur).regs.w[(1 : Reg)].bound = none ∧
    (lane64 (getCtx s s.cur).regs.w[(2 : Reg)].data 0).toNat % 2 ≠ 0 :=
  ⟨stAddr 9, by unfold VectorStart Quiet Issues; decide +kernel, rfl, in_row _ _ (by decide) _ (by decide +kernel), by decide +kernel⟩

/-- The state `st` with views bound to w1, w2 and w3. -/
def bind (r : Reg) (v sc : View) (x : Ctx) : Ctx :=
  { x with regs := { x.regs with
      w := x.regs.w.set r.val { bound := some { view := recordOf v, scale := recordOf sc, tnum := 1 }, data := 0, spilled := false } r.isLt } }
def stBound (u v w sc : View) : State := st fun x => bind 1 u sc (bind 2 v sc (bind 3 w sc x))

theorem bound_of {s : State} {r : Reg} {v sc : View}
    (h : (getCtx s s.cur).regs.w[r].bound = some { view := recordOf v, scale := recordOf sc, tnum := 1 })
    (e : viewOf (recordOf v) = v) : Bound s r v := ⟨_, h, e⟩

theorem test_hyp_views : ∃ (s : State) (i : Instr) (t : Fin 8) (z u w : View) (p q o : Nat → Nat)
    (r : Nat → BitVec (laneBits t) × FFlags), let x := getCtx s s.cur
    let elem := fun (f : Nat → Nat) k => BitVec.ofNat (laneBits t) (readLE s.mem (f k) (laneBits t / 8))
    VectorStart s ∧ InOneStep s ∧ vectorForm i = some (t, 1, 2, some (.reg 3)) ∧ Bound s 1 z ∧ Bound s 2 u ∧ Bound s 3 w ∧
    (∀ v ∈ [z, u, w], Plain v ∧ v.ty = t.val ∧ v.d = z.d) ∧ z.flags / 8 % 2 = 0 ∧ elementCount z ≤ lanes t ∧
    Placed s z 0 (elementCount z) p (Storable s) ∧ Placed s u 0 (elementCount z) q (AtHome s) ∧
    Placed s w 0 (elementCount z) o (AtHome s) ∧
    ∀ k, k < elementCount z → vectorLane t x.frm.toNat i (elem q k) (elem o k) (elem p k) = some (r k) := by
  refine ⟨stBound (view1 0 7 3) (view1 64 7 3) (view1 128 7 3) (view1 0 0 1), .vadd 7 1 2 (.reg 3), 7, view1 0 7 3, view1 64 7 3,
    view1 128 7 3, fun k => scratchAt (4 * k), fun k => scratchAt (64 + 4 * k), fun k => scratchAt (128 + 4 * k), fun _ => (0, 0),
    by unfold VectorStart Quiet Issues; decide +kernel, rfl, rfl, bound_of (sc := view1 0 0 1) (by decide +kernel) (by decide +kernel),
    bound_of (sc := view1 0 0 1) (by decide +kernel) (by decide +kernel),
    bound_of (sc := view1 0 0 1) (by decide +kernel) (by decide +kernel), by unfold Plain; decide +kernel, by decide +kernel,
    by decide +kernel, placed_of .scratch (fun _ _ => storable _ _) (by unfold Granted; decide +kernel),
    placed_of .scratch (by unfold AtHome; decide +kernel) (by unfold Granted; decide +kernel),
    placed_of .scratch (by unfold AtHome; decide +kernel) (by unfold Granted; decide +kernel),
    by decide +kernel⟩

theorem dense_of {s : State} {v : View} {ty n a : Nat} {fit : Nat → LocKind → Prop} (k : LocKind)
    (hk : ∀ j, j < n → fit (a + j * elemBits ty / 8) k)
    (h : viewFault v = none ∧ v.flags / 16 % 2 = 0 ∧ v.ty = ty ∧ v.rank = 1 ∧ v.d = [n, 1, 1, 1] ∧ v.s = [1, 0, 0, 0] ∧
      v.lo ≤ v.base ∧ v.base + n * elemBits ty / 8 ≤ v.hi)
    (g : ∀ j, j < n → Granted s (BitVec.ofNat 64 (v.base + j * elemBits ty / 8)) (max 1 (elemBits ty / 8)) (a + j * elemBits ty / 8) k) :
    DenseAt s v ty n a fit := by
  obtain ⟨h1, h2, h3, h4, h5, h6, h7, h8⟩ := h
  exact ⟨h1, h2, h3, h4, h5, h6, h7, h8, fun j hj => ⟨k, hk j hj, g j hj⟩⟩

theorem test_hyp_quantisation : ∃ s v sc u n dst scale src, VectorStart s ∧ InOneStep s ∧ n ≤ 512 ∧ BoundMx s 1 v sc ∧ Bound s 2 u ∧
    DenseAt s v 10 n dst (Storable s) ∧ DenseAt s sc 11 (n / 8) scale (Storable s) ∧ DenseAt s u 0 n src (AtHome s) ∧
    v.flags / 8 % 2 = 0 ∧ sc.flags / 8 % 2 = 0 ∧ (dst + n / 2 ≤ scale ∨ scale + n / 8 ≤ dst) :=
  ⟨stBound (view1 0 10 16) (view1 64 0 16) (view1 0 0 1) (view1 8 11 2), view1 0 10 16, view1 8 11 2, view1 64 0 16, 16, scratchAt 0,
    scratchAt 8, scratchAt 64, by unfold VectorStart Quiet Issues; decide +kernel, rfl, by decide,
    ⟨⟨recordOf (view1 0 10 16), recordOf (view1 8 11 2), 1⟩, by decide +kernel⟩,
    bound_of (sc := view1 8 11 2) (by decide +kernel) (by decide +kernel),
    dense_of .scratch (fun _ _ => storable _ _) (by decide +kernel) (by unfold Granted; decide +kernel),
    dense_of .scratch (fun _ _ => storable _ _) (by decide +kernel) (by unfold Granted; decide +kernel),
    dense_of .scratch (by unfold AtHome; decide +kernel) (by decide +kernel) (by unfold Granted; decide +kernel),
    by decide +kernel, by decide +kernel, .inl (by decide +kernel)⟩

theorem test_hyp_dequantisation : ∃ s v z sc n dst src scale, VectorStart s ∧ InOneStep s ∧ n ≤ 64 ∧ Bound s 2 z ∧ z.flags / 8 % 2 = 0 ∧
    DenseAt s z 0 n dst (Storable s) ∧ BoundMx s 1 v sc ∧ DenseAt s v 10 n src (AtHome s) ∧
    DenseAt s sc 11 (n / 8) scale (AtHome s) :=
  ⟨stBound (view1 0 10 64) (view1 64 0 64) (view1 0 0 1) (view1 32 11 8), view1 0 10 64, view1 64 0 64, view1 32 11 8, 64, scratchAt 64,
    scratchAt 0, scratchAt 32, by unfold VectorStart Quiet Issues; decide +kernel, rfl, by decide,
    bound_of (sc := view1 32 11 8) (by decide +kernel) (by decide +kernel), by decide +kernel,
    dense_of .scratch (fun _ _ => storable _ _) (by decide +kernel) (by unfold Granted; decide +kernel),
    ⟨⟨recordOf (view1 0 10 64), recordOf (view1 32 11 8), 1⟩, by decide +kernel⟩,
    dense_of .scratch (by unfold AtHome; decide +kernel) (by decide +kernel) (by unfold Granted; decide +kernel),
    dense_of .scratch (by unfold AtHome; decide +kernel) (by decide +kernel) (by unfold Granted; decide +kernel)⟩

theorem test_hyp_int4 : ∃ s v n src, VectorStart s ∧ InOneStep s ∧ n ≤ 64 ∧ Bound s 1 v ∧ DenseAt s v 14 n src (AtHome s) :=
  ⟨stBound (view1 0 14 7) (view1 64 0 7) (view1 0 0 1) (view1 0 0 1), view1 0 14 7, 7, scratchAt 0,
    by unfold VectorStart Quiet Issues; decide +kernel, rfl, by decide, bound_of (sc := view1 0 0 1) (by decide +kernel) (by decide +kernel),
    dense_of .scratch (by unfold AtHome; decide +kernel) (by decide +kernel) (by unfold Granted; decide +kernel)⟩

/-- A dense FP32 tile of 4 × 2 elements. -/
def tile42 : View := { view1 64 0 8 with rank := 2, d := [4, 2, 1, 1], s := [1, 4, 0, 0] }

theorem test_hyp_norm : ∃ (s : State) (u : View) (w : Fin 6) (k m : Nat) (p : Nat → Nat) (src : Nat), VectorStart s ∧ InOneStep s ∧
    Bound s 2 u ∧ FreshRow s 1 ∧ Plain u ∧ u.ty = 0 ∧ u.rank = 2 ∧ u.d = [k, m, 1, 1] ∧ u.s = [1, k, 0, 0] ∧ u.flags / 2 % 4 = 0 ∧ k * m ≤ 64 ∧
    k % 2 ^ w.val = 0 ∧ Placed s u 0 (k * m) p (AtHome s) ∧ ∀ i, i < k * m → p i = src + 4 * i :=
  ⟨stVec 0 fun x => bind 2 tile42 (view1 0 0 1) x, tile42, 1, 4, 2, fun i => scratchAt 64 + 4 * i, scratchAt 64,
    by unfold VectorStart Quiet Issues; decide +kernel, rfl, bound_of (sc := view1 0 0 1) (by decide +kernel) (by decide +kernel),
    fresh_row _ _ (by decide) _ (by decide +kernel), by unfold Plain; decide +kernel, rfl, rfl, rfl, rfl, by decide +kernel, by decide,
    by decide, placed_of .scratch (by unfold AtHome; decide +kernel) (by unfold Granted; decide +kernel), fun _ _ => rfl⟩

theorem test_hyp_topk : ∃ s u z y g src dst mt, VectorStart s ∧ InOneStep s ∧ Bound s 2 u ∧ 0 < g ∧ g ≤ 32 ∧ Bound s 1 z ∧ Bound s 3 y ∧
    z.flags / 8 % 2 = 0 ∧ y.flags / 8 % 2 = 0 ∧ DenseAt s u 0 (4 * g) src (AtHome s) ∧ DenseAt s z 0 (2 * g) dst (Storable s) ∧
    DenseAt s y 8 g mt (Storable s) ∧ (dst + 8 * g ≤ mt ∨ mt + g ≤ dst) :=
  ⟨stBound (view1 0 0 4) (view1 64 0 8) (view1 32 8 2) (view1 0 0 1), view1 64 0 8, view1 0 0 4, view1 32 8 2, 2, scratchAt 64,
    scratchAt 0, scratchAt 32, by unfold VectorStart Quiet Issues; decide +kernel, rfl,
    bound_of (sc := view1 0 0 1) (by decide +kernel) (by decide +kernel), by decide, by decide,
    bound_of (sc := view1 0 0 1) (by decide +kernel) (by decide +kernel),
    bound_of (sc := view1 0 0 1) (by decide +kernel) (by decide +kernel), by decide +kernel, by decide +kernel,
    dense_of .scratch (by unfold AtHome; decide +kernel) (by decide +kernel) (by unfold Granted; decide +kernel),
    dense_of .scratch (fun _ _ => storable _ _) (by decide +kernel) (by unfold Granted; decide +kernel),
    dense_of .scratch (fun _ _ => storable _ _) (by decide +kernel) (by unfold Granted; decide +kernel), .inl (by decide +kernel)⟩

/-! ### Accumulators, rings, the matrix engine, copies -/

/-- The state `stVec` with accumulators 3 and 7 and two rings granted. -/
def stEngines (f : Ctx → Ctx) : State :=
  stVec 0 fun x => f { x with grants := { x.grants with accs := [3, 7], rings := 2 } }

theorem test_hyp_accumulators : ∃ s p, VectorStart s ∧ OwnsAcc s 1 p ∧ Settled s p ∧ QueueRoom s ∧ FreshRow s 1 ∧ InRow s 1 ∧
    (getCtx s s.cur).regs.w[(1 : Reg)].bound = none ∧ ∀ p, ¬ OwnsAcc s 2 p :=
  ⟨stEngines id, 7, by unfold VectorStart Quiet Issues; decide +kernel, by unfold OwnsAcc; decide +kernel,
    by unfold Settled; decide +kernel, by unfold QueueRoom; decide +kernel, fresh_row _ _ (by decide) _ (by decide +kernel),
    in_row _ _ (by decide) _ (by decide +kernel), by decide +kernel,
    fun p h => absurd h.2 (by rw [show (getCtx (stEngines id) (stEngines id).cur).grants.accs[(2 : Fin 16).val]? = none by decide +kernel]
                              nofun)⟩

/-- A ring of 64 slots of INT8 A tiles, and its configuration word. -/
def ringWord : Word32 := BitVec.ofNat 32 (1 + 1 * 2 ^ 13 + 6 * 2 ^ 21 + 7 * 2 ^ 26)
def ringA : Ring := { Ring.reset with base := 256, slots := 1, fmt := 6 }

theorem test_hyp_ring : ∃ s b n, Quiet s ∧ OwnsRing s 1 ∧ Configures (intB (getCtx s s.cur) b) n ∧
    ConfigOk (intB (getCtx s s.cur) b) n ∧ n.base.toNat + n.slots.toNat * tileSize n ≤ (getCtx s s.cur).grants.scratchSize ∧
    (ringAt s 1).reservations = [] ∧ (ringAt s 1).head = (ringAt s 1).resv ∧ (engines s).transfers = [] ∧ ¬ OwnsRing s 2 :=
  ⟨stEngines id, .lit ringWord, ringA, by unfold Quiet Issues; decide +kernel, by unfold OwnsRing; decide +kernel,
    by unfold Configures; decide +kernel, by unfold ConfigOk; decide +kernel, by decide +kernel, by decide +kernel, by decide +kernel,
    by decide +kernel, by unfold OwnsRing; decide +kernel⟩

/-- 17 slots are 34 KiB, more than the scratch; FP64 is no ring format. -/
theorem test_hyp_ring_bad : (∃ w n, Configures w n ∧ ConfigOk w n ∧ 0x8000 < n.base.toNat + n.slots.toNat * tileSize n) ∧
    ∃ w n, Configures w n ∧ ¬ ConfigOk w n :=
  ⟨⟨BitVec.ofNat 64 (17 * 2 ^ 13 + 6 * 2 ^ 21 + 7 * 2 ^ 26), { Ring.reset with slots := 17, fmt := 6 },
      by unfold Configures; decide +kernel, by unfold ConfigOk; decide +kernel⟩,
    ⟨BitVec.ofNat 64 (2 ^ 13 + 1 * 2 ^ 21 + 7 * 2 ^ 26), { Ring.reset with slots := 1, fmt := 1 },
      by unfold Configures; decide +kernel, by unfold ConfigOk; decide +kernel⟩⟩

theorem test_hyp_pop : ∃ s b, Quiet s ∧ OwnsRing s 1 ∧ 0 < (intB (getCtx s s.cur) b).toNat ∧
    (intB (getCtx s s.cur) b).toNat = (ringAt s 1).slots.toNat ∧ QueueRoom s ∧
    (ringAt s 1).slots.toNat < (intB (getCtx s s.cur) (.lit 2)).toNat :=
  ⟨stEngines fun x => { x with rings := x.rings.set 1 ringA }, .lit 1, by unfold Quiet Issues; decide +kernel,
    by unfold OwnsRing; decide +kernel, by decide +kernel, by decide +kernel, by unfold QueueRoom; decide +kernel⟩

/-- A dense INT8 tile of 32 × 32 elements. -/
def tile8 : View := { view1 0x4000 6 1024 with rank := 2, d := [32, 32, 1, 1], s := [1, 32, 0, 0] }

theorem test_hyp_push : ∃ s, let n := ringAt s 1
    VectorStart s ∧ InOneStep s ∧ OwnsRing s 1 ∧ n.normw = 7 ∧ n.sparse = 0 ∧ n.fmt.toNat ∈ [0, 2, 3, 4, 5, 6] ∧ 0 < n.slots.toNat ∧
    n.reservations = [] ∧ (n.tail - n.head).toNat < n.slots.toNat ∧ TileAt s 2 n (scratchAt 0x4000) ∧
    (getCtx s s.cur).regs.w[(3 : Reg)].bound = none :=
  ⟨stEngines fun x => bind 2 tile8 (view1 0 0 1) { x with rings := x.rings.set 1 { ringA with role := 1 } },
    by unfold VectorStart Quiet Issues; decide +kernel, rfl, by unfold OwnsRing; decide +kernel, rfl, rfl, by decide +kernel,
    by decide +kernel, rfl, by decide +kernel,
    ⟨tile8, bound_of (sc := view1 0 0 1) (by decide +kernel) (by decide +kernel), by decide +kernel, rfl, rfl, rfl, rfl, rfl,
      by decide +kernel, by decide +kernel,
      fun j hj => ⟨.scratch, by revert j; unfold AtHome; decide +kernel, by revert j; unfold Granted; decide +kernel⟩⟩,
    by decide +kernel⟩

theorem test_hyp_matrix : ∃ s p, let x := getCtx s s.cur
    Quiet s ∧ OwnsAcc s 0 p ∧ OwnsRing s 0 ∧ OwnsRing s 1 ∧ QueueRoom s ∧ depthOk (xAt x 9) ∧ samplingOk (xAt x 9) (xAt x 10) ∧
    ¬ depthOk (xAt x 10) ∧ ¬ samplingOk (xAt x 9) (xAt x 12) :=
  ⟨stEngines fun x => setX (setX (setX x 9 2048) 10 0x0302) 12 0x0202, 3, by unfold Quiet Issues; decide +kernel,
    by unfold OwnsAcc; decide +kernel, by unfold OwnsRing; decide +kernel, by unfold OwnsRing; decide +kernel,
    by unfold QueueRoom; decide +kernel, by unfold depthOk; decide +kernel, by unfold samplingOk; decide +kernel,
    by unfold depthOk; decide +kernel, by unfold samplingOk; decide +kernel⟩

theorem test_hyp_drain : (engines (stEngines id)).running = none ∧ (engines (stEngines id)).transfers = [] ∧
    ((engines (stEngines id)).eme.map (·.id)).Nodup := by decide +kernel

/-- The shadows of a copy of 8 elements of 8 bytes between two places of the scratch. -/
def copyShadows : Vector Word 22 :=
  vecOfList 22 0 [scratchVa 0x100, scratchVa 0x200, 8, 1, 1, 1, 8, 0, 0, 0, 8, 0, 0, 0, BitVec.ofNat 64 (3 * 32)]

def stCopy : State := stEngines fun x => { x with shadows := copyShadows }

theorem copy_steps : ∀ v ∈ ((getCtx stCopy stCopy.cur).shadows.toList.drop 6).take 8, v.toNat % elementOf (getCtx stCopy stCopy.cur) = 0 := by
  rw [show elementOf (getCtx stCopy stCopy.cur) = 8 by decide +kernel]
  rw [show ((getCtx stCopy stCopy.cur).shadows.toList.drop 6).take 8 = [8, 0, 0, 0, 8, 0, 0, 0] by decide +kernel]
  simp

theorem test_hyp_copy : ∃ s b, let x := getCtx s s.cur
    VectorStart s ∧ x.tag.tags.getLsbD (field (intB x b) 5 0) = true ∧ LocalCopy s x ∧
    (engines s).transfers.length + (engines s).strips.length < 32 ∧ field (intB x b) 5 0 = 63 :=
  ⟨stCopy, .lit 63, by unfold VectorStart Quiet Issues; decide +kernel, by decide +kernel,
    ⟨by decide +kernel, by decide +kernel, by decide +kernel, by decide +kernel, copy_steps,
      ⟨by decide +kernel, by decide +kernel, scratchAt 0x100, .scratch, by decide +kernel⟩,
      ⟨by decide +kernel, by decide +kernel, scratchAt 0x200, .scratch, by decide +kernel⟩⟩, by decide +kernel⟩

theorem test_hyp_tag_busy : ∃ s b, let x := getCtx s s.cur
    VectorStart s ∧ x.tag.tags.getLsbD (field (intB x b) 5 0) = false ∧ x.sec.rerun = false :=
  ⟨stEngines fun x => { x with tag := { x.tag with tags := 0x7FFFFFFFFFFFFFFF } }, .lit 63,
    by unfold VectorStart Quiet Issues; decide +kernel⟩

/-- A follow-on's command word, and a word that is no command (ADD). -/
theorem test_hyp_follow_on : (∃ v : Word, (Instr.mma 1 false 0 5 1 0 1).wf = true ∧
      encode (.mma 1 false 0 5 1 0 1) = [v.toNat % 65536, v.toNat / 65536 % 65536]) ∧
    ∃ v : Word, field v 31 0 ≠ 0 ∧ ∀ i n, decode [v.toNat % 65536, v.toNat / 65536 % 65536] = .ok (i, n) →
      (∀ pri sp pair k rb ra acc, i ≠ .mma pri sp pair k rb ra acc) ∧ ∀ pri y sp pair k rb ra acc, i ≠ .mmas pri y sp pair k rb ra acc := by
  refine ⟨⟨BitVec.ofNat 64 ((encode (.mma 1 false 0 5 1 0 1)).foldr (fun p acc => p + 65536 * acc) 0), by decide +kernel⟩, 0x00316A0B, by decide +kernel, fun i n h => ?_⟩
  rw [show decode [(0x00316A0B : Word).toNat % 65536, (0x00316A0B : Word).toNat / 65536 % 65536] = .ok (.add 10 11 (.reg 12), 2)
    by decide +kernel] at h
  cases h
  exact ⟨nofun, nofun⟩

/-- A transfer of the test actor. -/
def xfer0 : Transfer :=
  { tid := 0x4000000000000001, tag := 63, ctx := who, ident := Ident.none, aindex := 0, msgid := 0, snap := copyShadows, pc := 0,
    cursor := 0, pushed := 0, bytes := 0, handOver := false, suspended := false, cancelled := false, code := 0, written := false,
    slices := [], placed := false, firstSeq := 0, folHeld := false, got := [], asked := [] }
def stXfer (t : Transfer) (f : Ctx → Ctx) : State := modCluster (stEngines f) 1 fun k => { k with transfers := [t] }

theorem test_hyp_tags : ∃ s b, let x := getCtx s s.cur
    Quiet s ∧ x.tag.tags &&& intB x b = intB x b ∧ x.tag.tags &&& intB x b ≠ 0 ∧ (x.tag.tags &&& intB x b).getLsbD 63 = true ∧
    ∀ j, j < 63 → (x.tag.tags &&& intB x b).getLsbD j = false :=
  ⟨stEngines fun x => setX x 8 0x8000000000000000, .reg 8, by unfold Quiet Issues; decide +kernel⟩

theorem test_hyp_cancel : ∃ s pre t post, let x := getCtx s s.cur
    Quiet s ∧ (engines s).transfers = pre ++ t :: post ∧ (∀ u ∈ pre ++ post, u.tid ≠ xAt x 8) ∧ t.tid = xAt x 8 ∧ t.ctx = s.cur ∧
    t.ident = x.ident ∧ t.cancelled = false ∧ field t.snap[(14 : Fin 22)] 2 0 ≠ 2 :=
  ⟨stXfer xfer0 fun x => setX x 8 0x4000000000000001, [], xfer0, [], by unfold Quiet Issues; decide +kernel⟩

theorem test_hyp_cancel_other : ∃ s, Quiet s ∧
    ∀ t ∈ (engines s).transfers, t.tid = xAt (getCtx s s.cur) 8 → t.ctx ≠ s.cur ∨ t.cancelled = true :=
  ⟨stXfer xfer0 fun x => setX x 8 5, by unfold Quiet Issues; decide +kernel⟩

/-! ### Grids -/

/-- 10 INT32 cells in 2 parts, one step in two released, from step 5 on, the part's storage at 64. -/
def desc0 : BitVec 1024 :=
  BitVec.ofNat 1024 (1 + 7 * 2 ^ 8 + 1 * 2 ^ 16 + 2 * 2 ^ 24 + 10 * 2 ^ 64 + 2 ^ 96 + 2 ^ 128 + 2 ^ 160 + 2 * 2 ^ 192 + 2 ^ 208 + 2 ^ 224 +
    2 ^ 240 + 1 * 2 ^ 288 + 5 * 2 ^ 896 + 64 * 2 ^ 960)

/-- The key of cell i (plus 16,384) of slot 3. -/
def key0 (i : Nat) : Word := BitVec.ofNat 64 (i + 16384 * (2 ^ 15 + 2 ^ 30 + 2 ^ 45) + 3 * 2 ^ 60)

/-- The state `stVec` with slot 3 bound to the descriptor and part 1 of it owned, x11 a key. -/
def stGrid (q : GridSlot → GridSlot) (key : Word) : State :=
  stVec 0 fun x => setX { x with grid := x.grid.set 3 (q { GridSlot.unbound with desc := some desc0, part := some 1 }) } 11 key

theorem test_hyp_grid_cell : ∃ s d p i, VectorStart s ∧ s.cur.slot < 16 ∧ OwnsPart s 3 d p ∧ InteriorKey d p 3 (xAt (getCtx s s.cur) 11) i ∧
    typeOf d ∈ [0, 1, 7, 9] ∧ (∀ j, j < 4 → 0 < partsOf d j) ∧ (∀ h ∈ (engines s).strips, h.owner ≠ s.cur) ∧
    ∀ j, j < cellSize d → AtHome s (cellAt s d p i + j) .scratch :=
  ⟨stGrid id (key0 16388), desc0, 1, fun j => if j = 0 then 4 else 0, by unfold VectorStart Quiet Issues; decide +kernel, by decide +kernel,
    by unfold OwnsPart; decide +kernel, by unfold InteriorKey; decide +kernel, by decide +kernel, by decide +kernel,
    by decide +kernel, by unfold AtHome; decide +kernel⟩

theorem test_hyp_grid_outside : ∃ s d p, let key := xAt (getCtx s s.cur) 11
    VectorStart s ∧ OwnsPart s 3 d p ∧ field key 63 60 = 3 ∧ (∀ j, j < 4 → 0 < partsOf d j) ∧
    ((extentOf d p 0 : Int) = coordinate key 0) :=
  ⟨stGrid id (key0 16389), desc0, 1, by unfold VectorStart Quiet Issues; decide +kernel, by unfold OwnsPart; decide +kernel⟩

theorem test_hyp_grid_no_part : VectorStart (stVec 0 id) ∧ field (xAt (getCtx (stVec 0 id) who) 0) 61 60 = 0 ∧
    (getCtx (stVec 0 id) who).grid[(0 : Fin 4)].part = none := by
  unfold VectorStart Quiet Issues; decide +kernel

/-- The descriptor in memory, at the start of the scratch, and the test's launch. -/
def stDecl : State :=
  let s := modHub (stVec 0 id) fun h => { h with launches := [(0, launch0)] }
  { s with mem := writeLE [] (scratchAt 0) 128 desc0.toNat }

theorem test_hyp_grid_declare : ∃ s d k l, VectorStart s ∧ InOneStep s ∧ s.cur.slot < 16 ∧
    (∀ j, j < 16 → Granted s (xAt (getCtx s s.cur) 11 + BitVec.ofNat 64 (8 * j)) 8 (scratchAt 0 + 8 * j) k ∧
      AtHome s (scratchAt 0 + 8 * j) k) ∧
    d.toNat = readLE s.mem (scratchAt 0) 128 ∧ gTypeOk d = true ∧ (getCtx s s.cur).grid[(3 : Fin 4)].desc = none ∧
    launchAt s (getCtx s s.cur).ident.lslot.toNat = some l ∧ descBad d (gangMembers (some l)) = false ∧
    ownedPart l d ((getCtx s s.cur).ident.root.toNat % 2 ^ 24) = some 0 ∧
    gLocalOff d + partBytes d 0 ≤ (getCtx s s.cur).grants.scratchSize :=
  ⟨stDecl, desc0, .scratch, launch0, by unfold VectorStart Quiet Issues; decide +kernel, rfl, by decide +kernel,
    by unfold Granted AtHome; decide +kernel, by decide +kernel⟩

theorem test_hyp_step_due : ∃ s d p, VectorStart s ∧ s.cur.slot < 16 ∧ OwnsPart s 3 d p ∧ Defers s ∧ firstStep d = 5 ∧
    strideOfSteps d = 2 ∧ (getCtx s s.cur).grid[(3 : Fin 4)].last = none :=
  ⟨stGrid id 0, desc0, 1, by unfold VectorStart Quiet Issues; decide +kernel, by decide +kernel, by unfold OwnsPart; decide +kernel,
    by unfold Defers; decide +kernel⟩

/-- Generation 7 has arrived at both faces of part 1, and generation 5 is released. -/
def stArrived : State :=
  stGrid (fun q => { q with par0 := { gen := some 5, arrived := 3, got := [], rel := true },
                            par1 := { gen := some 7, arrived := 3, got := [], rel := false } }) 0

/-- The parity of the slot that holds generation n. -/
def heldBy (q : GridSlot) (d : BitVec 1024) (n : Nat) : Parity :=
  if (n - firstStep d) / strideOfSteps d % 2 = 0 then q.par0 else q.par1

theorem test_hyp_wait_arrived : ∃ s d p n q, let slot := (getCtx s s.cur).grid[(3 : Fin 4)]
    VectorStart s ∧ OwnsPart s 3 d p ∧ 0 < strideOfSteps d ∧ firstStep d ≤ n ∧ (n - firstStep d) % strideOfSteps d = 0 ∧
    (heldBy slot d n).gen = some q ∧ (q.toNat = n ∧ (heldBy slot d n).rel = false) ∧ genArrived slot d p n = true :=
  ⟨stArrived, desc0, 1, 7, 7, by unfold VectorStart Quiet Issues; decide +kernel, by unfold OwnsPart; decide +kernel,
    by decide +kernel⟩

/-- A released generation, and one that the parity has left behind. -/
theorem test_hyp_wait_gone : ∀ r : Bool, ∃ s d p n q, let slot := (getCtx s s.cur).grid[(3 : Fin 4)]
    VectorStart s ∧ OwnsPart s 3 d p ∧ 0 < strideOfSteps d ∧ firstStep d ≤ n ∧ (n - firstStep d) % strideOfSteps d = 0 ∧
    (heldBy slot d n).gen = some q ∧ if r then q.toNat = n ∧ (heldBy slot d n).rel = true else n < q.toNat
  | true => ⟨stArrived, desc0, 1, 5, 5, by unfold VectorStart Quiet Issues; decide +kernel, by unfold OwnsPart; decide +kernel,
      by decide +kernel⟩
  | false => ⟨stGrid (fun q => { q with par0 := { gen := some 9, arrived := 0, got := [], rel := false } }) 0, desc0, 1, 5, 9,
      by unfold VectorStart Quiet Issues; decide +kernel, by unfold OwnsPart; decide +kernel, by decide +kernel⟩

/-- Lanes 0 and 1 of w2 name cells 9 and 0, the other lanes nothing; FP64 cells for a scatter. -/
def stLanes (ty : Nat) : State :=
  modHub (stVec 0 fun x =>
    { x with regs := { x.regs with w := x.regs.w.set 2 { bound := none, data := (BitVec.allOnes 2048 <<< 128) ||| 9, spilled := false } },
             grid := x.grid.set 3 { GridSlot.unbound with desc := some (BitVec.ofNat 1024 (desc0.toNat - 7 * 2 ^ 8 + ty * 2 ^ 8)), part := none } })
    fun h => { h with launches := [(0, launch0)] }

theorem test_hyp_lanes : ∀ ty, (ty = 7 ∨ ty = 1) → ∃ s d l, let idx := (getCtx s s.cur).regs.w[(2 : Reg)].data
    VectorStart s ∧ s.cur.slot < 16 ∧ (getCtx s s.cur).grid[(3 : Fin 4)].desc = some d ∧ typeOf d = ty ∧
    launchAt s (getCtx s s.cur).ident.lslot.toNat = some l ∧ InRow s 2 ∧
    (∀ k ∈ activeLanes idx, (lane64 idx k).toNat < dimOf d 0 * dimOf d 1 * dimOf d 2 * dimOf d 3) ∧ activeLanes idx = [0, 1] ∧
    FreshRow s 1 ∧ InRow s 3 ∧ Defers s := by
  intro ty h
  have r : InRow (stLanes ty) 2 ∧ FreshRow (stLanes ty) 1 ∧ InRow (stLanes ty) 3 := by
    rcases h with rfl | rfl <;>
    exact ⟨⟨by decide +kernel, ⟨1, 2, false, false⟩, by decide +kernel⟩,
      ⟨by decide +kernel, ⟨1, 1, true, true⟩, by decide +kernel, fun _ => rfl⟩,
      ⟨by decide +kernel, ⟨1, 3, false, false⟩, by decide +kernel⟩⟩
  refine ⟨stLanes ty, BitVec.ofNat 1024 (desc0.toNat - 7 * 2 ^ 8 + ty * 2 ^ 8), launch0, ?_, ?_, ?_, ?_, ?_, r.1, ?_, ?_, r.2.1, r.2.2, ?_⟩ <;>
    rcases h with rfl | rfl <;> (try unfold VectorStart Quiet Issues) <;> (try unfold Defers) <;> decide +kernel

theorem test_hyp_reduction : ∃ s b, let n := intB (getCtx s s.cur) b
    VectorStart s ∧ s.cur.slot < 16 ∧ InRow s 1 ∧ Defers s ∧ field n 63 28 = 0 ∧ field n 23 21 = 0 ∧ field n 2 0 = 0 ∧
    ∀ j, j < 32 → (localLoc s s.cur (field n 20 0 + 8 * j) 8).isSome = true :=
  ⟨stVec 0 id, .lit (BitVec.ofNat 32 (0x8F00 + 15 * 2 ^ 24)), start0, by decide +kernel, in_row _ _ (by decide) _ (by decide +kernel),
    by unfold Defers; decide +kernel⟩

/-! ### Moves of the ordering machine -/

/-- A store to a word of the page of the tests, and the state with it in the cell's registration queue. -/
def store0 (a : Nat) : WordStore := { addr := a, mask := 0xFF00, data := 0x4200 }
def stReg (a : Nat) : State := modCell (st id) 5 fun k => { k with regq := [{ origin := .ctx who, store := store0 a }] }

theorem test_hyp_registration : ∀ here, ∃ s cell e q, (getCell s cell).regq = e :: q ∧ isTier e.store.addr ∧
    homedHere s (cell / 512) e.store.addr = here ∧ sliceBusy s e.store.addr = false ∧ e.origin = .ctx who := by
  intro here
  cases here
  · exact ⟨stReg 0x5000, 5, { origin := .ctx who, store := store0 0x5000 }, [], by decide +kernel, by unfold isTier; decide +kernel,
      by decide +kernel, by decide +kernel, rfl⟩
  · exact ⟨stReg 0x4000, 5, { origin := .ctx who, store := store0 0x4000 }, [], by decide +kernel, by unfold isTier; decide +kernel,
      by decide +kernel, by decide +kernel, rfl⟩

theorem test_hyp_gateway : ∀ e : GwEntry, ∃ s d d', gwEntries s (.die d d') = [e] ∧ d ≠ d' :=
  fun e => ⟨{ st id with gwq := [(.die 1 0, [e])] }, 1, 0, rfl, by decide⟩

/-- A store and a fill request at a home of this module, and the same store on its way to module 1. -/
theorem test_hyp_gateway_entries : ∀ p : Bool, ∃ s g, gwEntries s g = [.store (.ctx who) (store0 0x4000)] ∧ toPeer s g = p ∧
    isTier (store0 0x4000).addr ∧ sliceBusy s 0x4000 = false := by
  intro p
  refine ⟨{ st id with gwq := [(if p then .module 0 1 else .die 1 0, [.store (.ctx who) (store0 0x4000)])] },
    if p then .module 0 1 else .die 1 0, ?_⟩
  unfold isTier
  cases p <;> decide +kernel

theorem test_hyp_peer_store : ∃ s p a, p ≠ ownModule s ∧ gwEntries s (.module p (ownModule s)) = [] ∧ ownWord s a = true :=
  ⟨st id, 1, 0x4000, by decide +kernel⟩

/-- An atomic of the test actor that waits at its home in the cluster's store. -/
def load0 (d : Dest) (v : Option Word) (a : Option AtomicOp) : Pending :=
  { id := 0, dest := d, addr := frameAt 8, byteOff := 0, acq := false, atomic := a, haveMask := 0, haveBits := 0, value := v,
    window := false, member := 0, va := frameVa 8, pc := 0x1000 }
def amo0 : AtomicOp := { op := 0, size := 8, byteAddr := frameAt 8, b := 1, cmp := 0 }

theorem test_hyp_atomic_at_home : ∃ s c p a post, (getCtx s c).loads = p :: post ∧ p.atomic = some a ∧ (∀ q ∈ post, q.id ≠ p.id) ∧
    leftAtomic s c = none ∧ olderStore s c a.byteAddr = false ∧ keySpace a.byteAddr = 1 ∧ (a.size = 4 ∨ a.size = 8) ∧ a.byteAddr % a.size = 0 ∧
    ∃ r n, p.dest = .x r n (n == 4) ∧ n = a.size :=
  ⟨st fun x => { x with loads := [load0 (.x 10 8 false) none (some amo0)] }, who, load0 (.x 10 8 false) none (some amo0), amo0, [],
    by decide +kernel, rfl, nofun, by decide +kernel, by decide +kernel, by decide +kernel, .inr rfl, by decide +kernel, 10, 8, rfl, rfl⟩

theorem test_hyp_value_return : ∃ s c pre p post, ∃ r : Reg, ∃ n b v, (getCtx s c).loads = pre ++ p :: post ∧ p.value = some v ∧
    p.dest = .x r n b ∧ n ≠ 0 ∧ r ≠ 0 ∧ p.acq = false :=
  ⟨st fun x => { x with loads := [load0 (.x 31 8 false) (some 7) none] }, who, [], load0 (.x 31 8 false) (some 7) none, [], 31, 8, false, 7,
    by decide +kernel, rfl, rfl, by decide, by decide, rfl⟩

theorem test_hyp_release : ∃ s c ws r, let x := getCtx s c
    x.state = .running ∧ x.dbg.halted = false ∧ x.sec.irrevocable = true ∧ x.sec.buffer = .stores false ws :: r :=
  ⟨st fun x => { x with sec := { x.sec with irrevocable := true, buffer := [.stores false [store0 0x4000]] } }, who, [store0 0x4000], [],
    by decide +kernel⟩

theorem test_hyp_commit_waits : ∃ s c, let x := getCtx s c
    canIssue x = true ∧ x.sec.commit = some .hcommit ∧ x.sec.buffer = [] ∧ c.slot < 16 ∧ unpropagated s c.cell (.ctx c) = false ∧
    x.dbg.step = false ∧ x.dbg.haltReq = false :=
  ⟨st fun x => { x with sec := { x.sec with commit := some .hcommit } }, who, by decide +kernel⟩

/-- A page table of one page under ASID 0: three levels, the leaf for page 0 with every permission. -/
def stTable : State :=
  { modHub (st id) (fun h => { h with asidtab := 0x100000 }) with
      mem := writeLE (writeLE (writeLE (writeLE [] 0x100000 8 0x200001) 0x200000 8 0x300001) 0x300000 8 0x400001) 0x400000 8 0x3F }

def walkOk : WalkResult → Bool
  | .ok .. => true
  | _ => false
theorem walk_ok {w : WalkResult} (h : walkOk w = true) : ∃ pa e block t, w = .ok pa e block t := by
  cases w with
  | ok pa e b t => exact ⟨pa, e, b, t, rfl⟩
  | fault _ _ _ => cases h
  | busy => cases h
  | dead => cases h

/-- A translation that the actor waits for, and the state in which it does, its walk asked for or the answer to its token awaited. -/
def waiter0 : Waiter := { ctx := who, va := 0x4000, kind := 0, code := 4, cause := 5, lane := 0, pc := 0x1000 }
def miss0 (walking : Bool) : Miss := { asid := 0, vpn := 0, block := false, waiters := [waiter0], walking := walking }
def stWalk (asked : Bool) : State :=
  if asked then
    modDie (modCluster stTable 1 fun k => { k with misses := [(63, miss0 true)] }) 0 fun d => { d with walks := [(1, 63)] }
  else stTable

theorem test_hyp_walk : ∀ asked : Bool, ∃ s cluster asid va kind, clusterUses s cluster asid = true ∧ isLocal va = false ∧
    isWindow va = false ∧ (∃ pa e block t, walk s (BitVec.ofNat 16 asid) va kind = .ok pa e block t) ∧
    let js := joinedWalks s (dieOfCluster cluster) (BitVec.ofNat 16 asid) va
    if asked then (BitVec.ofNat 16 asid, vpnOf va) ∈ walkedPages s (dieOfCluster cluster) ∧ ∃ j ∈ js, ∃ w ∈ j.2.2.waiters, w.kind = kind
    else js = []
  | true => ⟨stWalk true, 1, 0, 0x4000, 0, by decide +kernel, by decide +kernel, by decide +kernel, walk_ok (by decide +kernel),
      by decide +kernel⟩
  | false => ⟨stWalk false, 1, 0, 0x4000, 1, by decide +kernel, by decide +kernel, by decide +kernel, walk_ok (by decide +kernel),
      by decide +kernel⟩

theorem test_hyp_invalidation : ∀ b : Bool, ∃ s : State, s.hub.tlbinvSt.getLsbD 0 = b ∧ s.hub.tlbinv = some (2, 65535, 0) ∧
    ¬ DeferredThrough s 2 65535 0 := by
  intro b
  refine ⟨modHub State.reset fun h => { h with tlbinvSt := if b then 1 else 0, tlbinv := some (2, 65535, 0) }, ?_, rfl, ?_⟩
  · cases b <;> decide +kernel
  · rintro ⟨p, h, -⟩; cases h

/-- A section whose deferred store came through block 3 while page 5 of that block is invalidated. -/
def ctxDeferred : Ctx :=
  { Ctx.free with sec := { Section.fresh with buffer :=
      [.stores false [{ addr := 8, mask := 1, data := 1, leaf := some (3 * 2 ^ 13, true) }]] } }
theorem test_hyp_invalidation_held : ∃ s : State, s.hub.tlbinv = some (2, 0, 3 * 2 ^ 13 + 5) ∧
    DeferredThrough s 2 0 (3 * 2 ^ 13 + 5) :=
  ⟨{ modHub State.reset (fun h => { h with tlbinv := some (2, 0, 3 * 2 ^ 13 + 5) }) with ctxs := [(0, ctxDeferred)] }, rfl,
    (0, ctxDeferred), .head _, false, _, .head _, _, .head _, _, rfl, .inr ⟨rfl, .inr (by decide)⟩⟩

/-- An access of the test actor that waits for the answer to token 64 + 63; service core 3 owns its ASID. -/
def stMiss : State :=
  { modCluster (modHub (st fun x => { x with wait := .xlate 1 63 }) fun h => { h with fsteer := 0x10000 }) 1 (fun k =>
      { k with misses := [(63, miss0 false)] }) with mem := [(0x10000, 3)] }

theorem test_hyp_answer : ∃ s core die cl token m w, cl < 128 ∧ token < 64 ∧ tfind (getCluster s (die * 128 + cl)).misses token = some m ∧
    m.walking = false ∧ Steered s m.asid.toNat core ∧ m.waiters = [w] :=
  ⟨stMiss, 3, 0, 1, 63, miss0 false, waiter0, by decide, by decide, by decide +kernel, rfl, by unfold Steered; decide +kernel, rfl⟩

theorem test_hyp_bank_move : ∃ s cl, ∃ b : Fin 16, let k := getCluster s cl
    k.modes.extractLsb' (2 * b.val) 2 ≠ k.csmode.extractLsb' (2 * b.val) 2 ∧ bankFree s cl b.val = true ∧ b = 15 :=
  ⟨st id, 1, 15, by decide +kernel⟩

/-- Bank 15 is on its way from CACHE to SCRATCH and holds a line in set 3. -/
theorem test_hyp_bank_line : ∃ s cl, ∃ b : Fin 16, ∃ set line, let k := getCluster s cl
    k.modes.extractLsb' (2 * b.val) 2 = 0 ∧ k.csmode.extractLsb' (2 * b.val) 2 ≠ 0 ∧ bankLine k b.val = some (set, line) :=
  let l : CacheLine := { line := 3, rrpv := 2, dirty := false }
  ⟨modCluster State.reset 1 fun k => { k with modes := 0x15555555, csmode := 0x55555555,
                                              dcache := [(3, List.replicate 15 none ++ [some l])] }, 1, 15, 3, l, by decide +kernel⟩

theorem test_hyp_row_fill : ∃ s c, ∃ w : Reg, let x := getCtx s c
    x.state = .running ∧ x.regs.w[w].bound = none ∧ x.regs.w[w].spilled = false ∧ x.wait = .none ∧ rowOf s c w.val = none ∧
    (getCell s c.cell).rows.length < 256 :=
  ⟨stVec 0 id, who, 31, by decide +kernel⟩

theorem test_hyp_gather_lane : ∃ s c lane n, ∃ w : Reg, ∃ p q v, (getCtx s c).loads = [p] ∧ p.dest = .lane w n lane ∧ p.value = some v ∧
    (n = 4 ∨ n = 8) ∧ lane < 32 ∧ rowOf s c w.val = some q :=
  ⟨stVec 0 fun x => { x with loads := [load0 (.lane 1 8 31) (some 5) none] }, who, 31, 8, 1, load0 (.lane 1 8 31) (some 5) none,
    ⟨1, 1, true, true⟩, 5, by decide +kernel, rfl, rfl, .inr rfl, by decide, by decide +kernel⟩

/-! ### Messages, strands, barriers -/

/-- The test actor with mailbox 2 declared for the test message and its class bound; a cell whose outbound queue holds the message. -/
def boxed (n : Nat) (x : Ctx) : Ctx :=
  { x with routines := x.routines.set 8 1,
           mailboxes := x.mailboxes.set 2 { Mailbox.none with valid := true, cls := 8, typ := 3, cap := 4,
                                                              fifo := List.replicate n { msg := mail, arrival := 0, counted := false } } }
def out0 (held : Option (Nat × Nat)) : OutMsg := { slot := 1, asid := 0, kind := .actor mail, held := held }
def stMail (n : Nat) (held : Option (Nat × Nat)) (l : Launch) : State :=
  modCell (stLaunch l (boxed n)) 9 fun k => { k with outq := [out0 held] }

theorem test_hyp_message : ∀ held, (held = none ∨ held = some (128, 0)) → ∃ s cell o m l c, (getCell s cell).outq = [o] ∧
    o.kind = .actor m ∧ o.held = held ∧ m.dest.toNat / 2 ^ 32 = ownModule s ∧ ResidentAt s m.dest o.asid l c ∧
    TakesMessage (getCtx s c) m := by
  intro held h
  refine ⟨stMail 2 held launch0, 9, out0 held, mail, launch0, who, ?_, rfl, rfl, ?_, ?_, ?_⟩ <;> rcases h with rfl | rfl <;>
    (try unfold ResidentAt) <;> (try unfold TakesMessage) <;> decide +kernel

theorem test_hyp_message_full : ∀ held, (held = none ∨ held = some (4096, 0)) → ∃ s cell o m l c, (getCell s cell).outq = [o] ∧
    o.kind = .actor m ∧ o.held = held ∧ m.dest.toNat / 2 ^ 32 = ownModule s ∧ ResidentAt s m.dest o.asid l c ∧
    FullFor (getCtx s c) m := by
  intro held h
  refine ⟨stMail 4 held launch0, 9, out0 held, mail, launch0, who, ?_, rfl, rfl, ?_, ?_, ?_⟩ <;> rcases h with rfl | rfl <;>
    (try unfold ResidentAt) <;> (try unfold FullFor) <;> decide +kernel

theorem test_hyp_message_rejected : ∃ s cell o m, (getCell s cell).outq = [o] ∧ o.kind = .actor m ∧ o.held = none ∧
    m.dest.toNat / 2 ^ 32 = ownModule s ∧ launchAt s (m.dest.toNat % 2 ^ 32 / 2 ^ 24) = none :=
  ⟨modCell (st id) 9 fun k => { k with outq := [out0 none] }, 9, out0 none, mail, by decide +kernel, rfl, rfl, by decide +kernel⟩

/-- A module in the corner of a 16 × 16 domain, port 29 as given; a port that is up, with keys both ways. -/
def stPort (x : Port) : State := modHub (st id) fun h => { h with rowsM1 := 15, colsM1 := 15, ports := h.ports.set 29 x }
def port0 (counter : Nat) (next : Option (BitVec 256 × BitVec 48)) : Port :=
  let d : LinkDir := { key := some 1, salt := 2, nextKey := next, counter := counter, keywait := false }
  { Port.reset with up := true, out := d, inn := d }

theorem test_hyp_message_peer : ∃ s cell o m, (getCell s cell).outq = [o] ∧ o.kind = .actor m ∧ o.held = none ∧
    m.dest.toNat / 2 ^ 32 ≠ ownModule s ∧ moduleReachable s (m.dest.toNat / 2 ^ 32) = true :=
  let m : Message := { mail with dest := BitVec.ofNat 40 (240 * 2 ^ 32) }
  let o : OutMsg := { out0 none with kind := .actor m }
  ⟨modCell (stPort (port0 0 none)) 9 fun k => { k with outq := [o] }, 9, o, m, by decide +kernel, rfl, rfl, by decide +kernel⟩

/-- A notice on its way to the test actor. -/
def notice0 (held : Option (Nat × Nat)) : NoticeMsg := { dest := 0, asid := 0, msg := { mail with cls := 2 }, cell := 0, held := held, die := none }

theorem test_hyp_notice : ∀ held, (held = none ∨ held = some (8192, 0)) → ∃ s n l c, s.hub.notices = [n] ∧ n.die = none ∧
    n.result = none ∧ n.held = held ∧ ResidentAt s n.dest n.asid l c ∧ (getCtx s c).notices.length < 7 := by
  intro held h
  refine ⟨modHub (stLaunch launch0 id) fun h => { h with notices := [notice0 held] }, notice0 held, launch0, who, rfl, rfl, rfl, rfl, ?_, ?_⟩ <;>
    rcases h with rfl | rfl <;> (try unfold ResidentAt) <;> decide +kernel

/-- A strand of the test actor for cell 5, with eight registers. -/
def strand0 : StrandMsg :=
  { msg := { mail with cls := 62, payload := [1, 2, 3, 4, 5, 6, 7, 8] }, asid := 0, destCell := 5, fstat := 1, arrival := 0,
    faulted := false, counted := false }

theorem test_hyp_strand_arrival : ∃ s l cell o m, (getCell s cell).outq = [o] ∧ o.kind = .strand m ∧ o.held = none ∧
    m.msg.dest.toNat / 2 ^ 32 = ownModule s ∧ m.msg.payload.length ≤ 31 ∧ StrandsRun s m l ∧
    (getCell s m.destCell).arrivals = [] ∧ (getCell s m.destCell).returns = [] ∧
    (getCtx s { cell := m.destCell, slot := 16 }).state = .free ∧ l.packet.flags.getLsbD 3 = false :=
  let o : OutMsg := { slot := 1, asid := 0, kind := .strand strand0, held := none }
  ⟨modCell (stLaunch launch0 id) 9 fun k => { k with outq := [o] }, launch0, 9, o, strand0, by decide +kernel, rfl, rfl, by decide +kernel,
    by decide +kernel, ⟨by decide +kernel, rfl, rfl, rfl, rfl⟩, by decide +kernel⟩

theorem test_hyp_strand_resumption : ∃ s l c m r, 16 ≤ c.slot ∧ c.slot < 32 ∧ (getCtx s c).state = .free ∧
    (getCell s c.cell).returns = [] ∧ (getCell s c.cell).arrivals = m :: r ∧ m.faulted = false ∧ m.msg.payload.length ≤ 31 ∧
    StrandsRun s m l ∧ s.hub.launches.length = 1 ∧ l.packet.flags.getLsbD 3 = false :=
  ⟨modCell (stLaunch launch0 id) 5 fun k => { k with arrivals := [strand0] }, launch0, strandWho, strand0, [], by decide, by decide,
    by decide +kernel, by decide +kernel, by decide +kernel, rfl, by decide +kernel, ⟨by decide +kernel, rfl, rfl, rfl, rfl⟩,
    by decide +kernel⟩

/-- A strand waits for the root's answer, the root has 3 or 4 strands of 4; a decrement is on its way. -/
def stCount (n : Nat) (a : Option Bool) : State :=
  modHub (setCtx (stLaunch launch0 fun x => { x with strands := n }) strandWho { Ctx.free with state := .running, wait := .spawn a }) fun h =>
    { h with spawnReqs := [{ ctx := strandWho, root := 0, sent := false, aborted := false }], decrements := [0] }

theorem test_hyp_spawn_request : ∀ n, (n = 3 ∨ n = 4) → ∃ s l c q r, s.hub.spawnReqs = q :: r ∧
    q.root.toNat / 2 ^ 32 = ownModule s ∧ q.ctx ≠ c ∧ q.aborted = false ∧
    launchAt s (q.root.toNat % 2 ^ 32 / 2 ^ 24) = some l ∧
    (actorOf l (q.root.toNat % 2 ^ 24)).place = .at c ∧ q.ctx.slot < 32 ∧ c.slot < 32 ∧ (getCtx s c).strands = n := by
  intro n h
  refine ⟨stCount n none, launch0, who, { ctx := strandWho, root := 0, sent := false, aborted := false }, [], ?_⟩
  rcases h with rfl | rfl <;> decide +kernel

theorem test_hyp_spawn_answer : (getCtx (stCount 3 (some true)) strandWho).wait = .spawn (some true) ∧
    (stCount 3 none).hub.decrements = [0] ∧ launchAt (stCount 3 none) 0 = some launch0 ∧ (actorOf launch0 0).place = .at who := by
  decide +kernel

theorem test_hyp_barrier : ∃ s b r l g c, let key := b.lslot * 2 ^ 28 + b.aindex * 16 + b.n
    let old := tget (getCluster s g.cluster).barriers Barrier.fresh key
    s.hub.barrs = b :: r ∧ b.launchScope = false ∧ b.n < 16 ∧ b.op < 5 ∧ launchAt s b.lslot = some l ∧ l.packet.actors = 1 ∧
    l.savedGroups = [] ∧ tfind l.groups b.aindex = some g ∧ (actorOf l b.aindex).place = .at c ∧ old.arrived = [] ∧ old.later = [] ∧
    old.op = none ∧ old.mixed = false :=
  let b : BarrMsg := { lslot := 0, aindex := 0, launchScope := false, n := 15, op := 4, value := 9 }
  ⟨modHub (stLaunch launch0 id) fun h => { h with barrs := [b] }, b, [], launch0,
    { cluster := 1, scratchOff := 0x1000, ctxs := [who], retired := false }, who, rfl, rfl, by decide, by decide, rfl, rfl, rfl, rfl, rfl,
    by decide +kernel⟩

/-- The test actor, its watchdog run down. -/
def ctxExpired (k : Option CommitKind) (irr : Bool) (b : List Effect) (x : Ctx) : Ctx :=
  { x with wdog := 0, sec := { x.sec with commit := k, irrevocable := irr, buffer := b } }
theorem test_hyp_watchdog : ∃ s c, let x := getCtx s c
    x.state = .running ∧ x.dbg.halted = false ∧ x.wdog = 0 ∧ ¬ (x.sec.commit ≠ none ∨ (x.sec.irrevocable = true ∧ x.sec.buffer ≠ [])) :=
  ⟨st (ctxExpired none true []), who, rfl, rfl, rfl, by rintro (h | ⟨-, h⟩) <;> exact h rfl⟩
theorem test_hyp_watchdog_held : ∀ k, k = none ∨ k = some CommitKind.exit → ∃ s c, let x := getCtx s c
    x.state = .running ∧ x.dbg.halted = false ∧ x.wdog = 0 ∧
    (x.sec.commit ≠ none ∨ (x.sec.irrevocable = true ∧ x.sec.buffer ≠ [])) ∧ x.sec.commit = k ∧ x.sec.heldExpiry = false :=
  fun k _ => ⟨st (ctxExpired k true [.kdetach]), who, rfl, rfl, rfl, .inr ⟨rfl, List.cons_ne_nil _ _⟩, rfl, rfl⟩

/-- A section that reruns, one that is irrevocable and one that has been rerun, none of them releasing. -/
theorem test_hyp_machine_check : ∀ irr again, ∃ s c, let x := getCtx s c
    x.state = .running ∧ x.dbg.halted = false ∧ x.sec.commit = none ∧ x.sec.irrevocable = irr ∧ x.sec.buffer = [] ∧
    x.sec.rerun = again ∧ x.sec.rerunnable = true ∧ c.slot < 16 := by
  intro irr again
  refine ⟨st fun x => { x with sec := { x.sec with irrevocable := irr, rerun := again } }, who, ?_⟩
  cases irr <;> cases again <;> decide +kernel

theorem test_hyp_breakpoint : ∃ s c, (getCtx s c).state = .running ∧ (getCtx s c).dbg.halted = false ∧ bpUnit s c = some 7 :=
  ⟨modHub (stLaunch { launch0 with packet := { launch0.packet with flags := 0x10 } } id) fun h =>
      { h with cellBps := h.cellBps.set 7 { addr := 0x1001, id := 0, ctl := 0 } }, who, by decide +kernel⟩

/-! ### Moves of the engines -/

/-- An operation of the test actor on accumulator 7, rings 0 (A) and 1 (B), INT8 pair, 32 products. -/
def op0 (k : EmeKind) : EmeOp :=
  { id := 5, kind := k, word := 0x04000000, acc := 7, accRel := 1, ringA := 0, ringB := 1, owner := who, lslot := 0, asid := 0,
    actid := 0, msgid := 0, pc := 0x1000, k := 32, samp := 0, seed := 0, tcoord := 0, prio := 0, wait := 0, ran := false,
    checked := false, stop := false, ov := false, followon := false, drawn := false, exactRun := false, kpos := 0, draws := [], work := [],
    tsum := 0, rowFirst := 0, data := [], count := 0 }

/-- The operation in the queue of the actor's cluster, over a ring of one A tile and one of one B tile. -/
def stOp (o : EmeOp) : State :=
  let res : Reservation := { first := 0, count := 1, popDue := false, cancelled := false, opId := 5 }
  let a := { ringA with tail := 1, resv := 1, seq := 1, reservations := [res] }
  modCluster (stEngines fun x => { x with rings := (x.rings.set 0 a).set 1 { a with base := 4096, role := 1 } }) 1 fun k =>
    { k with eme := [o], running := some 5 }

theorem test_hyp_engine_start : ∃ s o, OnlyOp s 1 o ∧ o.checked = false ∧ (accOf s 1 o.acc).status.getLsbD 7 = false ∧ o.kind = .mma ∧
    startFault o (ringOf (getCtx s o.owner) o.ringA) (ringOf (getCtx s o.owner) o.ringB) (accOf s 1 o.acc) = none :=
  ⟨stOp (op0 .mma), op0 .mma, by unfold OnlyOp; decide +kernel, rfl, by decide +kernel, rfl, by decide +kernel⟩

theorem test_hyp_engine_underrun : ∃ s o, OnlyOp s 1 o ∧ o.checked = false ∧ (accOf s 1 o.acc).status.getLsbD 7 = false ∧ o.kind = .mma ∧
    (ringOf (getCtx s o.owner) o.ringA).slots.toNat < (o.k + 31) / 32 :=
  let o := { op0 .mma with k := 40 }
  ⟨stOp o, o, by unfold OnlyOp; decide +kernel, rfl, by decide +kernel, rfl, by decide +kernel⟩

theorem test_hyp_engine_vaccwr : ∃ s o, OnlyOp s 1 o ∧ o.checked = false ∧ (accOf s 1 o.acc).status.getLsbD 7 = false ∧ o.kind = .vaccwr ∧
    o.rowFirst + o.data.length ≤ 2048 ∧ (accOf s 1 o.acc).elems.length ≤ 2048 ∧ o.data ≠ [] :=
  let o := { op0 .vaccwr with rowFirst := 2046, data := [1, 2] }
  ⟨stOp o, o, by unfold OnlyOp; decide +kernel, rfl, by decide +kernel, rfl, by decide +kernel, by decide +kernel, by decide⟩

theorem test_hyp_engine_k_step : ∃ s o, OnlyOp s 1 o ∧ o.kind = .mma ∧ (getCluster s 1).running = some o.id ∧ o.kpos = 0 ∧ o.stop = false ∧
    opPair o = 8 ∧ o.owner.cell / 4 = 1 ∧ o.k = 32 ∧ PlainInt8 (ringOf (getCtx s o.owner) o.ringA) 0 ∧
    PlainInt8 (ringOf (getCtx s o.owner) o.ringB) 1 :=
  ⟨stOp (op0 .mma), op0 .mma, by unfold OnlyOp; decide +kernel, rfl, by decide +kernel, rfl, rfl, by decide +kernel, by decide +kernel, rfl,
    by unfold PlainInt8; decide +kernel, by unfold PlainInt8; decide +kernel⟩

theorem test_hyp_engine_accz_rpop : OnlyOp (stOp (op0 .accz)) 1 (op0 .accz) ∧ ∃ s o r, OnlyOp s 1 o ∧ o.kind = .rpop ∧
    (let ra := ringOf (getCtx s o.owner) o.ringA
     ra.reservations = [r] ∧ r.opId = o.id ∧ r.first = ra.head.toNat ∧ r.count = o.count ∧ o.count < 2 ^ 16 ∧
     o.count ≤ (ra.tail - ra.head).toNat ∧ 0 < o.count) :=
  let o := { op0 .rpop with count := 1 }
  ⟨by unfold OnlyOp; decide +kernel, stOp o, o, { first := 0, count := 1, popDue := false, cancelled := false, opId := 5 },
    by unfold OnlyOp; decide +kernel⟩

/-- The shadows of a transfer of 8 n bytes by the doubleword from the scratch to LOCAL `to_`, its command word with `more`. -/
def straight (n to_ more : Nat) : Vector Word 22 :=
  vecOfList 22 0 [scratchVa 0x100, BitVec.ofNat 64 (localBase + to_), BitVec.ofNat 64 n, 1, 1, 1, 8, 0, 0, 0, 8, 0, 0, 0,
    BitVec.ofNat 64 (3 * 32 + more)]
def xferOf (n to_ more : Nat) : Transfer := { xfer0 with snap := straight n to_ more }

theorem straight_of {t : Transfer} {b d : Fin 22} {n off : Nat}
    (h : field (taken t 14) 6 5 = 3 ∧ (taken t 2).toNat = n ∧ taken t 3 = 1 ∧ taken t 4 = 1 ∧ taken t 5 = 1 ∧ taken t d = 8 ∧
      (taken t b).toNat = localBase + off ∧ off % 8 = 0 ∧ off + 8 * n ≤ 2 ^ 21) : Straight t b d n off := h

theorem test_hyp_copy_chunk : ∃ s t len src dst, OnlyTransfer s 1 t ∧ field (taken t 14) 2 0 = 0 ∧ len = 512 ∧ t.cursor = 0 ∧
    Straight t 0 6 len src ∧ Straight t 1 10 len dst :=
  ⟨stXfer (xferOf 512 0x3000 0) id, xferOf 512 0x3000 0, 512, 0x1100, 0x3000, by unfold OnlyTransfer; decide +kernel, by decide +kernel, rfl, rfl,
    straight_of (by decide +kernel), straight_of (by decide +kernel)⟩

theorem test_hyp_ring_fill : ∃ s t tiles src, let n := ringOf (getCtx s t.ctx) (field (taken t 14) 10 8)
    OnlyTransfer s 1 t ∧ field (taken t 14) 2 0 = 1 ∧ field (taken t 14) 13 11 = 0 ∧ n.normw = 7 ∧ n.sparse = 0 ∧ n.demand = 0 ∧
    n.fmt.toNat ∈ [2, 3, 4, 5, 6] ∧ 0 < n.slots.toNat ∧ n.slots.toNat ≤ 64 ∧ n.reservations = [] ∧
    (n.tail - n.head).toNat < n.slots.toNat ∧ t.pushed < tiles ∧
    (t.tileSeq = n.seq → t.cursor ≤ t.pushed * (tileSize n / 8)) ∧ Straight t 0 6 (tiles * (tileSize n / 8)) src :=
  ⟨stXfer (xferOf 256 0 (1 + 1 * 256)) fun x => { x with rings := x.rings.set 1 ringA }, xferOf 256 0 (1 + 1 * 256), 1, 0x1100,
    by unfold OnlyTransfer; decide +kernel, by decide +kernel, by decide +kernel, rfl, rfl, rfl, by decide +kernel, by decide +kernel,
    by decide +kernel, rfl, by decide +kernel, by decide, fun _ => Nat.le.refl, straight_of (by decide +kernel)⟩

theorem test_hyp_completion : ∃ s t, (getCluster s 1).transfers = [t] ∧ t.written = true ∧ launchEvicting s t.ident.lslot = false ∧
    field (taken t 14) 2 0 = 0 ∧ taken t 17 = 0 ∧ (taken t 14).getLsbD 4 = false ∧ t.tag = 63 ∧ t.bytes < 2 ^ 48 ∧
    (getCtx s t.ctx).ident = t.ident :=
  let t := { xferOf 8 0x3000 0 with written := true, bytes := 64 }
  ⟨stXfer t id, t, by decide +kernel⟩

/-- A demand ring of INT8 B tiles, 8 products to a slice, and the MMAS that has drawn slice 3 of its tile. -/
def stDemand : State :=
  let e : SideLanes := { seqNorm := 0, seqScale := 0, seqMeta := 0, norm := [], scale := [], meta24 := [], fetched := 0xFF, live := true }
  let n := { ringA with role := 1, demand := 1, normw := 3, tail := 1, seq := 1, lanes := [(0, e)] }
  modCluster (stXfer { xferOf 128 0 (2 + 1 * 256) with pushed := 1 } fun x => { x with rings := x.rings.set 1 n }) 1 fun k =>
    { k with eme := [{ op0 .mmas with samp := 0x300, drawn := true, draws := [(3, 1, 0x3F800000)] }] }

/-- What a slice's read answers. -/
def demandRead : Except (Word × Nat) (Option (List Nat) × State) :=
  let t := { xferOf 128 0 (2 + 1 * 256) with pushed := 1 }
  let n := ringOf (getCtx stDemand t.ctx) 1
  xferReads stDemand 1 t (xferElem t) ((sliceUnits n (xferElem t) (ringWidth n) 3).map fun u => walkAddr (taken t 0) (xferDims t) (srcSteps t) (0 + u))

def readOk (r : Except (Word × Nat) (Option (List Nat) × State)) (p : State → Bool) : Bool :=
  match r with
  | .ok (some _, u) => p u
  | _ => false
theorem read_ok {r : Except (Word × Nat) (Option (List Nat) × State)} {p : State → Bool} (h : readOk r p = true) :
    ∃ vs u, r = .ok (some vs, u) ∧ p u = true := by
  match r, h with
  | .ok (some vs, u), h => exact ⟨vs, u, rfl, h⟩

theorem test_hyp_demand_slice : ∃ s t i sl vs u0 e, let n := ringOf (getCtx s t.ctx) (field (taken t 14) 10 8)
    OnlyTransfer s 1 t ∧ field (taken t 14) 2 0 = 2 ∧ askedSlice s 1 t n = some (i, sl) ∧
    xferReads s 1 t (xferElem t) ((sliceUnits n (xferElem t) (ringWidth n) sl).map fun u => walkAddr (taken t 0) (xferDims t) (srcSteps t)
      (i * (ringTile n / xferElem t) + u)) = .ok (some vs, u0) ∧ (getCluster u0 1).transfers = [t] ∧ u0.ctxs = s.ctxs ∧
    slotLanes n ((t.firstSeq + i) % 65536) = some e := by
  obtain ⟨vs, u, h, p⟩ := read_ok (r := demandRead)
    (p := fun u => (getCluster u 1).transfers = [{ xferOf 128 0 (2 + 1 * 256) with pushed := 1 }] ∧ u.ctxs = stDemand.ctxs) (by decide +kernel)
  rw [decide_eq_true_eq] at p
  exact ⟨stDemand, { xferOf 128 0 (2 + 1 * 256) with pushed := 1 }, 0, 3, vs, u,
    { seqNorm := 0, seqScale := 0, seqMeta := 0, norm := [], scale := [], meta24 := [], fetched := 0xFF, live := true },
    by unfold OnlyTransfer; decide +kernel, by decide +kernel, by decide +kernel, h, p.1, p.2, by decide +kernel⟩

/-- A strip of one cell for the face below of part 1 of the test actor's grid slot 3. -/
def strip0 (held : Option (Nat × Nat)) : HeldStrip :=
  { strip := { lslot := 0, owner := 0, srcPart := 0, dstPart := 1, slotNo := 3, gen := 11, face := 0, cells := [(0, 42)] }, owner := who,
    held := held }
/-- A lane of INT32 for its cell 4. -/
def lane0 (scatter : Bool) : ActiveLane :=
  { from_ := who, owner := who, slotNo := 3, elem := 4, scatter := scatter, op := 0, value := 5, id := 0, lane := 0, lslot := 0, asid := 0,
    root := 0, msgid := 0, ownerIndex := 0, part := 1 }
def stAgent (q : GridSlot → GridSlot) (h : List HeldStrip) (e : List ActiveLane) : State :=
  modHub (modCluster (stGrid q 0) 1 fun k => { k with strips := h, lanes := e }) fun h => { h with launches := [(0, launch0)] }

theorem test_hyp_strip : ∀ held, (held = none ∨ held = some (128, 0)) → ∃ s c d h k v, let st := h.strip
    (getCluster s 1).strips = [h] ∧ h.toModule = none ∧ st.cells = [(k, v)] ∧ h.held = held ∧
    HoldsPart s launch0 st.lslot st.owner st.dstPart st.slotNo c d ∧
    st.gen < 2 ^ 64 ∧ 0 < strideOfSteps d ∧ TakesStrip (getCtx s c).grid[st.slotNo] d st.gen := by
  intro held h
  refine ⟨stAgent (fun q => { q with par1 := { gen := some 11, arrived := 0, got := [], rel := false } }) [strip0 held] [], who, desc0,
    strip0 held, 0, 42, ?_, rfl, rfl, rfl, ?_, ?_, ?_, .inr (.inl ?_)⟩ <;>
    rcases h with rfl | rfl <;> (try unfold HoldsPart) <;> decide +kernel

/-- The other two parities that take the strip: one that holds nothing, and one whose earlier generation is released. -/
theorem test_hyp_strip_taken : TakesStrip GridSlot.unbound desc0 11 ∧
    TakesStrip { GridSlot.unbound with par1 := { gen := some 7, arrived := 0, got := [], rel := true } } desc0 11 :=
  ⟨.inl (by decide +kernel), .inr (.inr ⟨7, by decide +kernel⟩)⟩

/-- The parity still holds generation 7, which is not released. -/
theorem test_hyp_strip_refused : ∀ held, (held = none ∨ held = some (8192, 0)) → ∃ s c d h k v, ∃ m : Word, let st := h.strip
    let par := parityAt (getCtx s c).grid[st.slotNo] (parityOf d st.gen)
    (getCluster s 1).strips = [h] ∧ h.toModule = none ∧ st.cells = [(k, v)] ∧ h.held = held ∧
    HoldsPart s launch0 st.lslot st.owner st.dstPart st.slotNo c d ∧ st.gen < 2 ^ 64 ∧ 0 < strideOfSteps d ∧
    par.gen = some m ∧ m.toNat < st.gen ∧ par.rel = false ∧ parityOf d m.toNat = parityOf d st.gen := by
  intro held h
  refine ⟨stAgent (fun q => { q with par1 := { gen := some 7, arrived := 3, got := [], rel := false } }) [strip0 held] [], who, desc0,
    strip0 held, 0, 42, 7, ?_⟩
  unfold HoldsPart
  rcases h with rfl | rfl <;> decide +kernel

theorem test_hyp_active_lane : ∀ sc, ∃ s c d e, (getCluster s 1).lanes = [e] ∧ e.away = none ∧
    HoldsPart s launch0 e.lslot e.ownerIndex e.part e.slotNo c d ∧
    e.scatter = sc ∧ e.op = 0 ∧ typeOf d = 7 := by
  intro sc
  refine ⟨stAgent id [] [lane0 sc], who, desc0, lane0 sc, ?_, ?_, ?_, rfl, rfl, by decide +kernel⟩ <;> cases sc <;> (try unfold HoldsPart) <;> decide +kernel

/-- A gather lane of module 3 for the test actor's cell 4. -/
theorem test_hyp_peer_lane : ∃ s c d, ∃ p : PeerLane, p.fromModule ≠ ownModule s ∧ p.toModule = ownModule s ∧
    HoldsPart s launch0 p.lslot p.owner p.part p.slotNo c d ∧ p.scatter = false :=
  ⟨stAgent id [] [], who, desc0,
    { fromModule := 3, toModule := 0, lslot := 0, slotNo := 3, owner := 0, part := 1, elem := 4, scatter := false, op := 0, value := 0,
      asid := 0, root := 0, msgid := 0, tag := 0, lane := 31 }, by unfold HoldsPart; decide +kernel⟩

/-! ### Service cores -/

/-- The state with service core 3 the owner of ASID 0. -/
def steer (s : State) : State := { modHub s (fun h => { h with fsteer := 0x10000 }) with mem := writeLE s.mem 0x10000 1 3 }

/-- A faulted actor, which was about to handle its mailbox 2 again, or not. -/
def stFault (src : Option TrigSource) : State :=
  steer (stLaunch launch0 fun x => { boxed 2 x with state := .faulted, resumeFrom := src })

theorem test_hyp_actctl : ∀ src, (src = none ∨ src = some (TrigSource.mailbox 2)) → ∃ s die cell core c, c.cell = (die : Fin 4).val * 512 + (cell : Fin 512).val ∧
    FaultedActor s die c ∧ Steered s (getCtx s c).ident.asid.toNat core ∧ (getCtx s c).resumeFrom = src ∧
    launchAt s (getCtx s c).ident.lslot.toNat = some launch0 ∧ launch0.gang = none ∧
    (actorOf launch0 ((getCtx s c).ident.root.toNat % 2 ^ 24)).mooring = [] ∧
    ((getCtx s c).mailboxes[(2 : Fin 8)].fifo.length = 2 ∧ (getCtx s c).mailboxes[(2 : Fin 8)].ovf = []) := by
  intro src h
  refine ⟨stFault src, 0, 5, 3, who, rfl, ?_, ?_, ?_, ?_, rfl, ?_, ?_⟩ <;> rcases h with rfl | rfl <;>
    (try unfold FaultedActor) <;> (try unfold Steered) <;> decide +kernel

/-- A faulted strand's message at cell 5. -/
def stReturned : State := steer (modCell (st id) 5 fun k => { k with returns := [{ strand0 with faulted := true, msg := { strand0.msg with gtid := 0 } }] })

theorem test_hyp_actctl_strand : ∃ s die core m, let k := getCell s 5
    k.returns = [m] ∧ k.returnWait = [] ∧ m.faulted = true ∧ m.msg.gtid = (getDie s (die : Fin 4).val).actctlId ∧ Steered s m.asid.toNat core :=
  ⟨stReturned, 0, 3, { strand0 with faulted := true, msg := { strand0.msg with gtid := 0 } }, by unfold Steered; decide +kernel⟩

theorem test_hyp_actctl_none : ∀ k, k < 16 → (getCtx (st id) { cell := 5, slot := k }).state ≠ .faulted := by decide +kernel

theorem test_hyp_notectl : ∃ s die cell core l c, let d := getDie s (die : Fin 4).val
    let id := d.noteId.toNat % 2 ^ 32
    d.noteSt.getLsbD 1 = false ∧ c.cell = die.val * 512 + (cell : Fin 512).val ∧
    ResidentAt s (BitVec.ofNat 40 (ownModule s * 2 ^ 32 + id)) l.packet.asid l c ∧ id % 2 ^ 24 < l.packet.groups * l.packet.actors ∧
    Steered s l.packet.asid.toNat core ∧ (getCtx s c).notices.length < 7 :=
  ⟨steer (stLaunch launch0 id), 0, 5, 3, launch0, who, by unfold ResidentAt Steered; decide +kernel⟩

/-- A suspended transfer that CPCTLID names. -/
def stSuspended : State :=
  steer (modDie (stXfer { xfer0 with suspended := true } id) 0 fun d => { d with cpctlId := 0x4000000000000001 })

theorem test_hyp_cpctl : ∃ s die core t, SuspendedTransfer s die 1 t ∧ Steered s t.ident.asid.toNat core := by
  refine ⟨stSuspended, 0, 3, { xfer0 with suspended := true }, ⟨by decide +kernel, by decide +kernel, rfl, by decide +kernel, by decide +kernel, ?_⟩,
    by unfold Steered; decide +kernel⟩
  intro cl t h e
  by_cases hc : cl = 1
  · subst hc
    rw [show (getCluster stSuspended 1).transfers = [{ xfer0 with suspended := true }] by decide +kernel] at h
    exact ⟨rfl, List.mem_singleton.mp h⟩
  · have : (getCluster stSuspended cl).transfers = [] := by
      have hk : stSuspended.clusters.map (·.1) = [1] := by decide +kernel
      have hn : tfind stSuspended.clusters cl = none := by
        match hcl : stSuspended.clusters, hk with
        | [(1, v)], _ => simp [tfind, Ne.symm hc]
      simp [getCluster, tget, hn, Cluster.reset]
    rw [this] at h; cases h

theorem test_hyp_lcancel : ∃ s lslot gi g core, launchAt s lslot = some launch0 ∧ Steered s launch0.packet.asid.toNat core ∧ launch0.gang = none ∧
    launch0.reserved = false ∧ tfind launch0.groups gi = some g ∧ g.retired = false ∧
    (actorOf launch0 0).place = .at who ∧ launchAt s 255 = none ∧ launch0.packet.asid.toNat ≠ 1 :=
  ⟨steer (stLaunch launch0 id), 0, 0, { cluster := 1, scratchOff := 0x1000, ctxs := [who], retired := false }, 3,
    by unfold Steered; decide +kernel⟩

/-- A fault record at the hub; service core 1's ring at 0x40000, filled up to `tail`. -/
def record0 (unit : BitVec 8) (asid : BitVec 16) : FaultRecord :=
  { code := 1, unit := unit, unitIdx := 0, asid := asid, sections := 0, ident := 0, msgid := 0, pc := 0, vaddr := 0, cursor := 0, lane := 0,
    flags := 0, dtc := 9 }
def stRecord (r : FaultRecord) (tail : BitVec 32) : State :=
  let g : FaultRing := { base := 0x40000, head := 0, tail := tail }
  modHub (steer (st id)) fun h => { h with records := [r], fsteerDef := 1, rings := (h.rings.set 1 g).set 3 g }

theorem test_hyp_record : ∀ tail, (tail = 4095 ∨ tail = 4096) →
    (∃ s r core, s.hub.records = [r] ∧ r.asid = 0 ∧ r.unit = 5 ∧ s.hub.fsteerDef.toNat % 4 = (core : Fin 4).val ∧ (s.hub.rings[core].tail = tail) ∧
      populated s (s.hub.rings[core].base.toNat / 2 ^ 18 % 2 ^ 34 * 2 ^ 18 + tail.toNat % 4096 * 64) 64 = true) ∧
    ∃ s r core, s.hub.records = [r] ∧ ¬ (r.asid = 0 ∧ r.unit = 5) ∧ Steered s r.asid.toNat core ∧ s.hub.rings[core].tail = tail ∧
      populated s (s.hub.rings[core].base.toNat / 2 ^ 18 % 2 ^ 34 * 2 ^ 18 + tail.toNat % 4096 * 64) 64 = true := by
  intro tail h
  refine ⟨⟨stRecord (record0 5 0) tail, record0 5 0, 1, rfl, rfl, rfl, ?_, ?_, ?_⟩,
    ⟨stRecord (record0 1 0) tail, record0 1 0, 3, rfl, by decide, ?_, ?_, ?_⟩⟩ <;> rcases h with rfl | rfl <;>
    (try unfold Steered) <;> decide +kernel

theorem test_hyp_memory_error : canIssue (getCtx (st id) who) = true ∧ (getCtx (st id) who).sec.commit = none := by decide +kernel

/-- A context halted for a reason, or running under debug. -/
def stHalted (halted : Bool) (reason : Nat) : State :=
  steer (stLaunch { launch0 with packet := { launch0.packet with flags := 0x10 } }
    fun x => { x with dbg := { x.dbg with halted := halted, reason := reason, detail := 65535 } })

theorem test_hyp_dbgctl : ∀ halted reason, (halted = false ∨ halted = true) → (reason = 1 ∨ reason = 2) →
    ∃ s die cell core c, let x := getCtx s c
      c.cell = (die : Fin 4).val * 512 + (cell : Fin 512).val ∧ HaltTarget s die c ∧ Steered s x.ident.asid.toNat core ∧
      x.dbg.halted = halted ∧ x.dbg.reason = reason ∧ x.dbg.detail = 65535 ∧ x.state = .running ∧ underDebug s c = true := by
  intro halted reason h1 h2
  refine ⟨stHalted halted reason, 0, 5, 3, who, rfl, ?_, ?_, ?_, ?_, ?_, ?_, ?_⟩ <;> rcases h1 with rfl | rfl <;> rcases h2 with rfl | rfl <;>
    (try unfold HaltTarget) <;> (try unfold Steered) <;> decide +kernel

theorem test_hyp_timing_dump : ∀ b, (b = none ∨ b = some (511, true)) → ∃ s die, let d := getDie s (die : Fin 4).val
    d.ttDump = b ∧ populated s (d.ttAddr.toNat / 64 % 2 ^ 46 * 64) 1584 = true ∧ d.ttAddr = 0x5040 := by
  intro b h
  refine ⟨modDie (st id) 3 fun d => { d with ttDump := b, ttAddr := 0x5040 }, 3, ?_, ?_, ?_⟩ <;> rcases h with rfl | rfl <;> decide +kernel

theorem test_hyp_registers : (dieRegister (getDie (st id) 3) 0x080000).isSome = true ∧ (hubRegister (st id).hub 0x0B0010).isSome = true := by
  decide +kernel

/-! ### Dispatch -/

def okAnd {ε α : Type} (r : Except ε α) (p : α → Bool) : Bool :=
  match r with
  | .ok a => p a
  | .error _ => false
theorem ok_ex {ε α : Type} {r : Except ε α} {p : α → Bool} (h : okAnd r p = true) : ∃ a, r = .ok a ∧ p a = true := by
  match r, h with
  | .ok a, h => exact ⟨a, rfl, h⟩

/-- Queue 63, of two slots at 0x2000, its tail word at 0x3000. -/
def queue0 : Queue := { Queue.reset with qctl := 0x8001, qbase := 0x2000, qtailpa := 0x3000 }
def stQueue (q : Queue) (tailWord : Nat) : State :=
  let s := modHub stTable fun h => { h with bootStep := 9, queues := h.queues.set 63 q, launches := [(0, launch0)] }
  { s with mem := writeLE s.mem 0x3000 8 tailWord }

theorem test_hyp_tail : ∀ n, (n = 2 ∨ n = 3) → ∃ s, let x := s.hub.queues[(63 : Fin 64)]
    s.hub.bootStep = 9 ∧ QueueWorks x ∧ populated s (tailAddr x) 8 = true ∧
    ((readWord s.mem (physKey s (tailAddr x))).setWidth 32 - x.qhead).toNat = n ∧ x.arrivals.length ≤ n ∧ queueSlots x = 2 := by
  intro n h
  refine ⟨stQueue { queue0 with qhead := 0xFFFFFFFF } (n - 1), ?_⟩
  rcases h with rfl | rfl <;> (unfold QueueWorks; decide +kernel)

/-- A LAUNCH request whose packet stands at VA 0x4000. -/
def req0 : LaunchReq := { asid := 0, ident := 0, va := 0x4000, queue := 63 }
def stRequest (tailWord : Nat) : State := modHub (stQueue queue0 tailWord) fun h => { h with launchReqs := [req0] }

/-- What the statement asks of the queue after the packet's read: its tail word is `n` ahead of its head. -/
def requestRoom (s1 : State) (n : Nat) : Bool :=
  let x := queueOf s1 63
  let tail := tailAddr x
  let t : BitVec 32 := (readWord s1.mem (physKey s1 tail)).setWidth 32
  let slot := slotAddr x t.toNat
  decide ((1 ≤ x.qctl.toNat % 32 ∧ x.qctl.toNat % 32 ≤ 16) ∧ populated s1 tail 8 = true ∧ (t - x.qhead).toNat = n ∧ queueSlots x = 2 ∧
    populated s1 slot 128 = true ∧ (tail + 8 ≤ slot ∨ slot + 128 ≤ tail))

theorem test_hyp_launch_request : ∀ n, (n = 1 ∨ n = 2) → ∃ s ws s1, s.hub.launchReqs = [req0] ∧ req0.queue = 63 ∧
    hubWords s req0.asid req0.va 16 = .ok (ws, s1) ∧ requestRoom s1 n = true := by
  intro n h
  obtain ⟨⟨ws, s1⟩, e, p⟩ := ok_ex (r := hubWords (stRequest n) req0.asid req0.va 16) (p := fun q => requestRoom q.2 n)
    (by rcases h with rfl | rfl <;> decide +kernel)
  exact ⟨stRequest n, ws, s1, rfl, rfl, e, p⟩

/-- Its page is in no table. -/
theorem test_hyp_launch_request_stalls : ∃ s r va code cause, s.hub.launchReqs = [r] ∧
    hubWords s r.asid r.va 16 = .error (.stall va code cause) := by
  let r : LaunchReq := { req0 with va := 0x7FFFFFFF0000 }
  let s := modHub (stRequest 1) fun h => { h with launchReqs := [r] }
  have h : (match hubWords s r.asid r.va 16 with | .error (.stall ..) => true | _ => false) = true := by decide +kernel
  match e : hubWords s r.asid r.va 16, h with
  | .error (.stall va code cause), _ => exact ⟨s, r, va, code, cause, rfl, e⟩

/-- A launch packet of one group of one actor with 4 KiB of frame, at the queue's head; `flags` and the group count. -/
def packetWords (flags groups : Nat) : List Nat := [flags * 2 ^ 24 + 2 ^ 32, 0, 0, 0, 0, 99, groups + 64 * 2 ^ 32 + 2 ^ 48, 0x8000, 0, 2 ^ 0]
def stHead (flags groups : Nat) : State :=
  let s := modHub (stQueue { queue0 with tail := 1, arrivals := [5] } 1) fun h => h
  { s with mem := ((upFrom 0 10).foldl (fun m i => writeLE m (0x2000 + 8 * i) 8 ((packetWords flags groups).getD i 0)) s.mem), dtc := 0x3B9ACA05 }
def packet0 (flags groups : Nat) : Packet :=
  { Packet.zero with flags := BitVec.ofNat 8 flags, groups := groups, args := 99, frame := 64, wdog := 1, scratch := 0x8000 }

/-- The mailbox declarations of a page of zeros. -/
def noBoxes : Vector Mailbox 8 := Vector.replicate 8 { Mailbox.none with cap := 1 }

theorem good_of {x : Queue} {p : Packet} {t : Tables} (b : t.boxes = noBoxes)
    (h : PacketGood x p { boxes := noBoxes, routines := Vector.replicate 64 0, consts := Vector.replicate 64 0, members := [] }) :
    PacketGood x p t := by
  unfold PacketGood at h ⊢; rw [b]; exact h

/-- The arrival is the only one of its queue. -/
theorem head_of {A B C D E F G H I : Prop} {l : List Word} {a : Word} {R : Prop}
    (h : (A ∧ B ∧ C ∧ D ∧ E ∧ F ∧ G ∧ H ∧ I) ∧ l = [a]) (r : R) :
    A ∧ B ∧ C ∧ D ∧ E ∧ F ∧ G ∧ H ∧ I ∧ (∃ q, l = a :: q) ∧ R := by
  obtain ⟨⟨h1, h2, h3, h4, h5, h6, h7, h8, h9⟩, e⟩ := h
  exact ⟨h1, h2, h3, h4, h5, h6, h7, h8, h9, ⟨[], e⟩, r⟩

/-- A good packet that comes in time, and one of no group. -/
theorem test_hyp_selection : ∀ groups, (groups = 1 ∨ groups = 0) → ∃ s p t s1,
    OnlyHead s 63 p 5 ∧ LowestFree s 1 ∧ readTables s p = .ok (t, s1) ∧ completionWaits s p = false ∧ p.groups = groups ∧
    (groups = 1 → PacketGood s.hub.queues[(63 : Fin 64)] p t) ∧ (effectiveDeadline s.hub.queues[(63 : Fin 64)] p 5).toNat = s.dtc.toNat := by
  intro groups h
  obtain ⟨⟨t, s1⟩, e, b⟩ := ok_ex (r := readTables (stHead 0 groups) (packet0 0 groups)) (p := fun a => decide (a.1.boxes = noBoxes))
    (by rcases h with rfl | rfl <;> decide +kernel)
  refine ⟨stHead 0 groups, packet0 0 groups, t, s1, ?_, ?_, e, ?_, rfl, fun g => ?_, ?_⟩
  · rcases h with rfl | rfl <;> (unfold OnlyHead QueueWorks; exact head_of (by decide +kernel) (by decide +kernel))
  · rcases h with rfl | rfl <;> (unfold LowestFree; decide +kernel)
  · rcases h with rfl | rfl <;> decide +kernel
  · subst g; exact good_of (of_decide_eq_true b) (by unfold PacketGood; decide +kernel)
  · rcases h with rfl | rfl <;> decide +kernel

/-- A packet marked DROPLATE that comes one nanosecond late. -/
def stLate : State := { stHead 4 1 with dtc := 0x3B9ACA06 }
theorem test_hyp_dropped_late : ∃ s p t s1, OnlyHead s 63 p 5 ∧ LowestFree s 1 ∧ readTables s p = .ok (t, s1) ∧
    completionWaits s p = false ∧ PacketGood s.hub.queues[(63 : Fin 64)] p t ∧
    (effectiveDeadline s.hub.queues[(63 : Fin 64)] p 5).toNat < s.dtc.toNat ∧ p.flags.getLsbD 2 = true := by
  obtain ⟨⟨t, s1⟩, e, b⟩ := ok_ex (r := readTables stLate (packet0 4 1)) (p := fun a => decide (a.1.boxes = noBoxes)) (by decide +kernel)
  refine ⟨stLate, packet0 4 1, t, s1, ?_, by unfold LowestFree; decide +kernel, e, by decide +kernel,
    good_of (of_decide_eq_true b) (by unfold PacketGood; decide +kernel), by decide +kernel⟩
  unfold OnlyHead QueueWorks
  exact head_of (by decide +kernel) (by decide +kernel)

theorem test_hyp_completion_record : ∃ (s : State) (p : Packet) (a b : Nat) (s1 : State),
    completionPlaces s p = .ok (a, b, s1) ∧ p.compl.toNat % 64 = 0 ∧ a % 64 = 0 ∧ a / 2 ^ 60 = ownModule s ∧
    foldedAway s.hub.outMem (keyPa a) = false ∧ foldedAway s.hub.outMem (keyPa b) = false := by
  let s := stQueue queue0 0
  let p : Packet := { Packet.zero with compl := 0xFFC0 }
  obtain ⟨⟨a, b, s1⟩, e, h⟩ := ok_ex (r := completionPlaces s p) (p := fun q =>
    decide (q.1 % 64 = 0 ∧ q.1 / 2 ^ 60 = ownModule s ∧ foldedAway s.hub.outMem (keyPa q.1) = false ∧
      foldedAway s.hub.outMem (keyPa q.2.1) = false)) (by decide +kernel)
  rw [decide_eq_true_eq] at h
  exact ⟨s, p, a, b, s1, e, by decide, h⟩

/-! ### Placement, eviction, retirement -/

/-- A launch of one group of five actors, 4 KiB of frame each and 32 KiB of scratch. -/
def waits0 : Launch := { Launch.zero with packet := { packet0 0 1 with actors := 5 } }
def stWaits (l : Launch) : State := modHub State.reset fun h => { h with launches := [(255, l)], rotation := 3 }
def choice0 : PlaceChoice := { scratchOff := 0x80000, frameOffs := [0x90000, 0x91000, 0x92000, 0x93000, 0x94000] }

theorem test_hyp_placement : ∃ s l ch r, OnlyLaunch s 255 l ∧ l.gang = none ∧ l.evicted = false ∧ l.nextGroup < l.packet.groups ∧
    l.packet.groups * l.packet.actors ≤ 2 ^ 24 ∧ (∀ m, (actorOf l m).mooring = []) ∧ nextDie s l = some ((3 : Fin 4).val, 384 :: r) ∧
    choiceOk s l.packet 384 ch = true ∧ 255 < 256 :=
  ⟨stWaits waits0, waits0, choice0, [], by unfold OnlyLaunch; decide +kernel, rfl, rfl, by decide, by decide, fun _ => rfl, by decide +kernel⟩

def evicts0 : Launch := { launch0 with evicting := true }

theorem test_hyp_eviction : ∀ r, (r = RunState.idle ∨ r = RunState.faulted) → ∃ s c l, let x := getCtx s c
    c.slot < 16 ∧ x.state = r ∧ launchAt s x.ident.lslot.toNat = some l ∧ l.evicting = true ∧
    ∀ o ∈ (getCluster s (c.cell / 4)).eme, o.stop = false := by
  intro r h
  refine ⟨stLaunch evicts0 fun x => { x with state := r }, who, evicts0, ?_⟩
  rcases h with rfl | rfl <;> decide +kernel

theorem test_hyp_shared_save : ∃ s l gi g c, s.hub.launches = [(0, l)] ∧ l.gang = none ∧ l.evicting = true ∧ l.groups = [(gi, g)] ∧
    g.retired = false ∧ g.ctxs = [c] ∧ (getCtx s c).state = .evicted ∧ (∀ p ∈ s.ctxs, 16 ≤ p.1 % 32 → p.2.state ≠ .running) ∧
    (∀ p ∈ s.cells, p.2.returns = [] ∧ p.2.arrivals = [] ∧ p.2.returnWait = []) ∧ l.sov = [] :=
  ⟨stLaunch evicts0 fun x => { x with state := .evicted }, evicts0, 0, { cluster := 1, scratchOff := 0x1000, ctxs := [who], retired := false }, who,
    by decide +kernel⟩

/-- A launch whose one group is saved. -/
def saved0 : SavedCtx :=
  { group := 0, member := 0, ctx := { ctx0 with state := .idle }, frame := List.replicate 0x1000 1, accs := [], ops := [], transfers := [] }
def savedGroup0 : SavedGroup := { group := 0, scratch := List.replicate 0x100 2, strips := [], barriers := [] }
def away0 : Launch :=
  { Launch.zero with packet := { packet0 0 1 with scratch := 0x100 }, nextGroup := 1, evicted := true, saved := [saved0], savedGroups := [savedGroup0],
                     actors := [(0, { place := .evicted, mooring := [], taken := 0 })] }
def choice1 : PlaceChoice := { scratchOff := 0x80000, frameOffs := [0x90000] }

theorem saved_length : saved0.frame.length = 4096 := by unfold saved0; exact List.length_replicate

theorem test_hyp_re_placement : ∃ s l ch r sg v, OnlyLaunch s 255 l ∧ l.gang = none ∧ l.evicted = true ∧ l.packet.actors = 1 ∧ l.groups = [] ∧
    l.savedGroups = [sg] ∧ l.saved = [v] ∧ v.group = sg.group ∧ v.member = 0 ∧ v.ops = [] ∧ v.transfers = [] ∧ v.ctx.state = .idle ∧
    sg.scratch.length = l.packet.scratch ∧ v.frame.length = 64 * l.packet.frame ∧ (∀ m, (actorOf l m).mooring = []) ∧ l.strandMooring = [] ∧
    v.ctx.routines[1].getLsbD 0 = false ∧ nextDie s l = some ((3 : Fin 4).val, 384 :: r) ∧ choiceOk s l.packet 384 ch = true := by
  refine ⟨stWaits away0, away0, choice1, [], savedGroup0, saved0, ⟨rfl, by decide +kernel⟩, rfl, rfl, rfl, rfl, rfl, rfl, rfl, rfl, rfl,
    rfl, rfl, by decide +kernel, by rw [saved_length]; decide +kernel, fun m => ?_, rfl, by decide +kernel⟩
  cases m <;> rfl

theorem test_hyp_retirement : ∃ s l gi g c, s.hub.launches = [(0, l)] ∧ l.gang = none ∧ l.cancelled = false ∧ l.reserved = false ∧
    l.groups = [(gi, g)] ∧ g.retired = false ∧ g.ctxs = [c] ∧ l.packet.groups ≤ l.nextGroup ∧ l.savedGroups = [] ∧
    (getCtx s c).state = .ended ∧ (getCtx s c).sec.buffer = [] ∧ (getCluster s (c.cell / 4)).eme = [] ∧
    (getCluster s (c.cell / 4)).transfers = [] ∧ (∀ k ∈ s.cells, k.2.regq = []) ∧ s.gwq = [] ∧
    unpropagated s c.cell (.ctx c) = false ∧ completionWaits (freeGroup s 0 gi g) l.packet = false :=
  ⟨stLaunch launch0 fun x => { x with state := .ended }, launch0, 0, { cluster := 1, scratchOff := 0x1000, ctxs := [who], retired := false }, who,
    by decide +kernel⟩

/-! ### Gangs -/

theorem any_ex {α : Type} {o : Option α} {p : α → Bool} (h : o.any p = true) : ∃ a, o = some a ∧ p a = true := by
  match o, h with
  | some a, h => exact ⟨a, rfl, h⟩

/-- A request to the second of two members, modules 5 and 0; `actors` to a group. -/
def gangReq (actors : Nat) : GangRequest :=
  let p := [2 ^ 24 + actors * 2 ^ 32, 0, 0, 0, 0, 99, 1 + 64 * 2 ^ 32, 0x8000, 9 * 2 ^ 32, 2 + 2 ^ 16]
  { coordinator := 5, gangId := 9, asid := 7, member := 1, groups := 1,
    packet := (p.map (BitVec.ofNat 64)) ++ List.replicate 151 0 ++ [5] }

/-- Room on die 1. -/
theorem test_hyp_gang_request : ∃ s req n f, requestOk s req = true ∧ gangLaunch s req = none ∧ LowestFree s n ∧
    (let new := requestLaunch s n req
     let t := modHub s fun h => { h with launches := tput h.launches n new }
     fitAll t new (dieOrder t) new.packet.groups = some f ∧ f = [128]) :=
  ⟨modHub (stLaunch launch0 id) fun h => { h with rotation := 1 }, gangReq 16, 1, [128], by decide +kernel, by decide +kernel,
    by unfold LowestFree; decide +kernel⟩

/-- No group of 200 actors fits a cluster. -/
theorem test_hyp_gang_no_room : ∃ s req n, requestOk s req = true ∧ gangLaunch s req = none ∧ LowestFree s n ∧
    (let new := requestLaunch s n req
     let t := modHub s fun h => { h with launches := tput h.launches n new }
     fitAll t new (dieOrder t) new.packet.groups = none) :=
  ⟨stLaunch launch0 id, gangReq 200, 1, by decide +kernel, by decide +kernel, by unfold LowestFree; decide +kernel⟩

/-- A gang of three members, of which this module is the first and the coordinator, or the last. -/
def gang1 : Gang :=
  { member := 0, coordinator := true, modules := [0, 5, 6], slots := [0, 0, 0], state := 0, departed := [], cause := 0, detached := 0,
    ownDetached := 0, endedRanks := [], answers := [(0, true)], committed := false, blocked := false, retired := [], asked := true }
def gang2 : Gang := { gang1 with member := 2, coordinator := false, modules := [5, 6, 0], answers := [], asked := false }
def group0 : Group := { cluster := 1, scratchOff := 0, ctxs := [{ cell := 4, slot := 0 }], retired := false }
def held0 (g : Gang) : Launch :=
  { launch0 with packet := { packet0 1 1 with gangn := 3, kshare := 1 }, actors := [], groups := [(0, group0)], gang := some g, reserved := true }

/-- Member 1's answer is the last, or, with member 2's still to come, it is not. -/
theorem test_hyp_gang_answer : ∀ final : Bool, ∃ s l g m, launchAt s 0 = some l ∧ l.gang = some g ∧ g.coordinator = true ∧
    l.cancelled = false ∧ m < g.modules.length ∧ m ≠ g.member ∧ m ∉ g.departed ∧ g.asked = true ∧ (∀ a ∈ g.answers, a.1 ≠ m ∧ a.2 = true) ∧
    l.reserved = true ∧
    ((∀ k, k < g.modules.length → k ≠ m → k ∈ g.departed ∨ ∃ b, (k, b) ∈ g.answers) ↔ final = true) := by
  intro final
  let g := { gang1 with answers := if final then [(0, true), (2, true)] else [(0, true)] }
  refine ⟨stLaunch (held0 g) id, held0 g, g, 1, ?_⟩
  cases final <;> decide +kernel

theorem test_hyp_gang_abandon : ∃ s l g, launchAt s 0 = some l ∧ l.gang = some g ∧ l.reserved = true ∧ g.coordinator = false :=
  ⟨stLaunch (held0 gang2) id, held0 gang2, gang2, by decide +kernel⟩

/-- An eviction begins where the pool has room for all that the saved state may take. -/
theorem eviction_begins {s : State} {ls : Nat} {l : Launch}
    (h : s.hub.evpoolUse.toNat + (recordBytes l / 65536 + 1 + 65535) ≤ s.hub.evpoolSz.toNat % 2 ^ 32) :
    (beginEviction s ls l).isSome = true := by
  have b := (Sys2Proof.Config.saveBlocks s.freeCtr).isLt
  have f : poolFits s (recordBytes l / 65536 + 1 + (Sys2Proof.Config.saveBlocks s.freeCtr).toNat) = true := by
    unfold poolFits; exact decide_eq_true (by omega)
  simp [beginEviction, poolTake, f]

/-- A launch of a committed gang, and a pool of 2^20 blocks. -/
def gangRuns : Launch := { launch0 with gang := some { gang2 with committed := true, departed := [0] } }
theorem test_hyp_gang_evicted : ∃ s l g, launchAt s 0 = some l ∧ l.gang = some g ∧ g.committed = true ∧ l.reserved = false ∧
    l.evicting = false ∧ l.evicted = false ∧ l.cancelled = false ∧ (beginEviction s 0 l).isSome = true :=
  ⟨modHub (stLaunch gangRuns id) fun h => { h with evpoolSz := 0x100000 }, gangRuns, { gang2 with committed := true, departed := [0] },
    by decide +kernel, rfl, rfl, rfl, rfl, rfl, rfl, eviction_begins (by decide +kernel)⟩

/-- An actor of a committed gang with an access to the window outstanding. -/
def stWindow : State :=
  stLaunch gangRuns fun x => { x with loads := [{ load0 (.x 10 8 false) none none with window := true }] }

theorem test_hyp_collapse : ∃ s l g d, launchAt s 0 = some l ∧ l.gang = some g ∧ d < g.modules.length ∧ d ≠ g.member ∧ g.committed = true ∧
    d ∉ g.departed ∧ g.departed ≠ [] ∧ (actorOf l 0).place ≠ .ended ∧
    (let x := getCtx s who
     who.slot < 16 ∧ x.state = .running ∧ x.ident.lslot.toNat = 0 ∧ (∃ p ∈ x.loads, p.window = true ∧ p.value = none) ∧
     NotReleasing x) :=
  ⟨stWindow, gangRuns, { gang2 with committed := true, departed := [0] }, 1, by unfold NotReleasing; decide +kernel⟩

theorem test_hyp_gang_commit : ∃ s l g gi gr cs ch, s.hub.launches = [(0, l)] ∧ l.gang = some g ∧ commitReady l g = true ∧
    l.reserved = true ∧ l.evicted = false ∧ l.savedGroups = [] ∧ l.packet.csmode = 0 ∧ 1 ≤ l.packet.actors ∧ l.packet.actors ≤ 16 ∧
    l.packet.groups * l.packet.actors ≤ 2 ^ 24 ∧ gi < l.packet.groups ∧ l.groups = [(gi, gr)] ∧
    gr.ctxs = cs ∧ gr.retired = false ∧ cs.length = l.packet.actors ∧
    (∀ (m : Nat) (c : CtxId), cs[m]? = some c → c.cell = gr.cluster * 4 + m % 4 ∧ c.slot < 16 ∧ (getCtx s c).state = .free) ∧ cs.Nodup ∧
    (∀ m, (actorOf l m).mooring = []) ∧
    let s1 := modLaunch s 0 fun k => { k with reserved := false, gang := some (committedGang l g 0 [1, 2, 0]) }
    ∃ s2, storeGangSlot s1 0 l g = some s2 ∧ choiceOk s2 l.packet gr.cluster ch = true := by
  refine ⟨modHub State.reset fun h => { h with launches := [(0, held0 gang2)] }, held0 gang2, gang2, 0, group0, group0.ctxs, choice1, rfl, rfl,
    by decide +kernel, rfl, rfl, rfl, rfl, by decide, by decide, by decide, by decide, rfl, rfl, rfl, rfl, fun m c e => ?_, by decide,
    fun _ => rfl, any_ex (by decide +kernel)⟩
  match m, e with
  | 0, e => cases e; decide +kernel

/-- Requests to member 0's share, module 5: a store, a load and an atomic of the test actor. -/
def shareWord : Nat := 5 * 2 ^ 60 + 2 * 2 ^ 56 + 0x40
def keyReq0 (w : Option WordStore) (a : Option AtomicOp) : KeyReq :=
  { ctx := who, id := 0, addr := shareWord, member := 0, lslot := 0, store := w, origin := .ctx who, atomic := a }
def stShare (g : Gang) (q : GwId) (e : List GwEntry) : State :=
  { stLaunch { launch0 with gang := some g } (fun x => { x with loads := [load0 (.x 10 8 false) none none] }) with gwq := [(q, e)] }

/-- A request at the head of the queue to module 5, with the window ACTIVE and with it collapsed. -/
theorem test_hyp_share_request : ∀ c : Bool, ∃ (s : KeyReq → State) (w : WordStore) (a : AtomicOp),
    (∀ r ∈ [keyReq0 (some w) none, keyReq0 none none, keyReq0 none (some a)],
      ShareHead (s r) 5 r [] ∧ collapsed (s r) r.lslot = c) ∧
    w.addr % 8 = 0 ∧ keySpace w.addr = 2 ∧ keySpace a.byteAddr = 2 ∧ (keyReq0 none none).addr % 8 = 0 := by
  intro c
  let g := { gang2 with committed := true, state := if c then 3 else 1 }
  refine ⟨fun r => stShare g (.module 0 5) [.share r], store0 shareWord, { amo0 with byteAddr := shareWord }, ?_⟩
  unfold ShareHead
  cases c <;> decide +kernel

theorem test_hyp_share_reply : ∃ s r v p d, gwEntries s (.module 5 (ownModule s)) = [.shareReply r v] ∧ r.origin = .ctx r.ctx ∧
    r.atomic = none ∧ (getCtx s r.ctx).loads = [p] ∧ p.id = r.id ∧ p.dest = .x d 8 false ∧ p.byteOff = 0 ∧ p.haveMask = 0 :=
  ⟨stShare { gang2 with committed := true, state := 1 } (.module 5 0) [.shareReply (keyReq0 none none) 42], keyReq0 none none, 42,
    load0 (.x 10 8 false) none none, 10, by decide +kernel⟩

/-- Module 5 asks for a word of this member's share, before and after a collapse. -/
theorem test_hyp_share_of_peer : ∀ k : Fin 4, (k = 1 ∨ k = 3) → ∃ s l g gr off, 5 ≠ ownModule s ∧
    gwEntries s (.module 5 (ownModule s)) = [] ∧ launchAt s 0 = some l ∧ l.gang = some g ∧ 5 ∈ g.modules ∧ l.evicted = false ∧
    tfind l.groups 0 = some gr ∧ storeKey (ownModule s) gr.cluster gr.scratchOff % 8 = 0 ∧ g.state = k ∧ off = 2 ^ 20 := by
  intro k h
  let g := { gang2 with committed := true, state := k }
  refine ⟨stShare g (.module 5 0) [], { launch0 with gang := some g }, g,
    { cluster := 1, scratchOff := 0x1000, ctxs := [who], retired := false }, 2 ^ 20, ?_⟩
  rcases h with rfl | rfl <;> decide +kernel

/-- The one contribution to reduction 15 of a launch of one actor. -/
def nred0 : Contribution := { lslot := 0, n := 15, nd := false, op := 2, typ := 2, rank := 0, data := 77, dstOff := 0x1000, actid := 0 }

theorem test_hyp_reduction_alone : ∃ s con l c, s.hub.nreds = [con] ∧ con.typ = 2 ∧ con.rank = 0 ∧ launchAt s con.lslot = some l ∧ l.gang = none ∧
    l.packet.groups = 1 ∧ l.packet.actors = 1 ∧ tfind l.reductions con.n.val = none ∧ (actorOf l 0).place = .at c :=
  ⟨modHub (stLaunch launch0 id) fun h => { h with nreds := [nred0] }, nred0, launch0, who, by decide +kernel⟩

/-- Member 1's contribution to a reduction of the three members, this module being the last. -/
theorem test_hyp_reduction_of_peer : ∃ (s : State) (con : Contribution) (l : Launch) (g : Gang), launchAt s con.lslot = some l ∧ l.gang = some g ∧ 1 ≤ l.packet.groups * l.packet.actors ∧
    con.rank / (l.packet.groups * l.packet.actors) = 1 ∧ 1 < g.modules.length ∧ 1 ≠ g.member ∧ rankEnded l con.rank = false ∧
    g.member < g.modules.length ∧ g.member ∉ g.departed ∧ tfind l.reductions con.n.val = none ∧
    ∃ k, k < l.packet.groups * l.packet.actors ∧ (actorOf l k).place ≠ .ended :=
  ⟨stWindow, { nred0 with rank := launch0.packet.groups * launch0.packet.actors }, gangRuns, { gang2 with committed := true, departed := [0] },
    by decide +kernel⟩

/-! ### Links and the device -/

def unit0 (pseq : BitVec 16) : WireUnit := { sealed := true, kind0 := 0, kind1 := 1, pseq := pseq, cipher := 0, tag := 0 }

/-- Whether the unit opens is AES-GCM's answer, which the model leaves free; each clause of the statement takes one answer. -/
theorem test_hyp_flit : ∀ failures counter next,
    (failures = 0 ∧ counter = 4 ∧ next = none ∨ failures = 63 ∧ counter = lastCounter ∧ next = some ((5 : BitVec 256), (6 : BitVec 48))) →
    ∃ (s : State) (w : WireUnit) (k : BitVec 256), let x := s.hub.ports[(29 : Fin 30)]
      DueUnit s 29 w k ∧ x.failures = failures ∧ x.inn.counter = counter ∧ x.inn.nextKey = next ∧ (failures = 63 ↔ w.pseq ∈ x.nak) := by
  intro failures counter next h
  refine ⟨stPort { port0 counter next with failures := failures, nak := if failures = 63 then [0xFFFF] else [] },
    unit0 (if failures = 63 then 0xFFFF else 2), 1, ?_⟩
  rcases h with ⟨rfl, rfl, rfl⟩ | ⟨rfl, rfl, rfl⟩ <;> (unfold DueUnit PortUsed; decide +kernel)

/-- A one-flit packet from the module at the far end of row 0, first or second of its channel. -/
def ryPacket0 (seq : Nat) : RyPacket := { src := 240, dst := 0, channel := 2, seq := seq, flits := [7], route := [] }

theorem test_hyp_packet : ∀ seq, (seq = 0 ∨ seq = 1) → ∃ s : State, let x := s.hub.ports[(29 : Fin 30)]
    DueUnit s 29 (unit0 2) 1 ∧ x.inn.counter ≠ lastCounter ∧ ComesIn s x (x.received ++ [8]) (ryPacket0 seq) ∧ s.hub.reorder = [] ∧
    (tget s.hub.recvSeq 0 (240 * 8 + 2) = seq ↔ seq = 0) := by
  intro seq h
  refine ⟨stPort { port0 4 none with received := [7] }, ?_⟩
  rcases h with rfl | rfl <;>
    exact ⟨by unfold DueUnit PortUsed; decide +kernel, by decide +kernel,
      ⟨by decide, by decide, by decide +kernel, by decide +kernel, rfl, ⟨[8], rfl⟩, by decide +kernel⟩, rfl, by decide +kernel⟩

theorem test_hyp_lend : ∃ (s : State) (occ : List Nat), let x := s.hub.ports[(29 : Fin 30)]
    occ = (List.range 6).map (occupied x) ∧ 0 < occ.sum ∧ SendsControl x ∧ x.announced.length = 6 :=
  ⟨stPort { port0 0 none with inBuf := [ryPacket0 0] }, [0, 0, 1, 0, 0, 0], by unfold SendsControl Sends; decide +kernel⟩

theorem test_hyp_lend_received : ∀ n, (n = none ∨ n = some 7) → ∃ (s : State) (seq : Nat) (limits : List Nat), let x := s.hub.ports[(29 : Fin 30)]
    SendsControl x ∧ NothingWaits s x ∧ limits.length = 6 ∧ (∀ n ∈ limits, 8 ≤ n) ∧ limits.sum = 256 ∧ x.lendApplied = n ∧ seq = 6 := by
  intro n h
  refine ⟨stPort { port0 0 none with lendApplied := n }, 6, [216, 8, 8, 8, 8, 8], ?_⟩
  rcases h with rfl | rfl <;> (unfold SendsControl Sends NothingWaits; decide +kernel)

/-- Channel 2 holds one flit: its new limit is above that, or not. -/
theorem test_hyp_lend_acknowledged : ∀ limit, (limit = 1 ∨ limit = 8) → ∃ (s : State) (seq ch freed : Nat), let x := s.hub.ports[(29 : Fin 30)]
    x.up = true ∧ seq < x.lendSeq ∧ ch < 6 ∧
    x.waiting = [{ seq := seq, channel := ch, limit := limit, freed := freed, acked := false }] ∧ (occupied x ch < limit ↔ limit = 8) := by
  intro limit h
  refine ⟨stPort { port0 0 none with inBuf := [ryPacket0 0], lendSeq := 1, waiting := [{ seq := 0, channel := 2, limit := limit, freed := 34, acked := false }] },
    0, 2, 34, ?_⟩
  rcases h with rfl | rfl <;> decide +kernel

theorem test_hyp_credit : ∃ s : State, let x := s.hub.ports[(29 : Fin 30)]
    x.up = true ∧ 0 < x.inFlight.getD 5 0 ∧ 0 < x.inClass.getD (4 * 5 + 3) 0 ∧ NothingWaits s x :=
  ⟨stPort { port0 0 none with inFlight := [0, 0, 0, 0, 0, 1], inClass := List.replicate 23 0 ++ [1] }, by
    unfold NothingWaits; decide +kernel⟩

theorem test_hyp_key_switch : ∀ next, (next = none ∨ next = some ((5 : BitVec 256), (6 : BitVec 48))) → ∃ s : State, let x := s.hub.ports[(29 : Fin 30)]
    Sends x ∧ x.out.counter = lastCounter ∧ x.inFlight.getD 3 0 < x.limits.getD 3 0 ∧ x.out.nextKey = next ∧ NothingWaits s x := by
  intro next h
  refine ⟨stPort (port0 lastCounter next), ?_⟩
  rcases h with rfl | rfl <;> (unfold Sends NothingWaits; decide +kernel)

theorem test_hyp_key_install : ∀ up, ∃ s : State, PortUsed s.hub 29 ∧ 29 ∉ s.hub.outPorts ∧ s.hub.ports[(29 : Fin 30)].up = up ∧
    NothingWaits s s.hub.ports[(29 : Fin 30)] ∧ s.hub.ports[(29 : Fin 30)].out.key.isSome = true := by
  intro up
  refine ⟨stPort { port0 4 none with up := up }, ?_⟩
  cases up <;> (unfold PortUsed NothingWaits; decide +kernel)

theorem test_hyp_capability : ∃ (s : State) (m : Nat), m / 16 ≤ s.hub.rowsM1.toNat ∧ m % 16 ≤ s.hub.colsM1.toNat ∧ m ≠ ownModule s ∧ m = 255 ∧
    portOpen s 29 = true ∧ partnerModule s 29 ≠ m ∧ tfind s.hub.caps m ≠ some 1 :=
  ⟨stPort (port0 4 none), 255, by unfold partnerModule; decide +kernel⟩

theorem test_hyp_link_loss : ∃ s : State, s.hub.ports[(29 : Fin 30)].up = true ∧ s.hub.launches ≠ [] ∧ ∀ e ∈ s.hub.launches, e.2.gang = none :=
  ⟨modHub (stPort (port0 4 none)) fun h => { h with launches := [(255, launch0)] }, by decide +kernel⟩

/-- The power is on or off; bring-up is at a step, the flash slot 0 has eight empty images. -/
def stBoot (step : Nat) : State := modHub State.reset fun h => { h with bootStep := step, flash := [{ images := List.replicate 8 [] }] }

theorem test_hyp_power : ({ State.reset with power := false } : State).power = false ∧
    ∃ s : State, ∃ j r, s.hub.bootJournal = j ++ [r] :=
  ⟨rfl, modHub State.reset fun h => { h with bootJournal := [1] }, [], 1, rfl⟩

theorem test_hyp_bring_up : ∀ n, (n = 1 ∨ n = 2 ∨ n = 5 ∨ n = 8 ∨ n = 9) → ∃ s : State, s.hub.bootStep = n ∧ s.hub.bootJournal.length < 32768 ∧
    Verifies s.hub 0 ∧ s.hub.bootJournal = [] ∧ s.hub.outEther = [] := by
  intro n h
  exact ⟨stBoot n, rfl, by show (0 : Nat) < 32768; decide, ⟨{ images := List.replicate 8 [] }, by rfl, by decide, fun i m => .inl (List.eq_of_mem_replicate m)⟩, rfl, rfl⟩

theorem test_hyp_beacon : ∃ (s : State) (u : State), s.hub.bootStep = 9 ∧ exec (.runtimeMarkOut (.cluster 511) 0) s = .next u ∧
    u.hub.beacon ≠ s.hub.beacon ∧ u.hub.beacon.extractLsb' 0 2 ≠ 3 ∧ 0 * 16 + 1 ≠ ownModule s ∧ 1 ≤ s.hub.colsM1.toNat := by
  refine ⟨modHub (stBoot 9) fun h => { h with colsM1 := 1 }, _, rfl, rfl, ?_⟩
  decide +kernel

theorem test_hyp_quote : ∃ s : State, ∃ k pa, s.hub.bootSlot = some k ∧ populated s pa 688 = true :=
  ⟨modHub State.reset fun h => { h with bootSlot := some 1 }, 1, 0xFFC0, by decide +kernel⟩

theorem test_hyp_throttle : ∃ s : State, (getDie s 3).freq = 2700 ∧ s.hub.hubFreq = 1200 :=
  ⟨modHub State.reset fun h => { h with hubFreq := 1200 }, by decide +kernel⟩

theorem test_hyp_rdma : ∃ s : State, ∃ pa, ∃ bytes : List Byte, 5 < s.hub.bootStep ∧ (0 ∉ s.hub.outEther ∨ 1 ∉ s.hub.outEther) ∧
    s.hub.bootSlot ≠ none ∧ bytes ≠ [] ∧ populated s pa bytes.length = true :=
  ⟨modHub (stBoot 9) fun h => { h with outEther := [0], bootSlot := some 0 }, 0xFFFF, [1, 2], by decide +kernel⟩

theorem test_hyp_checkpoint : ∃ (s : State) (cluster pa : Nat) (port : Fin 2), s.hub.launches ≠ [] ∧ (∀ e ∈ s.hub.launches, e.2.evicted = true) ∧
    (∀ k ∈ s.cells, k.2.regq = [] ∧ k.2.amos = []) ∧ s.gwq = [] ∧ s.hub.bootStep = 9 ∧ port.val ∉ s.hub.outEther ∧ cluster < 512 ∧
    cluster ∉ s.hub.outClusters ∧ pa % 4096 = 0 ∧ populated s pa 4096 = true :=
  ⟨modHub (stBoot 9) fun h => { h with outEther := [0], launches := [(255, away0)] }, 511, 0xF000, 1, by decide +kernel⟩

/-! ### Decoding and the step -/

theorem test_hyp_decode : ∃ i, Instr.wf i = true ∧ encode i ≠ [] ∧ ∃ ps n, (∀ p ∈ ps, p < 2 ^ 16) ∧ decode ps = .ok (i, n) :=
  ⟨.add 31 31 (.reg 31), by decide +kernel, by decide +kernel, encode (.add 31 31 (.reg 31)), 2, by decide +kernel⟩

def decodes (ps : List Nat) : Bool :=
  match decode ps with
  | .ok _ => true
  | .error _ => false

/-- The actor in a block that its cell's view has, of code or of zeros. -/
theorem test_hyp_step : ∀ good, ∃ (s : State) (blk : Nat) (s1 : State), let x := getCtx s s.cur
    s.power = true ∧ s.agenda = [] ∧ canIssue x = true ∧ x.wdog ≠ 0 ∧ windowLost s s.cur = false ∧ NotReleasing x ∧ bpUnit s s.cur = none ∧
    x.entryFetch = false ∧ (codeBlock s.cur x.pc).run s = .ok (blk, s1) ∧ decodes (codeParcels blk x.pc) = good := by
  intro good
  let s := fun (good : Bool) => modCell (stCode fun x => { x with pc := 0x1018 }) 5 fun k => { k with iview := if good then k.iview else tput k.iview 0x1018 0 }
  obtain ⟨⟨b, s1⟩, h, p⟩ := ok_ex (r := (codeBlock who 0x1018).run (s good)) (p := fun b => decodes (codeParcels b.1 0x1018) == good)
    (by cases good <;> decide +kernel)
  refine ⟨s good, b, s1, ?_, ?_, ?_, ?_, ?_, ?_, ?_, ?_, h, beq_iff_eq.mp p⟩ <;> cases good <;> (try unfold NotReleasing) <;> decide +kernel

theorem test_hyp_fetch : ∃ (s : State) (e : TlbEntry), let c := s.cur
    let x := getCtx s c
    let base := leafKey s e.pte (leafPa e.pte x.pc e.block) / 32 * 32
    s.power = true ∧ isLocal x.pc = false ∧ isWindow x.pc = false ∧ canonical x.pc = true ∧
    tlbFind (getCluster s (c.cell / 4)) x.ident.asid x.pc 3 = some e ∧
    ∀ k, k < 4 → homedHere s (c.cell / 512) (base + 8 * k) = true ∧ sliceBusy s (base + 8 * k) = false ∧
      tfind (getCell s c.cell).iview (base + 8 * k) = none :=
  ⟨stCode fun x => { x with pc := 0x4018 }, page, by decide +kernel⟩

/-- A context that waits: nothing to do. -/
theorem test_hyp_idle : ∃ s : State, s.power = true ∧ s.agenda = [] ∧ (getCtx s s.cur).state ≠ .ready ∧ canIssue (getCtx s s.cur) = false ∧
    windowLost s s.cur = false :=
  ⟨st fun x => { x with state := .faulted }, by decide +kernel⟩

theorem test_hyp_ready : ∃ s : State, s.power = true ∧ s.agenda = [] ∧ (getCtx s s.cur).state = .ready :=
  ⟨st fun x => { x with state := .ready }, by decide +kernel⟩

/-- A step of a state with memory listed, in which time passes. -/
theorem test_hyp_canonical : ∃ s t : State, Memory.wf s.mem ∧ step s = .next t ∧ s.mem ≠ [] := by
  have h : (after (step { stDecl with agenda := [.tick 0 1] }) fun _ => true) = some true := by decide +kernel
  match e : step { stDecl with agenda := [.tick 0 1] }, h with
  | .next t, _ => exact ⟨_, t, by decide +kernel, e, by decide +kernel⟩

/-! ### Ill-formed terms, one for each check -/

theorem test_ill_compact : (Instr.cLd 0 0 0).wf = false ∧ (Instr.cLd 0 0 1).wf = true := by decide
theorem test_ill_vpart : (Instr.vpart 0 0 0 (.reg 31)).wf = false ∧ (Instr.vpart 0 0 0 (.lit 5)).wf = false ∧
    (Instr.vpart 0 0 0 (.reg 30)).wf = true ∧ (Instr.vpart 1 0 0 (.lit 5)).wf = true := by decide
theorem test_ill_rpush : (Instr.rpush false 0 1 2).wf = false ∧ (Instr.rpush false 0 1 0).wf = true := by decide
theorem test_ill_mmas : (Instr.mmas 0 false false 0 29 1 0 0).wf = false ∧ (Instr.mmas 0 false false 8 0 1 0 0).wf = false ∧
    (Instr.mmas 0 false false 9 28 1 0 0).wf = true := by decide
theorem test_ill_mqdrain : (Instr.mqdrain 0 1 2).wf = false ∧ (Instr.mqdrain 0 0 3).wf = true := by decide
theorem test_ill_context : (Instr.handlerEntry { cell := 2048, slot := 0 }).wf = false ∧
    (Instr.handlerEntry { cell := 0, slot := 32 }).wf = false ∧ (Instr.handlerEntry { cell := 2047, slot := 31 }).wf = true := by decide
theorem test_ill_cluster : (Instr.emeKStep 512).wf = false ∧ (Instr.tlbinvAsid 65536).wf = false ∧ (Instr.gangAbandon 256).wf = false ∧
    (Instr.registrationMove 2048 0).wf = false ∧ (Instr.capabilityRelay 256 0).wf = false ∧ (Instr.emeKStep 511).wf = true := by decide
theorem test_ill_message : (Instr.messageArrival (.outbound 2048 0)).wf = false ∧
    (Instr.messageArrival (.peer 1 0 { mail with len := 2 })).wf = false ∧ (Instr.messageArrival (.peer 1 0 { mail with cls := 64 })).wf = false ∧
    (Instr.messageArrival (.peer 1 65536 mail)).wf = false ∧ (Instr.messageArrival (.peer 256 0 mail)).wf = false ∧
    (Instr.messageArrival (.peer 1 0 mail)).wf = true := by decide

/-! ### The manual's words -/

/-- What 32-bit words, the first at the lowest address, decode to. -/
def words (ws : List Nat) : Option (Instr × Nat) :=
  match decode (ws.flatMap fun w => [w % 65536, w / 65536]) with
  | .ok r => some r
  | .error _ => none

theorem test_words_integer : words [0x00316A0B] = some (.add 10 11 (.reg 12), 2) ∧ words [0x1C016A0F, 0x00000804] = some (.bfx 10 11 (.lit 0x804), 4) ∧
    words [0x0189284B] = some (.blt 8 9 (.imm 12), 2) ∧ words [0x0000C953] = some (.jal (.imm 100), 2) ∧
    words [0x0000205B] = some (.jalr 0 1 (.imm 0), 2) := by decide +kernel

/-- C.LI x8, 5; C.NOP; the parcel 0x0000 is no instruction (R36). -/
theorem test_words_compact : decode [0x2015] = .ok (.cLi 0 5, 1) ∧ decode [0xE002] = .ok (.cNop, 1) ∧
    (match decode [0] with | .ok _ => true | .error _ => false) = false := by decide +kernel

theorem test_words_float : words [0x00000887, 0x3DCCCCCD] = some (.fli 8 (.lit 0x3DCCCCCD), 4) ∧ words [0x3DCCC883] = some (.fli 8 (.imm 0x3DCCC), 2) ∧
    words [0x11A5088B] = some (.fma .w 8 8 (.reg 9) (.bank 3), 2) ∧ words [0x0529287B] = some (.fadd .d .rtz 8 9 (.reg 10), 2) ∧
    words [0x69190A7B] = some (.fcvt .rtz 6 10 8, 2) := by decide +kernel

theorem test_words_memory : words [0x012D6A63] = some (.ldD 10 11 (.imm 2) true, 2) ∧ words [0x004D6C6B] = some (.stD 12 11 (.imm 0) .rel, 2) ∧
    words [0x51016003] = some (.pref 11 (.imm 64) 0, 2) ∧ words [0x20316A73] = some (.amoadd true .rlx 10 11 (.reg 12), 2) := by decide +kernel

theorem test_words_system : words [3] = some (.nop, 2) ∧ words [0x08001203] = some (.trap 0x12, 2) ∧ words [0x10000003] = some (.brk 0, 2) ∧
    words [0x18020A03] = some (.csrr 10 0x010, 2) ∧ words [0x18850903] = some (.csrr 9 0x428, 2) ∧ words [0x20022903] = some (.csrw 0x011 9, 2) ∧
    words [0x28000703] = some (.tmark 7, 2) ∧ words [0x30FF0F03] = some (.waitc 15 0 15 15, 2) ∧ words [0x38000003] = some (.fence, 2) ∧
    words [0x40000003] = some (.fenceSc, 2) ∧ words [0x48000003] = some (.icsync, 2) := by decide +kernel

theorem test_words_actor : words [0x00941093] = some (.send false 16 0 (.bank 5), 2) ∧ words [0x00969093] = some (.send false 16 20 (.bank 5), 2) ∧
    words [0x02880893] = some (.reply false 8 (.bank 2), 2) ∧ words [0x05016A97, 9] = some (.spawn false 10 11 (.lit 9), 4) ∧
    words [0x06014093] = some (.migrate 10, 2) ∧ words [0x07000093] = some (.sdone, 2) ∧ words [0x08000093] = some (.hcommit, 2) ∧
    words [0x09000093] = some (.hdone, 2) ∧ words [0x0A000093] = some (.exit, 2) ∧ words [0x0B284093] = some (.barr false 0 2 (.reg 10), 2) ∧
    words [0x0B240A93] = some (.barr true 2 0 (.reg 9), 2) ∧ words [0x0C358093] = some (.launch false 12 (.reg 13), 2) ∧
    words [0x0D006A93] = some (.getm 10 3, 2) ∧ words [0x0E004A93] = some (.mbstat 10 2, 2) ∧ words [0x04000093] = some (.defer, 2) ∧
    words [0x88000093] = none := by decide +kernel

theorem test_words_vector : words [0x0018A49B] = some (.vadd 0 4 5 (.reg 6), 2) ∧ words [0x0C29289B] = some (.vfma 0 8 9 (.reg 10), 2) ∧
    words [0x0180A49F, 0x3FC00000] = some (.vadd 3 4 5 (.lit 0x3FC00000), 4) ∧ words [0x100044A3] = some (.vbind 4 2, 2) ∧
    words [0x182444A3] = some (.vld 4 2 (.reg 9), 2) ∧ words [0x3C14919B] = some (.vcmp 0 2 1 4 5, 2) ∧
    words [0x4004E69B] = some (.vsel 0 6 7 1, 2) ∧ words [0x4701229B] = some (.vkopSplat 2 9, 2) ∧
    words [0x0050E6AB] = some (.vcvt 0 4 true 6 7, 2) ∧ words [0x062C86AB] = some (.vcvtSr 4 6 4 (.reg 11), 2) ∧
    words [0x080086AB] = some (.vqmx 6 4, 2) := by decide +kernel

theorem test_words_vector_more : words [0x000088B3] = some (.vred 0 0 8 4, 2) ∧ words [0x080086B3] = some (.vnorm 0 0 6 4, 2) ∧
    words [0x0C1885B3] = some (.vtopk 0 5 4 6, 2) ∧ words [0x102C04B3] = some (.vrand 0 4 (.reg 11), 2) ∧
    words [0x14316AB3] = some (.rndk 10 11 (.reg 12), 2) ∧ words [0x2800A4A3] = some (.vgather 0 4 5, 2) ∧
    words [0x2C0085A3] = some (.vscatter 0 5 4, 2) ∧ words [0x302444A3] = some (.vaccrd 0 4 2 (.reg 9), 2) ∧
    words [0x342444A3] = some (.vaccrdPeek 0 4 2 (.reg 9), 2) ∧ words [0x382444A3] = some (.vaccwr 0 4 2 (.reg 9), 2) ∧
    words [0x3C9482A3] = some (.rpush true 2 4 5, 2) := by decide +kernel

theorem test_words_matrix : words [0x005082BB] = some (.mma 0 false 0 20 1 0 2, 2) ∧ words [0x03B2C1BB] = some (.mma 0 false 7 12 5 4 1, 2) ∧
    words [0x2CD080BB] = some (.mmas 0 true false 9 20 1 0 0, 2) ∧ words [0x9821A3BB] = some (.mmas 2 false true 0 8 3 2 3, 2) ∧
    words [0x205082BB] = none ∧ words [0x000040C3] = some (.accz 2, 2) ∧ words [0x01004AC3] = some (.accstat 10 2, 2) ∧
    words [0x023020C3] = some (.ringcfg 1 (.reg 12), 2) ∧ words [0x03002AC3] = some (.ringst 10 1 0, 2) ∧
    words [0x040040C7, 1] = some (.rpop 2 (.lit 1), 4) ∧ words [0x05004AC7, 3] = some (.mqpri 10 2 (.lit 3), 4) ∧
    words [0x06044AC3] = some (.mqdrain 10 2 1, 2) := by decide +kernel

theorem test_words_copy : words [0x002800CB] = some (.cpset 0 (.reg 10), 2) ∧ words [0x0101CACB] = some (.cpget 10 14, 2) ∧
    words [0x020014CF, 3] = some (.cpgo 20 (.lit 3), 4) ∧ words [0x030000CF, 0x04D080BB] = some (.cpfol (.lit 0x04D080BB), 4) ∧
    words [0x040000CF, 8] = some (.wtagAll 0 (.lit 8), 4) ∧ words [0x052C0ACB] = some (.wtagAny 10 (.reg 11), 2) ∧
    words [0x062C0ACB] = some (.ffr 10 (.reg 11), 2) ∧ words [0x07000ACF, 3] = some (.tagst 10 (.lit 3), 4) ∧
    words [0x08016ACB] = some (.cpcan 10 11, 2) := by decide +kernel

theorem test_words_grid : words [0x000141D3] = some (.gdecl 1 10, 2) ∧ words [0x012D48D3] = some (.gldW 8 10 (.reg 11), 2) ∧
    words [0x022D48D3] = some (.gldF 8 10 (.reg 11), 2) ∧ words [0x030148D3] = some (.gst 8 10, 2) ∧
    words [0x042C01D3] = some (.hstep 1 (.reg 11), 2) ∧ words [0x050001D7, 4] = some (.hrel 1 (.lit 4), 4) ∧
    words [0x062C01D3] = some (.hwait 1 (.reg 11), 2) ∧ words [0x07042CD3] = some (.gqry 12 1 1, 2) ∧
    words [0x0804A4D3] = some (.ggather 4 5 1, 2) ∧ words [0x090485D3] = some (.gscat 0 5 4 1, 2) := by decide +kernel

theorem test_words_fabric : words [0xDB] = some (.kdetach, 2) ∧ words [0x01140ADB] = some (.kstat 10 5, 2) ∧
    words [0x020080DF, 0x03081000] = some (.nred 0 0 4 (.lit 0x03081000), 4) ∧ words [0x0228D4DB] = some (.nred 2 2 6 (.reg 10), 2) ∧
    words [0x032882DB] = some (.nredNd 0 1 4 (.reg 10), 2) ∧ words [0x04040ADB] = some (.nstat 10 1, 2) := by decide +kernel

/-! ### Single steps. The expected values are the manual's worked cases, or follow from its tables by hand. -/

/-- x10 (f10, FSTAT) after one step with x11 and x12 (f11 and f12) given; x10 and f10 hold 7 before. -/
def run (i : Instr) (a b : Word) : Option Word := after (exec i (st fun x => setX (setX (setX x 10 7) 11 a) 12 b)) (xs 10)
def runF (i : Instr) (a b : Word) : Option (Word × BitVec 6) :=
  after (exec i (st fun x => setF (setF (setF x 10 7) 11 a) 12 b)) fun s => ((getCtx s who).regs.f[10], (getCtx s who).fstat)
def runFX (i : Instr) (a b : Word) : Option (Word × BitVec 6) :=
  after (exec i (st fun x => setF (setF x 11 a) 12 b)) fun s => (xs 10 s, (getCtx s who).fstat)
def pcAfter (i : Instr) (a b : Word) : Option Word := after (exec i (st fun x => setX (setX x 11 a) 12 b)) fun s => (getCtx s who).pc

/-- Table 6.1: −1 wraps to 4; a product's two halves; the corners of the divisions. -/
theorem test_step_arithmetic : run (.add 10 11 (.lit 0xFFFFFFFF)) 5 0 = some 4 ∧ run (.sub 10 11 (.reg 12)) 3 5 = some (-2) ∧
    run (.mul 10 11 (.reg 12)) (-3) 5 = some (-15) ∧ run (.mulh 10 11 (.reg 12)) (-1) 2 = some (-1) ∧ run (.mulhn 10 11 (.reg 12)) (-1) 2 = some 1 ∧
    run (.div 10 11 (.reg 12)) (-7) 2 = some (-3) ∧ run (.div 10 11 (.reg 12)) 0x8000000000000000 (-1) = some 0x8000000000000000 ∧
    run (.divn 10 11 (.reg 12)) 9 0 = some (-1) ∧ run (.rem 10 11 (.reg 12)) (-7) 2 = some (-1) ∧
    run (.rem 10 11 (.reg 12)) 0x8000000000000000 (-1) = some 0 ∧ run (.remn 10 11 (.reg 12)) 9 0 = some 9 ∧
    run (.remn 10 11 (.reg 12)) (-1) 10 = some 5 := by decide +kernel

theorem test_step_logic : run (.and 10 11 (.reg 12)) 12 10 = some 8 ∧ run (.or 10 11 (.reg 12)) 12 10 = some 14 ∧
    run (.xor 10 11 (.reg 12)) 12 10 = some 6 ∧ run (.andn 10 11 (.reg 12)) 12 10 = some 4 ∧ run (.shl 10 11 (.lit 65)) 3 0 = some 6 ∧
    run (.shr 10 11 (.lit 63)) (-1) 0 = some 1 ∧ run (.sra 10 11 (.lit 63)) 0x8000000000000000 0 = some (-1) ∧
    run (.rol 10 11 (.lit 4)) 0xF000000000000001 0 = some 0x1F ∧ run (.ror 10 11 (.lit 4)) 0x1F 0 = some 0xF000000000000001 := by decide +kernel

theorem test_step_compare : run (.min 10 11 (.reg 12)) (-1) 1 = some (-1) ∧ run (.max 10 11 (.reg 12)) (-1) 1 = some 1 ∧
    run (.minn 10 11 (.reg 12)) (-1) 1 = some 1 ∧ run (.maxn 10 11 (.reg 12)) (-1) 1 = some (-1) ∧ run (.slt 10 11 (.reg 12)) (-1) 1 = some 1 ∧
    run (.sltn 10 11 (.reg 12)) (-1) 1 = some 0 ∧ run (.seq 10 11 (.reg 12)) 9 9 = some 1 := by decide +kernel

/-- The BFX case of R137 (0x67); BFI of the same field; the counts of 0x00F0. -/
theorem test_step_bits : run (.bfx 10 11 (.lit 0x804)) 0x12345678 0 = some 0x67 ∧ run (.bfx 10 11 (.lit 0x843C)) 0xF000000000000000 0 = some (-1) ∧
    run (.bfi 10 11 (.lit 0x804)) 0x12 0 = some 0x127 ∧ run (.clz 10 11) 0xF0 0 = some 56 ∧ run (.ctz 10 11) 0 0 = some 64 ∧
    run (.popc 10 11) 0xF0 0 = some 4 ∧ run (.brev 10 11) 2 0 = some 0x4000000000000000 ∧
    run (.bswap 10 11) 0x0102030405060708 0 = some 0x0807060504030201 := by decide +kernel

theorem test_step_immediate : run (.addi 10 11 (.imm (-8192))) 1 0 = some (-8191) ∧ run (.andi 10 11 (.imm (-2))) 7 0 = some 6 ∧
    run (.ori 10 11 (.imm 1)) 6 0 = some 7 ∧ run (.xori 10 11 (.imm (-1))) 0 0 = some (-1) ∧ run (.slti 10 11 (.imm 0)) (-1) 0 = some 1 ∧
    run (.lui 10 (.imm (-1))) 0 0 = some (-8192) ∧ run (.lui 10 (.lit 5)) 0 0 = some 5 ∧ run (.addpc 10 (.imm 1)) 0 0 = some 0x3000 := by decide +kernel

/-- From 0x1010, in the code page: +12 parcels is 24 bytes on; a branch not taken goes to the next instruction; x0 stays zero. -/
def jump (i : Instr) (a b : Word) : Option (Word × Word) :=
  after (exec i (stCode fun x => { setX (setX x 11 a) 12 b with pc := 0x1010 })) fun s => ((getCtx s who).pc, xs 1 s)
theorem test_step_control : jump (.beq 11 12 (.imm 12)) 3 3 = some (0x1028, 0) ∧ jump (.bne 11 12 (.imm 12)) 3 3 = some (0x1014, 0) ∧
    jump (.blt 11 12 (.imm (-4))) (-1) 1 = some (0x1008, 0) ∧ jump (.bge 11 12 (.imm 12)) 3 3 = some (0x1028, 0) ∧
    jump (.bltn 11 12 (.imm 12)) (-1) 1 = some (0x1014, 0) ∧ jump (.bgen 11 12 (.imm 12)) (-1) 1 = some (0x1028, 0) ∧
    jump (.j (.imm (-4))) 0 0 = some (0x1008, 0) ∧ jump (.jal (.imm 20)) 0 0 = some (0x1038, 0x1014) ∧
    jump (.jalr 1 11 (.imm 8)) 0x1010 0 = some (0x1018, 0x1014) ∧ after (exec (.add 0 11 (.lit 5)) (st id)) (xs 0) = some 0 := by decide +kernel

/-- Each compact form equals its 32-bit form (Table 2.5), on x8 and x9 (f8 and f9). -/
def runC (i : Instr) : Option (Word × Word) :=
  after (exec i (stCode fun x => { setX (setX x 8 0x1030) 9 10 with pc := 0x1010 })) fun s => (xs 8 s, (getCtx s who).pc)
theorem test_step_compact : runC (.cAddi 0 0xFF) = some (0x102F, 0x1012) ∧ runC (.cLi 0 0x80) = some (-128, 0x1012) ∧ runC (.cMv 0 1) = some (10, 0x1012) ∧
    runC (.cAdd 0 1) = some (0x103A, 0x1012) ∧ runC (.cSub 0 1) = some (0x1026, 0x1012) ∧ runC (.cAnd 0 1) = some (0, 0x1012) ∧
    runC (.cOr 0 1) = some (0x103A, 0x1012) ∧ runC (.cXor 1 0) = some (0x1030, 0x1012) ∧ runC (.cJ 0x7FE) = some (0x1030, 0x100C) ∧
    runC (.cBeqz 0 4) = some (0x1030, 0x1012) ∧ runC (.cBnez 0 4) = some (0x1030, 0x1018) ∧ runC (.cNop) = some (0x1030, 0x1012) ∧
    runC (.cJr 0) = some (0x1030, 0x1030) := by decide +kernel

/-- The 8 bytes of the frame at 8 hold 0x8877665544332281. -/
def stBytes : State := { (st fun x => setX x 11 (frameVa 0)) with mem := writeLE [] (frameAt 8) 8 0x8877665544332281 }
theorem test_step_loads : after (exec (.ldB 10 11 (.imm 8) false) stBytes) (xs 10) = some 0xFFFFFFFFFFFFFF81 ∧
    after (exec (.ldBu 10 11 (.imm 8) false) stBytes) (xs 10) = some 0x81 ∧ after (exec (.ldH 10 11 (.imm 7) false) stBytes) (xs 10) = some 0xFFFFFFFFFFFF8877 ∧
    after (exec (.ldHu 10 11 (.imm 4) false) stBytes) (xs 10) = some 0x2281 ∧ after (exec (.ldW 10 11 (.imm 3) false) stBytes) (xs 10) = some 0xFFFFFFFF88776655 ∧
    after (exec (.ldD 10 11 (.imm 1) true) stBytes) (xs 10) = some 0x8877665544332281 ∧
    after (exec (.ldfW 10 11 (.imm 2) false) stBytes) (fun s => (getCtx s who).regs.f[10]) = some 0x44332281 := by decide +kernel

/-- A store to the frame of a revocable section is in memory at once (R107). -/
def stored (i : Instr) : Option Word :=
  after (exec i { stBytes with ctxs := (setCtx stBytes who (setF (setX (getCtx stBytes who) 10 0xAABBCCDD11223344) 10 0x1122334455667788)).ctxs })
    fun s => readWord s.mem (frameAt 8)
theorem test_step_stores : stored (.stB 10 11 (.imm 9) .plain) = some 0x8877665544334481 ∧ stored (.stH 10 11 (.imm 4) .plain) = some 0x8877665544333344 ∧
    stored (.stW 10 11 (.imm 3) .plain) = some 0x1122334444332281 ∧ stored (.stD 10 11 (.imm 1) .plain) = some 0xAABBCCDD11223344 ∧
    stored (.stfW 10 11 (.imm 2) .plain) = some 0x8877665555667788 ∧ stored (.stfD 10 11 (.imm 1) .plain) = some 0x1122334455667788 := by decide +kernel

/-- 1.5 and 2.25 in FP32, 1 and 3 in FP64; 1/3 and √2 are inexact (NX 16); −1/0 divides by zero (DZ 2), 0/0 is invalid (NV 1), and both are not finite (NF 32). -/
theorem test_step_float : runF (.fadd .w .frm 10 11 (.reg 12)) 0x3FC00000 0x40100000 = some (0x40700000, 0) ∧
    runF (.fsub .w .frm 10 11 (.reg 12)) 0x3FC00000 0x40100000 = some (0xBF400000, 0) ∧
    runF (.fmul .w .frm 10 11 (.reg 12)) 0x3FC00000 0x40100000 = some (0x40580000, 0) ∧
    runF (.fdiv .d .frm 10 11 (.reg 12)) 0x3FF0000000000000 0x4008000000000000 = some (0x3FD5555555555555, 16) ∧
    runF (.fdiv .d .rup 10 11 (.reg 12)) 0x3FF0000000000000 0x4008000000000000 = some (0x3FD5555555555556, 16) ∧
    runF (.fdiv .w .frm 10 11 (.reg 12)) 0xBF800000 0 = some (0xFF800000, 34) ∧ runF (.fdiv .w .frm 10 11 (.reg 12)) 0 0 = some (0x7FC00000, 33) ∧
    runF (.fsqrt .w .frm 10 11) 0x40000000 0 = some (0x3FB504F3, 16) ∧ runF (.fsqrt .w .frm 10 11) 0x80000000 0 = some (0x80000000, 0) := by decide +kernel

theorem test_step_float_more : runF (.fmin .w 10 11 (.reg 12)) 0x80000000 0 = some (0x80000000, 0) ∧
    runF (.fmax .w 10 11 (.reg 12)) 0x7FC00001 0x3F800000 = some (0x3F800000, 0) ∧ runF (.fmin .w 10 11 (.reg 12)) 0x7F800001 0x3F800000 = some (0x3F800000, 1) ∧
    runF (.fabs .w 10 11) 0xBF800000 0 = some (0x3F800000, 0) ∧ runF (.fneg .d 10 11) 0 0 = some (0x8000000000000000, 0) ∧
    runFX (.feq .w 10 11 (.reg 12)) 0x80000000 0 = some (1, 0) ∧ runFX (.flt .w 10 11 (.reg 12)) 0x7FC00000 0 = some (0, 1) ∧
    runFX (.fle .w 10 11 (.reg 12)) 0x3F800000 0x3F800000 = some (1, 0) ∧ runFX (.fclass .w 10 11) 0x80000001 0 = some (4, 0) ∧
    runFX (.fcvt .rtz 10 10 11) 0xCF800000 0 = some (0xFFFFFFFF80000000, 1) ∧ runFX (.fcvt .frm 6 10 11) 0x40200000 0 = some (2, 16) ∧
    runFX (.fmvx .w 10 11) 0x80000000 0 = some (0xFFFFFFFF80000000, 0) := by decide +kernel

/-- 1.5 × 2.25 with f10 = 1 by hand: 4.375, 2.375, −2.375, −4.375. VRSQ.A's case of R257, as FRSQ.A; 1/2. -/
theorem test_step_fused : (∀ p ∈ [(Instr.fma .w 10 11 (.reg 12) (.reg 13), 0x408C0000), (.fms .w 10 11 (.reg 12) (.reg 13), 0x40180000),
      (.fnma .w 10 11 (.reg 12) (.reg 13), 0xC0180000), (.fnms .w 10 11 (.reg 12) (.reg 13), 0xC08C0000)],
      after (exec p.1 (st fun x => setF (setF (setF x 11 0x3FC00000) 12 0x40100000) 13 0x3F800000)) (fun s => (getCtx s who).regs.f[10]) = some p.2) ∧
    runF (.frsqA .w 10 11) 0x40000000 0 = some (0x3F350000, 16) ∧ runF (.frcpA .w 10 11) 0x40000000 0 = some (0x3F000000, 0) ∧
    runF (.fcvt .frm 13 10 11) 0x3FC00000 0 = some (0x3E00, 0) ∧ runF (.fcvt .frm 12 10 11) 0x3E00 0 = some (0x3FC00000, 0) ∧
    after (exec (.fli 10 (.imm 0x3DCCC)) (st id)) (fun s => (getCtx s who).regs.f[10]) = some 0x3DCCC000 ∧
    after (exec (.fmvf .d 10 11) (st fun x => setX x 11 9)) (fun s => (getCtx s who).regs.f[10]) = some 9 := by decide +kernel

/-- RNDK's case of R263, and KEYED_WORD(0, 0) again in the element 0 of VRAND.F32's case of R262. -/
theorem test_step_keyed : run (.rndk 10 11 (.reg 12)) 0 0 = some 0xC6A81618 := by decide +kernel

/-- FSTAT is read and FRM written; TRAP's record is BREAK (24) of a cell, with its code in the cursor field. -/
theorem test_step_system : pcAfter .nop 0 0 = some 0x1004 ∧ pcAfter .fence 0 0 = some 0x1004 ∧ pcAfter .fenceSc 0 0 = some 0x1004 ∧
    pcAfter .icsync 0 0 = some 0x1004 ∧ pcAfter (.pref 11 (.imm 64) 0) 0 0 = some 0x1004 ∧ pcAfter (.waitc 15 0 15 15) 0 0 = some 0x1004 ∧
    after (exec (.csrr 10 0x010) (st fun x => { x with fstat := 0x11 })) (xs 10) = some 0x11 ∧
    after (exec (.csrw 0x011 11) (st fun x => setX x 11 2)) (fun s => (getCtx s who).frm) = some 2 ∧
    after (exec (.trap 0x12) (st id)) (fun s => (s.hub.records.map fun r => (r.code, r.unit, r.cursor, r.pc))) =
      some [(0x18, 0, 0x12, 0x1000)] := by decide +kernel

/-! Vectors: unbound registers, lane 0 checked unless said. -/

def runV (i : Instr) (a b : Word) : Option (Word × BitVec 6) :=
  after (exec i (stVec 0 fun x =>
    { x with regs := { x.regs with w := (x.regs.w.set 2 { WReg.zero with data := a.setWidth 2048 }).set 3 { WReg.zero with data := b.setWidth 2048 } } }))
    fun s => ((getCtx s who).regs.w[1].data.extractLsb' 0 64, (getCtx s who).fstat)

/-- FP32 lanes 1.5 and (3, 2): 3.75 in lane 0 and 2 in lane 1; INT32 wraps; FP64; a literal is broadcast. -/
theorem test_step_vector : runV (.vadd 0 1 2 (.reg 3)) 0x3FC00000 0x4000000040100000 = some (0x4000000040700000, 0) ∧
    runV (.vsub 7 1 2 (.reg 3)) 3 5 = some (0x00000000FFFFFFFE, 0) ∧
    runV (.vmul 1 1 2 (.reg 3)) 0x3FF8000000000000 0x4000000000000000 = some (0x4008000000000000, 0) ∧
    runV (.vadd 0 1 2 (.lit 0x3F800000)) 0 0 = some (0x3F8000003F800000, 0) ∧ runV (.vabs 6 1 2) 0xFB 0 = some (5, 0) ∧
    runV (.vneg 7 1 2) 5 0 = some (0xFFFFFFFB, 0) ∧ runV (.vxor 7 1 2 (.reg 3)) 12 10 = some (6, 0) ∧
    runV (.vshl 7 1 2 (.reg 3)) 3 1 = some (6, 0) ∧ runV (.vmin 7 1 2 (.reg 3)) 0xFFFFFFFF 1 = some (0xFFFFFFFF, 0) ∧
    runV (.vmov 0 1 2) 0x123456789 0 = some (0x123456789, 0) := by decide +kernel

/-- R257 and Table 10.7: VRSQ.A of 2 and VRCP.A of 3 are the manual's cases. Lane 1 holds 1, of which each is 1. -/
theorem test_step_functions : (∀ p ∈ [(Instr.vrsqA 0 1 2, (0x3F80000040000000 : Word), (0x3F8000003F350000 : Word)),
      (.vrcpA 0 1 2, 0x3F80000040400000, 0x3F8000003EAAB000), (.vexp2 0 1 2, 0x3F80000040000000, 0x4000000040800000),
      (.vsqrt 0 1 2, 0x3F80000040800000, 0x3F80000040000000), (.vrsq 0 1 2, 0x3F80000040800000, 0x3F8000003F000000)],
      (runV p.1 p.2.1 0).map (·.1) = some p.2.2) ∧
    (runV (.vlog2 0 1 2) 0x3F80000041000000 0).map (·.1) = some 0x40400000 ∧ (runV (.vtanh 0 1 2) 0x80000000 0).map (·.1) = some 0x80000000 ∧
    (runV (.vdiv 0 1 2 (.reg 3)) 0x3F80000040C00000 0x3F80000040000000).map (·.1) = some 0x3F80000040400000 := by decide +kernel

/-- R262's case: 13,019,158 × 2^−24 in element 0, seed 0. -/
theorem test_step_vrand : (runV (.vrand 0 1 (.reg 0)) 0 0).map (fun r => r.1.extractLsb' 0 32) = some 0x3F46A816 ∧
    (runV (.vrand 7 1 (.reg 0)) 0 0).map (fun r => r.1.extractLsb' 0 32) = some 0xC6A81618 := by decide +kernel

/-- Masks: k1 of w2 < w3 in lane 0; VSEL; the operations of Table 12.4. -/
def runK (i : Instr) : Option (BitVec 256) :=
  after (exec i (stVec 0 fun x => { setX x 11 9 with
    regs := { (setX x 11 9).regs with k := (x.regs.k.set 1 12).set 2 10, w := (x.regs.w.set 2 { WReg.zero with data := 3 }).set 3 { WReg.zero with data := 5 } } }))
    fun s => (getCtx s who).regs.k[3]
theorem test_step_masks : runK (.vcmp 7 2 3 2 3) = some 1 ∧ (runK (.vcmp 7 0 3 2 3)).map (·.getLsbD 0) = some false ∧ runK (.vkopAnd 3 1 2) = some 8 ∧
    runK (.vkopOr 3 1 2) = some 14 ∧ runK (.vkopXor 3 1 2) = some 6 ∧ runK (.vkopAndn 3 1 2) = some 4 ∧
    runK (.vkopNot 3 1) = some (~~~12) ∧ runK (.vkopSplat 3 11) = some (BitVec.allOnes 256) ∧ runK (.vkopFromx 3 11) = some 9 ∧
    after (exec (.vkopPopc 10 1) (stVec 0 fun x => { x with regs := { x.regs with k := x.regs.k.set 1 12 } })) (xs 10) = some 2 ∧
    (runV (.vsel 0 1 2 0) 7 0).map (·.1) = some 7 := by decide +kernel

/-! Sections, messages, engines, grids. -/

/-- The actor handles the test message. -/
def stHandles (f : Ctx → Ctx) : State := stLaunch launch0 fun x => f { boxed 2 x with trigger := some (trig (.mailbox 2)), regs := { x.regs with m := x.regs.m.set 3 42 } }

/-- R167: HDONE ends the handler, and the trigger is gone; HCOMMIT keeps it; EXIT ends the actor. -/
theorem test_step_sections : after (exec .hdone (stHandles id)) (fun s => (getCtx s who).trigger.isNone) = some true ∧
    after (exec .hcommit (stHandles id)) (fun s => ((getCtx s who).trigger.isSome, (getCtx s who).sec.committed, (getCtx s who).pc)) =
      some (true, 1, 0x1004) ∧
    after (exec .exit (stHandles id)) (fun s => (getCtx s who).state) = some .ended ∧ after (exec (.getm 10 3) (stHandles id)) (xs 10) = some 42 := by
  decide +kernel

/-- CPSET and CPGET of cp.len0 (2); a tag that is ready: FFR of 12 is 2; TAGST of a tag that never ran. -/
theorem test_step_copy : after (exec (.cpset 2 (.lit 9)) (st id)) (fun s => (getCtx s who).shadows[2]) = some 9 ∧
    after (exec (.cpget 10 2) (st fun x => { x with shadows := x.shadows.set 2 9 })) (xs 10) = some 9 ∧
    after (exec (.ffr 10 (.lit 12)) (st id)) (xs 10) = some 2 ∧
    after (exec (.tagst 10 (.lit 3)) (st id)) (xs 10) = some 0 := by decide +kernel

/-- GST writes INT32 cell 4 of part 1, whose storage starts at 64 in the scratch (scratch at 0x1000 of the store). -/
theorem test_step_grid : after (exec (.gst 10 11) { stGrid id (key0 16388) with
      ctxs := (setCtx (stGrid id (key0 16388)) who (setX (getCtx (stGrid id (key0 16388)) who) 10 0x99)).ctxs }) (fun s => readLE s.mem (scratchAt 80) 4) = some 0x99 ∧
    after (exec (.gqry 10 3 0) (stGrid id 0)) (fun s => (getCtx s who).pc) = some 0x1004 := by decide +kernel

theorem test_step_dtc : after (exec (.csrr 10 0x004) { st id with dtc := 77 }) (xs 10) = some 77 := by decide +kernel

/-! Moves: DTC counts what passes; a step pops the agenda. -/

theorem test_step_tick : after (step { State.reset with agenda := [.tick 3 7] }) (fun s => (s.dtc, s.agenda)) = some (7, []) := by decide +kernel
theorem test_step_power : after (step { State.reset with power := false, agenda := [.event .powerOn] }) (fun s => (s.power, s.hub.bootNo)) = some (true, 1) := by
  decide +kernel

end Sys2Proof.Tests
end

section
/-! SUPPORT. Instructions that complete without effect, what WAITC answers (R169), and the wait that the statement on NOP, WAITC and
PREF gets wrong: two lanes of one GGATHER are one load (R365). -/

namespace Sys2Proof.Claims
open Sys2Proof.Machine

/-! ## A context that is about to issue -/

theorem Issues.issuesNow {s : State} (h : Issues s) : issuesNow s = true := by
  obtain ⟨hcan, hcommit, hexpiry, -⟩ := h
  simp [Machine.issuesNow, hcan, hcommit, hexpiry]

theorem Issues.complete_eq_advance {s : State} (h : Issues s) (len : Nat) : complete s s.cur len = advance s len := by
  obtain ⟨-, -, -, hstep, hhalt, -⟩ := h
  exact complete_plain hstep hhalt

/-- An instruction whose computation leaves the state as it is completes, and does nothing else. -/
theorem Issues.issueOp_same {s : State} {len : Nat} {body : X Unit} (h : Issues s) (hb : body.run s = .ok ((), s)) :
    issueOp s len body = .next (advance s len) := by
  rw [issueOp_ok h.issuesNow hb, h.complete_eq_advance]

/-! ## WAITC -/

/-- The four counts of WAITC, as the machine takes them, are within their immediates. -/
def countsWithin (s : State) (nl ns nc nm : Fin 16) : Bool :=
  countOk (loadCount (getCtx s s.cur)) nl && countOk (unpropagatedCount s s.cur) ns &&
    countOk (copyCount (getCtx s s.cur)) nc && countOk (matrixCount s s.cur) nm

/-- R169: WAITC completes without effect where its counts allow, else the context waits. -/
theorem exec_waitc {s : State} (h : Issues s) (nl ns nc nm : Fin 16) :
    exec (.waitc nl ns nc nm) s =
      if countsWithin s nl ns nc nm then .next (advance s 4) else .next (modCtx s s.cur fun y => { y with wait := .other }) := by
  change issueOp s 4 _ = _
  cases hw : countsWithin s nl ns nc nm with
  | true =>
    refine h.issueOp_same ?_
    unfold countsWithin at hw
    simp only [runX_bind_ok (runX_get s), hw]; rfl
  | false =>
    refine issueOp_stall h.issuesNow ?_
    unfold countsWithin at hw
    simp only [runX_bind_ok (runX_get s), hw]; rfl

/-! ## Two lanes of one gather -/

/-- A lane of a GGATHER into w5 that has not returned, as GGATHER records it (R365). -/
def gatherLane (n : Nat) : Pending := { blankPending (.lane 5 8 n) 0 0 false with id := n }

/-- A running context that has issued one GGATHER, two of whose lanes have not returned. -/
def gathering : State :=
  setCtx State.reset State.reset.cur { Ctx.free with state := .running, loads := [gatherLane 0, gatherLane 1] }

theorem issues_gathering : Issues gathering := by unfold Issues; decide +kernel

/-- Both lanes are of one instruction, which counts once until every lane has returned (R169, R365). -/
theorem countsWithin_gathering : countsWithin gathering 1 15 15 15 = true := by decide +kernel

/-- The machine lets WAITC 1 pass beside one GGATHER, where the statement, which counts the GGATHER's two lanes apart, has it stall. -/
theorem not_nopsAndSatisfiedWaitsHaveNoEffect : ¬ NopsAndSatisfiedWaitsHaveNoEffect := by
  rintro ⟨-, -, h⟩
  obtain ⟨-, -, hwait⟩ := h gathering issues_gathering
  obtain ⟨-, hstall⟩ := hwait 1 15 15 15
  have lanesApart : ¬ countWithin (getCtx gathering gathering.cur).loads.length 1 := by unfold countWithin; decide +kernel
  have stalls := hstall fun ⟨loadsWithin, _⟩ => lanesApart loadsWithin
  rw [exec_waitc issues_gathering, if_pos countsWithin_gathering] at stalls
  have pcStays := congrArg (fun t => (getCtx t gathering.cur).pc) (Host.Outcome.next.inj stalls)
  simp [advance] at pcStays

end Sys2Proof.Claims

/-- Refutes O9: with two lanes of one GGATHER outstanding the context's load count is 1 (R169, R365), so WAITC 1, 15, 15, 15
completes; the statement counts the two lanes as two loads and has it stall. -/
theorem not_nopsWaitsAndPrefetches : ¬ Obligations.NopsWaitsAndPrefetches := by
  unfold Obligations.NopsWaitsAndPrefetches
  rintro ⟨hwaits, -⟩
  exact Sys2Proof.Claims.not_nopsAndSatisfiedWaitsHaveNoEffect hwaits
end

section
/-! SUPPORT. An instruction of a quiet context whose computation ends by writing an x register, and the tag and cancel instructions of
the copy engine (R335 to R338), each computed once. -/

namespace Sys2Proof.Claims
open Sys2Proof.Machine

/-! ## A quiet context that writes a register -/

theorem opInt_quiet {s : State} {c : CtxId} (b : OpB) (h : (getCtx s c).loads = []) :
    (opInt c b).run s = .ok (intB (getCtx s c) b, s) := by
  cases b with
  | reg r => exact getX_quiet r h
  | bank k => rfl
  | lit v => rfl

theorem modCtx_setXReg_advance (s : State) (d : Reg) (v : Word) (len : Nat) :
    advance (modCtx s s.cur fun x => setXReg x d v) len = advance (withX s d v) len := by
  by_cases hd : d = 0
  · simp [advance, withX, setXReg, hd]
  · simp [withX, setXReg, hd]

@[simp] theorem setXReg_dbg (x : Ctx) (r : Reg) (v : Word) : (setXReg x r v).dbg = x.dbg := by
  unfold setXReg; split <;> rfl

/-- An instruction whose computation comes down to writing `v` to `d`, in a state `t` that has the context as it was, completes with
that write. -/
theorem Quiet.issueOp_putX {s t : State} {len : Nat} {body : X Unit} {d : Reg} {v : Word} (h : Quiet s)
    (hcur : t.cur = s.cur) (hctx : getCtx t s.cur = getCtx s s.cur) (hb : body.run s = (putX s.cur d v).run t) :
    issueOp s len body = .next (advance (withX t d v) len) := by
  obtain ⟨hissues, hloads⟩ := h
  have ⟨_, _, _, hstep, hhalt, _⟩ := hissues
  rw [putX_quiet d v (hctx ▸ hloads)] at hb
  rw [issueOp_ok hissues.issuesNow hb, complete_plain (by simp [hctx, hstep]) (by simp [hctx, hhalt]),
    ← modCtx_setXReg_advance, hcur]
  simp [advance, hcur]

/-- The bytes of a word with operand b: eight with a literal, else four (R27). -/
theorem two_mul_length_rrrB (m top d a : Nat) (b : OpB) : 2 * (rrrB m top d a b).length = lenB b := by
  cases b <;> rfl

theorem bytes_ffr (d : Reg) (b : OpB) : (Instr.ffr d b).bytes = lenB b := two_mul_length_rrrB ..

/-! ## Bits and fields -/

theorem bit_eq_getLsbD {w : Nat} (v : BitVec w) (n : Nat) : bit v n = v.getLsbD n := by
  rw [bit, BitVec.getLsbD, Nat.testBit_eq_decide_div_mod_eq]; rfl

theorem bits_eq_field (v : Word) {hi lo : Nat} (h : lo ≤ hi) : bits v hi lo = field v hi lo := by
  rw [bits, field, Nat.sub_add_comm h]

theorem upFrom_eq_range' (lo n : Nat) : upFrom lo n = List.range' lo n := by
  induction n generalizing lo with
  | zero => rfl
  | succ n ih => rw [upFrom, ih, List.range'_succ]

/-- The number FFR writes: the lowest set bit, or all ones (R336). -/
def lowestSet (v : Word) : Word :=
  match (upFrom 0 64).find? (fun n => bit v n) with
  | some n => BitVec.ofNat 64 n
  | none => BitVec.allOnes 64

theorem lowestSet_eq {v : Word} {n : Nat} (hn : n < 64) (hset : v.getLsbD n = true) (hlow : ∀ j, j < n → v.getLsbD j = false) :
    lowestSet v = BitVec.ofNat 64 n := by
  have found : (upFrom 0 64).find? (fun j => bit v j) = some n := by
    rw [upFrom_eq_range', ← List.range_eq_range', List.find?_range_eq_some]
    exact ⟨by rwa [bit_eq_getLsbD], List.mem_range.mpr hn, fun j hj => by simp [bit_eq_getLsbD, hlow j hj]⟩
  rw [lowestSet, found]

theorem lowestSet_zero : lowestSet 0 = BitVec.allOnes 64 := by
  have none_set : (upFrom 0 64).find? (fun j => bit (0 : Word) j) = none := by
    rw [List.find?_eq_none]; simp [bit_eq_getLsbD]
  rw [lowestSet, none_set]

/-! ## WTAG, FFR and TAGST -/

/-- R335: a WTAG whose condition holds acquires and writes the set tags of its mask. -/
theorem issueOp_wtag {s : State} (h : Quiet s) (any : Bool) (d : Reg) (b : OpB) {m got : Word} (hm : intB (getCtx s s.cur) b = m)
    (hgot : (getCtx s s.cur).tag.tags &&& m = got) (hcond : (if any then m == 0 || got != 0 else got == m) = true) :
    issueOp s (lenB b) (wtagOp s.cur any d b) = .next (advance (withX (copiesDropped s) d got) (lenB b)) := by
  refine h.issueOp_putX rfl rfl ?_
  obtain ⟨-, hloads⟩ := h
  subst hm hgot
  unfold wtagOp
  rw [runX_bind_ok (opInt_quiet b hloads), runX_bind_ok (needX_quiet d hloads), runX_bind_ok (runX_ctx s.cur s)]
  simp only [hcond]
  rfl

/-- R336. -/
theorem exec_ffr {s : State} (h : Quiet s) (d : Reg) (b : OpB) :
    writesX s (.ffr d b) d (lowestSet ((getCtx s s.cur).tag.tags &&& intB (getCtx s s.cur) b)) := by
  unfold writesX
  rw [bytes_ffr]
  refine h.issueOp_putX rfl rfl ?_
  obtain ⟨-, hloads⟩ := h
  rw [runX_bind_ok (opInt_quiet b hloads), runX_bind_ok (runX_ctx s.cur s)]
  rfl

/-- R337: TAGST acquires unless the status is that of a pending transfer. -/
theorem exec_tagst {s : State} (h : Quiet s) (d : Reg) (b : OpB) (n : Fin 64) (hn : n.val = field (intB (getCtx s s.cur) b) 5 0) :
    exec (.tagst d b) s = .next (advance (withX (if (getCtx s s.cur).tag.status[n].getLsbD 63 then s else copiesDropped s) d
      (getCtx s s.cur).tag.status[n]) (lenB b)) := by
  have ⟨_, hloads⟩ := h
  have hstatus : (getCtx s s.cur).tag.status.toList.getD (bits (intB (getCtx s s.cur) b) 5 0) 0 = (getCtx s s.cur).tag.status[n] := by
    rw [bits_eq_field _ (by decide), ← hn]; simp
  refine h.issueOp_putX (by split <;> rfl) (by split <;> rfl) ?_
  rw [runX_bind_ok (opInt_quiet b hloads), runX_bind_ok (needX_quiet d hloads), runX_bind_ok (runX_ctx s.cur s)]
  simp only [hstatus, bit_eq_getLsbD]
  cases (getCtx s s.cur).tag.status[n].getLsbD 63 with
  | true => rfl
  | false => rfl

/-! ## CPCAN -/

/-- A transfer that CPCAN of `id` by the current context cancels (R338). -/
def cancellable (s : State) (id : Word) (t : Transfer) : Bool :=
  decide (t.tid = id) && decide (t.ctx = s.cur) && decide (t.ident = (getCtx s s.cur).ident) && !t.cancelled

/-- The state once CPCAN has cancelled the transfer `id` (R338). -/
def withCancelled (s : State) (id : Word) : State := modXfer s (s.cur.cell / 4) id cancelXfer

theorem cancellable_iff {s : State} {id : Word} {t : Transfer} : cancellable s id t = true ↔
    t.tid = id ∧ t.ctx = s.cur ∧ t.ident = (getCtx s s.cur).ident ∧ t.cancelled = false := by
  simp [cancellable, and_assoc]

theorem exec_cpcan_none {s : State} (h : Quiet s) (d a : Reg)
    (hnone : (engines s).transfers.find? (cancellable s (xAt (getCtx s s.cur) a)) = none) : writesX s (.cpcan d a) d 0 := by
  refine h.issueOp_putX rfl rfl ?_
  obtain ⟨-, hloads⟩ := h
  rw [runX_bind_ok (getX_quiet a hloads), runX_bind_ok (needX_quiet d hloads), runX_bind_ok (runX_ctx s.cur s),
    runX_bind_ok (runX_get s)]
  split
  · next found => exact nomatch hnone.symm.trans found
  · rfl

/-- Only a demand fill has lanes to end. -/
theorem deadLanes_eq {s : State} {t : Transfer} (h : field t.snap[(14 : Fin 22)] 2 0 ≠ 2) : deadLanes s t = s := by
  have hkind : xferKind t = field t.snap[(14 : Fin 22)] 2 0 := by
    rw [xferKind, bits_eq_field _ (by decide), xferFlags]; simp
  rw [deadLanes, if_pos (hkind ▸ h)]

theorem exec_cpcan_some {s : State} (h : Quiet s) (d a : Reg) {t : Transfer}
    (hfound : (engines s).transfers.find? (cancellable s (xAt (getCtx s s.cur) a)) = some t)
    (hkind : field t.snap[(14 : Fin 22)] 2 0 ≠ 2) :
    exec (.cpcan d a) s = .next (advance (withX (withCancelled s t.tid) d 1) 4) := by
  refine h.issueOp_putX (t := withCancelled s t.tid) rfl rfl ?_
  obtain ⟨-, hloads⟩ := h
  rw [runX_bind_ok (getX_quiet a hloads), runX_bind_ok (needX_quiet d hloads), runX_bind_ok (runX_ctx s.cur s),
    runX_bind_ok (runX_get s)]
  split
  · next found =>
    obtain rfl := Option.some.inj (found.symm.trans hfound)
    rw [runX_bind_ok (runX_modify _ s), deadLanes_eq hkind]
    rfl
  · next notFound => exact nomatch notFound.symm.trans hfound

theorem modCluster_congr {s : State} {n : Nat} {f g : Cluster → Cluster} (h : f (getCluster s n) = g (getCluster s n)) :
    modCluster s n f = modCluster s n g := by
  rw [modCluster, modCluster, h]

/-- Of transfers with identifiers of their own, the one cancelled alone changes. -/
theorem withCancelled_eq {s : State} {pre post : List Transfer} {t : Transfer} {id : Word}
    (hat : (engines s).transfers = pre ++ t :: post) (hother : ∀ u ∈ pre ++ post, u.tid ≠ id) (hid : t.tid = id) :
    withCancelled s id = withEngines s fun k => { k with transfers := pre ++ cancelXfer t :: post } := by
  have unchanged : ∀ l : List Transfer, (∀ u ∈ l, u.tid ≠ id) →
      l.map (fun u => if u.tid = id then cancelXfer u else u) = l := fun l hl =>
    (List.map_congr_left fun u hu => if_neg (hl u hu)).trans (List.map_id l)
  have hpre := unchanged pre fun u hu => hother u (List.mem_append_left _ hu)
  have hpost := unchanged post fun u hu => hother u (List.mem_append_right _ hu)
  rw [withCancelled, modXfer, withEngines]
  refine modCluster_congr ?_
  unfold engines at hat
  simp [hat, hpre, hpost, hid]

theorem find_cancellable {s : State} {pre post : List Transfer} {t : Transfer} {id : Word}
    (hother : ∀ u ∈ pre ++ post, u.tid ≠ id) (ht : cancellable s id t = true) :
    (pre ++ t :: post).find? (cancellable s id) = some t := by
  have hpre : pre.find? (cancellable s id) = none :=
    List.find?_eq_none.mpr fun u hu => by simp [cancellable, hother u (List.mem_append_left _ hu)]
  rw [List.find?_append, hpre, Option.none_or, List.find?_cons_of_pos ht]

end Sys2Proof.Claims

open Sys2Proof.Claims

/-- Settles O31: WTAG, FFR, TAGST and CPCAN each by the lemma that computes it. -/
theorem tagInstructions : Obligations.TagInstructions := by
  unfold Obligations.TagInstructions
  intro s d a b x m got len acquired id h
  have hacquired : ∀ v, acquired v = advance (withX (copiesDropped s) d v) (Sys2Proof.Machine.lenB b) := fun v =>
    congrArg (advance _) (bytes_ffr d b)
  refine ⟨fun hall => ?_, fun hany => ?_, fun n hn hset hlow => ?_, fun hnone => ?_, fun n hn => ?_, fun hnone => ?_,
    fun pre t post hat hother hid hctx hident hlive hkind => ?_⟩
  · rw [hacquired]
    exact issueOp_wtag h false d b rfl rfl (by simpa using hall)
  · rw [hacquired]
    exact issueOp_wtag h true d b rfl rfl (by simpa using hany)
  · rw [← lowestSet_eq hn hset hlow]
    exact exec_ffr h d b
  · rw [← lowestSet_zero, ← hnone]
    exact exec_ffr h d b
  · rw [exec_tagst h d b n hn, hacquired, ← bytes_ffr d b]
    split <;> rfl
  · refine exec_cpcan_none h d a (List.find?_eq_none.mpr fun t ht hcan => ?_)
    obtain ⟨hid, hctx, -, hlive⟩ := cancellable_iff.mp hcan
    rcases hnone t ht hid with hother | hcancelled
    · exact hother hctx
    · simp [hlive] at hcancelled
  · have found : (engines s).transfers.find? (cancellable s id) = some t :=
      hat ▸ find_cancellable hother (cancellable_iff.mpr ⟨hid, hctx, hident, hlive⟩)
    refine ⟨Sys2Proof.Machine.cancelXfer t, ?_, rfl, rfl, rfl, rfl⟩
    rw [exec_cpcan_some h d a found hkind, hid, withCancelled_eq hat hother hid]
end

section
/-! SUPPORT. The instructions that read a snapshot into an x register (R177, R178, R332, R364, R407, R408), each computed once, and
what the fields of the snapshots are. -/

namespace Sys2Proof.Claims
open Sys2Proof.Machine

/-! ## Actors and strands -/

theorem isStrand_of_le {c : CtxId} (h : 16 ≤ c.slot) : isStrand c = true := decide_eq_true h

theorem isStrand_of_lt {c : CtxId} (h : c.slot < 16) : isStrand c = false := decide_eq_false (Nat.not_le.mpr h)

/-! ## What each query writes -/

theorem exec_getm {s : State} (h : Quiet s) (d : Reg) (k : Fin 16) :
    writesX s (.getm d k) d (if isStrand s.cur then 0 else (getCtx s s.cur).regs.m[k]) :=
  h.issueOp_putX rfl rfl (runX_bind_ok (runX_ctx s.cur s))

theorem exec_mbstat {s : State} (h : Quiet s) (d : Reg) (k : Fin 8) :
    writesX s (.mbstat d k) d (if isStrand s.cur then 0 else mailboxStat (getCtx s s.cur).mailboxes[k]) :=
  h.issueOp_putX rfl rfl (runX_bind_ok (runX_ctx s.cur s))

theorem exec_cpget {s : State} (h : Quiet s) (d : Reg) (k : Fin 22) :
    writesX s (.cpget d k) d (getCtx s s.cur).shadows[k] :=
  h.issueOp_putX rfl rfl (runX_bind_ok (runX_ctx s.cur s))

theorem exec_nstat {s : State} (h : Quiet s) (d : Reg) (code : Fin 4) :
    writesX s (.nstat d code) d (nstatValue s code.val) :=
  h.issueOp_putX rfl rfl (runX_bind_ok (runX_get s))

/-- R407: KSTAT in an actor. -/
theorem exec_kstat {s : State} (h : Quiet s) (hactor : isStrand s.cur = false) (d : Reg) (code : Fin 6) :
    writesX s (.kstat d code) d (kstatValue s s.cur code.val) := by
  refine h.issueOp_putX rfl rfl ?_
  simp only [hactor]
  exact runX_bind_ok (runX_get s)

/-- R364: GQRY of a slot that nothing is bound to. -/
theorem exec_gqry_unbound {s : State} (h : Quiet s) (hactor : isStrand s.cur = false) (d : Reg) (g : Fin 4) (code : Fin 10)
    (hdesc : (getCtx s s.cur).grid[g].desc = none) : writesX s (.gqry d g code) d (BitVec.allOnes 64) := by
  refine h.issueOp_putX rfl rfl ?_
  obtain ⟨-, hloads⟩ := h
  simp only [hactor]
  refine (runX_bind_ok (needX_quiet d hloads)).trans ?_
  rw [runX_bind_ok (runX_ctx s.cur s), hdesc]

/-- R364, R407: what only an actor may do is ILLEGAL_OP in a strand slot. -/
theorem Issues.issueOp_strand {s : State} (h : Issues s) (hstrand : isStrand s.cur = true) (len : Nat) (body : X Unit) :
    issueOp s len (do if isStrand s.cur then illegal
                      body) = .next (takeTrap s s.cur { code := 1 }) := by
  refine issueOp_trap h.issuesNow ?_
  simp only [hstrand]
  exact runX_bind_error (runX_trap _ s)

/-! ## MBSTAT (Table 7.5) -/

theorem mailboxStat_invalid {m : Mailbox} (h : m.valid = false) : mailboxStat m = 0 := by
  simp [mailboxStat, h]

/-- Counts that fit their fields make up the snapshot of a valid mailbox. -/
theorem toNat_mailboxStat {m : Mailbox} (hvalid : m.valid = true) (hfifo : m.fifo.length < 512) (hovf : m.ovf.length < 2 ^ 21)
    (hpass : m.pass < 256) :
    (mailboxStat m).toNat = m.fifo.length + m.ovf.length * 2 ^ 9 + 2 ^ 31 + m.pass * 2 ^ 32 := by
  rw [mailboxStat, if_pos hvalid, BitVec.toNat_ofNat]
  omega

theorem mailboxStat_fields {m : Mailbox} (hvalid : m.valid = true) (hfifo : m.fifo.length < 512) (hovf : m.ovf.length < 2 ^ 21)
    (hpass : m.pass < 256) :
    (mailboxStat m).toNat % 2 ^ 9 = m.fifo.length ∧ (mailboxStat m).toNat / 2 ^ 9 % 2 ^ 21 = m.ovf.length ∧
      (mailboxStat m).getLsbD 31 = true ∧ (mailboxStat m).toNat / 2 ^ 32 = m.pass := by
  have hv := toNat_mailboxStat hvalid hfifo hovf hpass
  have hbit : (mailboxStat m).toNat / 2 ^ 31 % 2 = 1 := by omega
  exact ⟨by omega, by omega, by rw [← bit_eq_getLsbD, bit, hbit]; rfl, by omega⟩

/-! ## KSTAT (Table 21.7) -/

theorem gangOf_eq {s : State} {c : CtxId} {l : Launch} (hl : launchAt s (getCtx s c).ident.lslot.toNat = some l) :
    gangOf s c = l.gang := by
  rw [gangOf, hl]

theorem gangOf_none {s : State} {c : CtxId}
    (h : ∀ l, launchAt s (getCtx s c).ident.lslot.toNat = some l → l.gang = none) : gangOf s c = none := by
  unfold gangOf
  split
  · next l hl => exact h l hl
  · rfl

theorem kstatValue_none {s : State} {c : CtxId} (h : gangOf s c = none) (code : Nat) : kstatValue s c code = 0 := by
  rw [kstatValue, h]

theorem kstatValue_state {s : State} {c : CtxId} {g : Gang} (h : gangOf s c = some g) : kstatValue s c 0 = windowState g := by
  rw [kstatValue, h]; rfl

/-- The window's state is the lowest field; the fields above it do not reach down to it. -/
theorem toNat_windowState_mod (g : Gang) : (windowState g).toNat % 4 = g.state.val := by
  rw [windowState, BitVec.toNat_ofNat]
  split <;> omega

theorem ofNat_elemAt {n : Nat} (v : BitVec n) (w i : Nat) : BitVec.ofNat w (elemAt v w i) = v.extractLsb' (w * i) w := by
  apply BitVec.eq_of_toNat_eq
  simp [elemAt, Nat.shiftRight_eq_div_pow]

theorem kstatValue_detached {s : State} {c : CtxId} {g : Gang} (h : gangOf s c = some g) (j : Fin 4) :
    kstatValue s c (j.val + 1) = g.detached.extractLsb' (64 * j.val) 64 := by
  rw [kstatValue, h]
  dsimp only
  split
  · next hcode => omega
  · next hcode => omega
  · exact ofNat_elemAt g.detached 64 j.val

theorem kbase_window {l : Launch} (hgang : l.packet.flags.getLsbD 0 = true) (hshare : 0 < l.packet.kshare) :
    kbase (some l) = windowBase := by
  simp [kbase, bit_eq_getLsbD, hgang, hshare]

theorem kstatValue_share {s : State} {c : CtxId} {l : Launch} {g : Gang}
    (hl : launchAt s (getCtx s c).ident.lslot.toNat = some l) (hg : l.gang = some g)
    (hgang : l.packet.flags.getLsbD 0 = true) (hshare : 0 < l.packet.kshare) :
    kstatValue s c 5 = BitVec.ofNat 64 (l.packet.kshare * 1024) := by
  have hsize : shareSize (some l) = l.packet.kshare * 1024 := by
    rw [shareSize, kbase_window hgang hshare, if_neg (by decide)]
  rw [kstatValue, gangOf_eq hl, hg, hl, hsize]; rfl

/-! ## NSTAT (Table 21.8) -/

theorem toNat_nstatValue_place (s : State) :
    (nstatValue s 0).toNat =
      s.hub.modCol.toNat + s.hub.modRow.toNat * 2 ^ 4 + s.hub.rowsM1.toNat * 2 ^ 8 + s.hub.colsM1.toNat * 2 ^ 12 := by
  rw [nstatValue, BitVec.toNat_ofNat]
  omega

/-- A sum of the powers that a test selects is the number with those bits. -/
theorem sum_selected_powers (f : Nat → Bool) (n : Nat) :
    ((List.range n).map fun i => if f i then 2 ^ i else 0).sum = Nat.ofBits fun i : Fin n => f i.val := by
  induction n generalizing f with
  | zero => rfl
  | succ n ih =>
    have hdouble : ((List.range n).map fun i => if f (i + 1) then 2 ^ (i + 1) else 0) =
        (List.range n).map fun i => 2 * if f (i + 1) then 2 ^ i else 0 :=
      List.map_congr_left fun i _ => by split <;> simp [Nat.pow_succ']
    have hlow : (if f 0 then 2 ^ 0 else 0) = (f 0).toNat := by cases f 0 <;> rfl
    calc ((List.range (n + 1)).map fun i => if f i then 2 ^ i else 0).sum
      _ = (f 0).toNat + ((List.range n).map fun i => if f (i + 1) then 2 ^ (i + 1) else 0).sum := by
        rw [List.range_succ_eq_map, List.map_cons, List.sum_cons, List.map_map, hlow]; rfl
      _ = (f 0).toNat + 2 * Nat.ofBits fun i : Fin n => f (i.val + 1) := by
        rw [hdouble, List.sum_map_mul_left, ih fun i => f (i + 1)]
      _ = Nat.ofBits fun i : Fin (n + 1) => f i.val := by
        rw [Nat.ofBits_succ, Nat.add_comm]; rfl

theorem portMask_eq (s : State) (p : Port → Bool) : portMask s p = Nat.ofBits fun i : Fin 30 => p s.hub.ports[i] := by
  rw [portMask, upFrom_eq_range', ← List.range_eq_range', sum_selected_powers]
  simp

theorem portMask_lt (s : State) (p : Port → Bool) : portMask s p < 2 ^ 30 :=
  portMask_eq s p ▸ Nat.ofBits_lt_two_pow _

theorem toNat_portMask (s : State) (p : Port → Bool) : (BitVec.ofNat 64 (portMask s p)).toNat = portMask s p :=
  Nat.mod_eq_of_lt ((portMask_lt s p).trans (by decide))

theorem getLsbD_portMask (s : State) (p : Port → Bool) (i : Fin 30) :
    (BitVec.ofNat 64 (portMask s p)).getLsbD i.val = p s.hub.ports[i] := by
  rw [BitVec.getLsbD, toNat_portMask, portMask_eq, Nat.testBit_ofBits_lt _ _ i.isLt]

/-- R408: NSTAT of a word of port bits writes one bit for each of the 30 ports. -/
theorem exec_nstat_ports {s : State} (h : Quiet s) (d : Reg) (code : Fin 4) {p : Port → Bool}
    (hcode : nstatValue s code.val = BitVec.ofNat 64 (portMask s p)) :
    ∃ v : Word, writesX s (.nstat d code) d v ∧ v.toNat < 2 ^ 30 ∧ ∀ i : Fin 30, v.getLsbD i.val = p s.hub.ports[i] := by
  have hwrites := exec_nstat h d code
  rw [hcode] at hwrites
  exact ⟨_, hwrites, (toNat_portMask s p).trans_lt (portMask_lt s p), getLsbD_portMask s p⟩

end Sys2Proof.Claims

open Sys2Proof.Claims

/-- Settles O19: each query by the lemma that computes it, the fields of its value by the lemmas on the snapshot. -/
theorem snapshotsAreRead : Obligations.SnapshotsAreRead := by
  unfold Obligations.SnapshotsAreRead
  intro s d x reads h
  refine ⟨fun hslot => ?strand, fun hslot => ?actor, exec_cpget h d, ?place, exec_nstat_ports h d 1 rfl, exec_nstat_ports h d 2 rfl,
    exec_nstat h d 3⟩
  case strand =>
    have hstrand := isStrand_of_le hslot
    have ⟨hissues, _⟩ := h
    refine ⟨fun k => ?_, fun k => ?_, fun _ => hissues.issueOp_strand hstrand _ _, fun _ _ => hissues.issueOp_strand hstrand _ _⟩
    · simpa [hstrand] using exec_getm h d k
    · simpa [hstrand] using exec_mbstat h d k
  case actor =>
    have hactor := isStrand_of_lt hslot
    have hmbstat : ∀ k, reads (.mbstat d k) d (Sys2Proof.Machine.mailboxStat x.mailboxes[k]) := fun k => by
      simpa [hactor] using exec_mbstat h d k
    have hkstat := exec_kstat h hactor d
    refine ⟨fun k => ?getm, fun k hvalid => ?invalid, fun k hvalid hfifo hovf hpass => ?valid, fun code hnone => ?noGang,
      fun l g hl hg => ?gang, exec_gqry_unbound h hactor d⟩
    case getm => simpa [hactor] using exec_getm h d k
    case invalid => exact mailboxStat_invalid hvalid ▸ hmbstat k
    case valid => exact ⟨_, hmbstat k, mailboxStat_fields hvalid hfifo hovf hpass⟩
    case noGang => exact kstatValue_none (gangOf_none hnone) code.val ▸ hkstat code
    case gang =>
      have hgang := (gangOf_eq hl).trans hg
      exact ⟨⟨_, hkstat 0, kstatValue_state hgang ▸ toNat_windowState_mod g⟩, fun j => kstatValue_detached hgang j ▸ hkstat _,
        fun hflag hshare => kstatValue_share hl hg hflag hshare ▸ hkstat 5⟩
  case place =>
    have hv := toNat_nstatValue_place s
    exact ⟨Sys2Proof.Machine.nstatValue s 0, exec_nstat h d 0, by omega⟩
end

section
/-! SUPPORT. What a registration at a word's home leaves in memory, byte by byte (R48, R52), so that bytes written from outside the cells
are read back (R374, R192); the attestation quote's fields (R428), a throttling step (R430) and a checkpoint's chunk (R342). The statement
takes these of the model's choices as they are: THROT is 1 below 2,700 MHz or while the condition holds (log 91), an access of a unit
by the default hash (log 15), byte 0 of a measurement register its lowest (log 89). -/

namespace Sys2Proof.Claims
open Sys2Proof.Machine

/-! ## Bytes of memory -/

/-- A written number reads back byte by byte. -/
theorem readByte_writeLE (m : Memory) (a n v : Nat) {i : Nat} (hi : i < n) :
    readByte (writeLE m a n v) (a + i) = byteOf v i := by
  induction n generalizing m a v i with
  | zero => omega
  | succ n ih =>
    rw [writeLE]
    cases i with
    | zero => rw [readByte_writeLE_ne _ _ _ _ (by omega), Nat.add_zero, readByte_writeByte, byteOf, pow_zero, Nat.div_one]
    | succ i =>
      rw [show a + (i + 1) = a + 1 + i by omega, ih _ _ _ (by omega), byteOf, byteOf, Nat.div_div_eq_div_mul, Nat.pow_succ']

/-- A byte of a number that memory holds. -/
theorem byteOf_readLE (m : Memory) (a n : Nat) {i : Nat} (hi : i < n) : byteOf (readLE m a n) i = readByte m (a + i) := by
  induction n generalizing a i with
  | zero => omega
  | succ n ih =>
    have hbyte := (readByte m a).isLt
    rw [readLE]
    cases i with
    | zero => apply BitVec.eq_of_toNat_eq; simp [byteOf]; omega
    | succ i =>
      rw [byteOf, Nat.pow_succ', ← Nat.div_div_eq_div_mul, show a + (i + 1) = a + 1 + i by omega, ← ih _ (by omega), byteOf]
      congr 2; omega

/-- Byte `i` of a word. -/
def wordByte (w : Word) (i : Nat) : Byte := w.extractLsb' (8 * i) 8

theorem byteOf_toNat (w : Word) (i : Nat) : byteOf w.toNat i = wordByte w i := by
  apply BitVec.eq_of_toNat_eq
  simp [byteOf, wordByte, Nat.shiftRight_eq_div_pow, Nat.pow_mul]

theorem readLE_lt (m : Memory) (a n : Nat) : readLE m a n < 256 ^ n := by
  induction n generalizing a with
  | zero => simp [readLE]
  | succ n ih =>
    have hrest := ih (a + 1)
    have hbyte := (readByte m a).isLt
    rw [readLE, Nat.pow_succ']; omega

theorem wordByte_readWord (m : Memory) (a : Nat) {i : Nat} (hi : i < 8) : wordByte (readWord m a) i = readByte m (a + i) := by
  have hword : (readWord m a).toNat = readLE m a 8 := Nat.mod_eq_of_lt (readLE_lt m a 8)
  rw [← byteOf_toNat, hword, byteOf_readLE m a 8 hi]

theorem wordByte_mergeBits (old mask new : Word) (i : Nat) :
    wordByte (mergeBits old mask new) i = (wordByte old i &&& ~~~wordByte mask i) ||| (wordByte new i &&& wordByte mask i) := by
  apply BitVec.eq_of_getLsbD_eq
  intro j hj
  by_cases hlt : 8 * i + j < 64
  · simp [mergeBits, wordByte, hj, hlt]
  · have hge := BitVec.getLsbD_of_ge (w := 64) (i := 8 * i + j)
    simp [mergeBits, wordByte, hj, hge _ (by omega)]

/-- R48: each byte of the word takes the new bits under the mask and keeps the others. -/
theorem readByte_writeMasked (m : Memory) (a : Nat) (mask data : Word) {i : Nat} (hi : i < 8) :
    readByte (writeMasked m a mask data) (a + i) =
      (readByte m (a + i) &&& ~~~wordByte mask i) ||| (wordByte data i &&& wordByte mask i) := by
  rw [writeMasked, readByte_writeLE _ _ _ _ hi, byteOf_toNat, wordByte_mergeBits, wordByte_readWord m a hi]

theorem readByte_writeMasked_ne (m : Memory) (a : Nat) (mask data : Word) {x : Nat} (h : x < a ∨ a + 8 ≤ x) :
    readByte (writeMasked m a mask data) x = readByte m x := readByte_writeLE_ne _ _ _ _ h

/-! ## One byte stored at its home -/

/-- The store of one byte, as a masked store to its aligned word. -/
def byteStore (a : Nat) (b : Byte) : WordStore :=
  { addr := wordKey a, mask := BitVec.ofNat 64 (255 * 2 ^ (8 * (a % 8))), data := BitVec.ofNat 64 (b.toNat * 2 ^ (8 * (a % 8))) }

theorem wordByte_byteMask {i j : Nat} (hi : i < 8) (hj : j < 8) :
    wordByte (BitVec.ofNat 64 (255 * 2 ^ (8 * j))) i = if i = j then BitVec.allOnes 8 else 0#8 := by
  have all : ∀ i j : Fin 8,
      wordByte (BitVec.ofNat 64 (255 * 2 ^ (8 * j.val))) i.val = if i.val = j.val then BitVec.allOnes 8 else 0#8 := by decide
  exact all ⟨i, hi⟩ ⟨j, hj⟩

theorem wordByte_shiftedByte (b : Byte) {j : Nat} (hj : j < 8) : wordByte (BitVec.ofNat 64 (b.toNat * 2 ^ (8 * j))) j = b := by
  have hfits : b.toNat * 2 ^ (8 * j) < 2 ^ 64 := calc
    b.toNat * 2 ^ (8 * j) < 2 ^ 8 * 2 ^ (8 * j) := Nat.mul_lt_mul_of_pos_right b.isLt (by positivity)
    _ = 2 ^ (8 + 8 * j) := (Nat.pow_add 2 8 (8 * j)).symm
    _ ≤ 2 ^ 64 := Nat.pow_le_pow_right (by decide) (by omega)
  have hdiv : b.toNat * 2 ^ (8 * j) / 2 ^ (8 * j) = b.toNat := Nat.mul_div_cancel _ (by positivity)
  apply BitVec.eq_of_toNat_eq
  rw [wordByte, BitVec.extractLsb'_toNat, BitVec.toNat_ofNat, Nat.mod_eq_of_lt hfits, Nat.shiftRight_eq_div_pow, hdiv,
    Nat.mod_eq_of_lt b.isLt]

/-- A byte's store changes that byte of memory alone. -/
theorem readByte_byteStore (m : Memory) (a x : Nat) (b : Byte) :
    readByte (writeMasked m (byteStore a b).addr (byteStore a b).mask (byteStore a b).data) x =
      if x = a then b else readByte m x := by
  by_cases hin : wordKey a ≤ x ∧ x < wordKey a + 8
  · obtain ⟨i, rfl⟩ := Nat.exists_eq_add_of_le hin.1
    have hi : i < 8 := by omega
    have hj : a % 8 < 8 := Nat.mod_lt _ (by decide)
    have ha : wordKey a + a % 8 = a := by unfold wordKey; omega
    simp only [byteStore]
    rw [readByte_writeMasked m _ _ _ hi, wordByte_byteMask hi hj]
    by_cases hij : i = a % 8
    · subst hij
      rw [if_pos rfl, wordByte_shiftedByte b hj, if_pos ha, BitVec.not_allOnes, BitVec.and_zero, BitVec.zero_or, BitVec.and_allOnes]
    · rw [if_neg hij, if_neg (by omega), BitVec.not_zero, BitVec.and_allOnes, BitVec.and_zero, BitVec.or_zero]
  · have hne : x ≠ a := by rintro rfl; unfold wordKey at hin; omega
    rw [if_neg hne]
    exact readByte_writeMasked_ne _ _ _ _ (by simp only [byteStore]; omega)

/-! ## Registration (R52, R53): memory takes the bits, the contexts stay -/

/-- Memory and the contexts are those of `s`. -/
def MemCtxsKept (s t : State) : Prop := t.mem = s.mem ∧ t.ctxs = s.ctxs

theorem MemCtxsKept.trans {s t u : State} (h : MemCtxsKept s t) (k : MemCtxsKept t u) : MemCtxsKept s u :=
  ⟨k.1.trans h.1, k.2.trans h.2⟩

theorem MemCtxsKept.foldl {α : Type} {f : State → α → State} (h : ∀ s a, MemCtxsKept s (f s a)) :
    ∀ (l : List α) (s : State), MemCtxsKept s (l.foldl f s)
  | [], _ => ⟨rfl, rfl⟩
  | a :: l, s => (h s a).trans (MemCtxsKept.foldl h l (f s a))

theorem memCtxsKept_of_links {s t : State} (h : LinksOnly s t) : MemCtxsKept s t :=
  have ⟨hmem, hctxs, _⟩ := h.keeps
  ⟨hmem, hctxs⟩

theorem gwPush_memCtxs (s : State) (q : GwId) (e : GwEntry) : MemCtxsKept s (gwPush s q e) := by
  have hset : MemCtxsKept s (gwSet s q (gwEntries s q ++ [e])) := ⟨rfl, rfl⟩
  refine hset.trans ?_
  cases q with
  | die a b => exact ⟨rfl, rfl⟩
  | module a b =>
    rw [gwPush, gwInject]
    split
    · exact memCtxsKept_of_links (inject_links _ _ _)
    · exact ⟨rfl, rfl⟩

theorem pushUpdates_memCtxs (s : State) (o : Origin) (a : Nat) (v : Word) : MemCtxsKept s (pushUpdates s o a v) := by
  have hcount : MemCtxsKept s { s with regCtr := s.regCtr + 1 } := ⟨rfl, rfl⟩
  unfold pushUpdates
  dsimp only
  refine hcount.trans ?_
  split
  · refine (MemCtxsKept.foldl (fun t d => ?_) _ _).trans (MemCtxsKept.foldl (fun t m => gwPush_memCtxs _ _ _) _ _)
    split
    · exact gwPush_memCtxs _ _ _
    · exact ⟨rfl, rfl⟩
  · split
    · exact gwPush_memCtxs _ _ _
    · exact ⟨rfl, rfl⟩

theorem hbmBurst_memCtxs (s : State) (counter a : Nat) : MemCtxsKept s (hbmBurst s counter a) := by
  unfold hbmBurst
  split <;> exact ⟨rfl, rfl⟩

theorem touchSlice_memCtxs (s : State) (a cls : Nat) (noalloc write : Bool) : MemCtxsKept s (touchSlice s a cls noalloc write) := by
  have hlook : ∀ n f, MemCtxsKept s (modCluster s n f) := fun _ _ => ⟨rfl, rfl⟩
  unfold touchSlice
  dsimp only
  split
  · split
    · exact hlook _ _
    · split
      · exact (hlook _ _).trans (hbmBurst_memCtxs _ _ _)
      · exact (hlook _ _).trans (hbmBurst_memCtxs _ _ _)
  · exact ⟨rfl, rfl⟩

theorem demoteOwner_memCtxs (s : State) (newOwner : Option Nat) (a : Nat) : MemCtxsKept s (demoteOwner s newOwner a) := by
  unfold demoteOwner
  split
  · split <;> exact ⟨rfl, rfl⟩
  · exact ⟨rfl, rfl⟩

/-- R52: a registration puts the masked bits in memory; no context changes. -/
theorem registerAt_mem_ctxs (s : State) (owner : Option Nat) (o : Origin) (w : WordStore) :
    (registerAt s owner o w).mem = writeMasked s.mem w.addr w.mask w.data ∧ (registerAt s owner o w).ctxs = s.ctxs := by
  unfold registerAt
  dsimp only
  split
  · exact ⟨rfl, rfl⟩
  · have hsource := fun t => (touchSlice_memCtxs t w.addr (originClass o) w.noalloc true).trans (demoteOwner_memCtxs _ owner w.addr)
    have hkept := hsource { s with mem := writeMasked s.mem w.addr w.mask w.data }
    cases owner with
    | some c => exact (hkept.trans (by exact ⟨rfl, rfl⟩)).trans (pushUpdates_memCtxs _ _ _ _)
    | none => exact (hkept.trans (by exact ⟨rfl, rfl⟩)).trans (pushUpdates_memCtxs _ _ _ _)

/-! ## Bytes written from outside the cells -/

theorem homeWriteBytes_cons (s : State) (a : Nat) (b : Byte) (bs : List Byte) :
    homeWriteBytes s a (b :: bs) = homeWriteBytes (registerAt s none .unit (byteStore a b)) (a + 1) bs := rfl

theorem homeWriteBytes_ctxs (s : State) (a : Nat) (bs : List Byte) : (homeWriteBytes s a bs).ctxs = s.ctxs := by
  induction bs generalizing s a with
  | nil => rfl
  | cons b bs ih => exact homeWriteBytes_cons s a b bs ▸ (ih _ _).trans (registerAt_mem_ctxs _ _ _ _).2

/-- The bytes written are in memory, and every other byte stays. -/
theorem readByte_homeWriteBytes (s : State) (a : Nat) (bs : List Byte) (x : Nat) :
    readByte (homeWriteBytes s a bs).mem x = if a ≤ x ∧ x < a + bs.length then bs.getD (x - a) 0 else readByte s.mem x := by
  induction bs generalizing s a with
  | nil => rw [if_neg fun ⟨hlow, hhigh⟩ => Nat.not_lt.mpr hlow hhigh]; rfl
  | cons b bs ih =>
    have hfirst : readByte (registerAt s none .unit (byteStore a b)).mem x = if x = a then b else readByte s.mem x := by
      rw [(registerAt_mem_ctxs _ _ _ _).1, readByte_byteStore]
    rw [homeWriteBytes_cons, ih, hfirst, List.length_cons]
    rcases Nat.lt_trichotomy x a with hlt | rfl | hgt
    · rw [if_neg (by omega), if_neg (by omega), if_neg (by omega)]
    · rw [if_neg (by omega), if_pos rfl, if_pos (by omega)]; simp
    · obtain ⟨k, rfl⟩ := Nat.exists_eq_add_of_lt hgt
      rw [if_neg (show a + k + 1 ≠ a by omega), show a + k + 1 - (a + 1) = k by omega, show a + k + 1 - a = k + 1 by omega,
        List.getD_cons_succ]
      exact if_congr (by omega) rfl rfl

/-- Where memory is, bytes from outside go to their homes. -/
theorem outsideWrite_populated {s : State} {pa : Nat} {bytes : List Byte} (hne : bytes ≠ [])
    (hpop : populated s pa bytes.length = true) : outsideWrite s pa bytes = homeWriteBytes s (physKey s pa) bytes := by
  simp [outsideWrite, hne, hpop]

/-! ## Bytes that memory holds -/

/-- Memory holds these bytes from `a` on. -/
def Holds (m : Memory) (a : Nat) (l : List Byte) : Prop := readBytes m a l.length = l

@[simp] theorem length_readBytes (m : Memory) (a n : Nat) : (readBytes m a n).length = n := by
  induction n generalizing a with
  | zero => rfl
  | succ n ih => rw [readBytes, List.length_cons, ih]

theorem readBytes_eq_map (m : Memory) (a n : Nat) : readBytes m a n = (List.range n).map fun i => readByte m (a + i) := by
  induction n generalizing a with
  | zero => rfl
  | succ n ih =>
    rw [readBytes, ih, List.range_succ_eq_map, List.map_cons, List.map_map]
    simp [Function.comp_def, Nat.add_assoc, Nat.add_comm 1]

theorem readBytes_add (m : Memory) (a p q : Nat) : readBytes m a (p + q) = readBytes m a p ++ readBytes m (a + p) q := by
  simp [readBytes_eq_map, List.range_add, Function.comp_def, Nat.add_assoc]

theorem holds_append {m : Memory} {a : Nat} {l r : List Byte} : Holds m a (l ++ r) ↔ Holds m a l ∧ Holds m (a + l.length) r := by
  unfold Holds
  rw [List.length_append, readBytes_add]
  exact ⟨(List.append_inj · (length_readBytes _ _ _)), fun ⟨hl, hr⟩ => hl ▸ hr ▸ by simp⟩

theorem holds_homeWriteBytes (s : State) (a : Nat) (bs : List Byte) : Holds (homeWriteBytes s a bs).mem a bs := by
  unfold Holds
  rw [readBytes_eq_map]
  refine List.ext_getElem (by simp) fun i _ hi => ?_
  rw [List.getElem_map, List.getElem_range, readByte_homeWriteBytes, if_pos (by omega), Nat.add_sub_cancel_left,
    List.getD_eq_getElem _ _ hi]

/-- Of pieces of one length, each is held at its place. -/
theorem Holds.flatMap {α : Type} {m : Memory} {f : α → List Byte} {k : Nat} (hlen : ∀ x, (f x).length = k) {l : List α} {a : Nat}
    (h : Holds m a (l.flatMap f)) {i : Nat} (hi : i < l.length) : Holds m (a + k * i) (f l[i]) := by
  induction l generalizing a i with
  | nil => exact absurd hi (Nat.not_lt_zero i)
  | cons x l ih =>
    rw [List.flatMap_cons, holds_append, hlen] at h
    obtain ⟨hfirst, hrest⟩ := h
    cases i with
    | zero => exact hfirst
    | succ i =>
      have hplace : a + k * (i + 1) = a + k + k * i := by ring
      exact hplace ▸ ih hrest (Nat.lt_of_succ_lt_succ hi)

@[simp] theorem length_bytesOf {w : Nat} (v : BitVec w) (n : Nat) : (bytesOf v n).length = n := by
  rw [bytesOf, List.length_map, length_upFrom]

theorem readLE_of_elems {w : Nat} (v : BitVec w) (m : Memory) (n k a : Nat)
    (h : readBytes m a n = (upFrom k n).map fun i => BitVec.ofNat 8 (elemAt v 8 i)) :
    readLE m a n = v.toNat / 2 ^ (8 * k) % 2 ^ (8 * n) := by
  induction n generalizing k a with
  | zero => simp [readLE, Nat.mod_one]
  | succ n ih =>
    obtain ⟨hbyte, hrest⟩ := List.cons.inj h
    have hval : (readByte m a).toNat = v.toNat / 2 ^ (8 * k) % 256 := by rw [hbyte]; simp [elemAt]
    rw [readLE, ih (k + 1) (a + 1) hrest, hval, show 8 * (k + 1) = 8 * k + 8 by ring, show 8 * (n + 1) = 8 + 8 * n by ring,
      Nat.pow_add 2 (8 * k), ← Nat.div_div_eq_div_mul, Nat.pow_add 2 8, Nat.mod_mul]

/-- R2: the bytes of a value read as its low bits. -/
theorem Holds.readLE_bytesOf {w : Nat} {v : BitVec w} {m : Memory} {a n : Nat} (h : Holds m a (bytesOf v n)) :
    readLE m a n = v.toNat % 2 ^ (8 * n) := by
  unfold Holds at h
  rw [length_bytesOf] at h
  simpa using readLE_of_elems v m n 0 a h

/-- Bytes that hold the whole of a value read as it. -/
theorem Holds.readLE_whole {n : Nat} {v : BitVec (8 * n)} {m : Memory} {a : Nat} (h : Holds m a (bytesOf v n)) :
    readLE m a n = v.toNat := by
  rw [h.readLE_bytesOf, Nat.mod_eq_of_lt v.isLt]

/-! ## The attestation quote (R428, Table 23.4) -/

@[simp] theorem length_measBytes (h : Hub) : (h.meas.toList.flatMap fun m => bytesOf m 32).length = 256 := by
  simp [List.length_flatMap]

@[simp] theorem length_quoteBody (h : Hub) (nonce : BitVec 256) : (quoteBody h nonce).length = 304 := by
  simp [quoteBody]

@[simp] theorem length_quoteBytes (h : Hub) (nonce : BitVec 256) : (quoteBytes h nonce).length = 688 := by
  simp [quoteBytes]

theorem quoteBytes_ne_nil (h : Hub) (nonce : BitVec 256) : quoteBytes h nonce ≠ [] := by
  intro hnil
  simpa [hnil] using length_quoteBytes h nonce

theorem exec_attestationQuote {s : State} {k pa : Nat} (nonce : BitVec 256) (hslot : s.hub.bootSlot = some k)
    (hpop : populated s pa 688 = true) :
    exec (.attestationQuote nonce pa) s = .next (homeWriteBytes s (physKey s pa) (quoteBytes s.hub nonce)) := by
  rw [← outsideWrite_populated (quoteBytes_ne_nil _ _) ((length_quoteBytes _ _).symm ▸ hpop)]
  change execAttestationQuote nonce pa s = _
  simp [execAttestationQuote, hslot]

/-- A number that memory holds is the field of Table 23.4 at its offset. -/
theorem readLE_quote {m : Memory} {a : Nat} {h : Hub} {nonce : BitVec 256} (hq : Holds m a (quoteBytes h nonce)) :
    readLE m (a + 0) 8 = h.devid.toNat ∧ readLE m (a + 8) 32 = nonce.toNat ∧
    (∀ i : Fin 8, readLE m (a + (40 + 32 * i.val)) 32 = h.meas[i].toNat) ∧
    readLE m (a + 296) 4 = h.bootNo.toNat ∧ readLE m (a + 300) 4 = h.beacon.toNat % 2 ^ 32 ∧
    readLE m (a + 304) 384 =
      (Config.identitySign (Config.sha256 ((List.range 304).map fun i => readByte m (a + i)))).toNat := by
  rw [quoteBytes, holds_append, length_quoteBody] at hq
  obtain ⟨hbody, hsign⟩ := hq
  have hsigned : (List.range 304).map (fun i => readByte m (a + i)) = quoteBody h nonce := by
    rw [← readBytes_eq_map, ← length_quoteBody h nonce]; exact hbody
  rw [quoteBody] at hbody
  simp only [holds_append, List.length_append, length_bytesOf, length_measBytes, Nat.reduceAdd] at hbody
  obtain ⟨⟨⟨⟨hdevid, hnonce⟩, hmeas⟩, hboot⟩, hbeacon⟩ := hbody
  refine ⟨hdevid.readLE_whole, hnonce.readLE_whole, fun i => ?_, hboot.readLE_whole, hbeacon.readLE_bytesOf, ?_⟩
  · have hreg := hmeas.flatMap (length_bytesOf · 32) (i := i.val) (by simp)
    rw [← Nat.add_assoc]
    exact hreg.readLE_whole
  · rw [hsigned]; exact hsign.readLE_whole

/-! ## Throttling (R430) -/

theorem toNat_nextFreq {f : BitVec 16} (hlow : 1200 ≤ f.toNat) (hhigh : f.toNat ≤ 2700) (slow : Bool) :
    (nextFreq f slow).toNat = if slow = true then max 1200 (f.toNat - 100) else min 2700 (f.toNat + 100) := by
  cases slow with
  | true =>
    simp only [nextFreq, if_true]
    split
    · rw [Nat.max_eq_left (by omega)]; rfl
    · rw [Nat.max_eq_right (by omega)]; bv_omega
  | false =>
    simp only [nextFreq, Bool.false_eq_true, if_false]
    split
    · rw [Nat.min_eq_left (by omega)]; rfl
    · rw [Nat.min_eq_right (by omega)]; bv_omega

/-- The module's power exceeds its limit, or the die is hot. -/
def overLimit (h : Hub) (watts : Nat) (hot : Bool) : Bool := decide (powerLimit h < watts) || hot

theorem overLimit_iff (h : Hub) (watts : Nat) (hot : Bool) :
    overLimit h watts hot = true ↔ min 2400 (h.pwrlim.toNat % 2 ^ 12) < watts ∨ hot = true := by
  simp [overLimit, powerLimit, bits]

/-- THROT of Table 23.5 after a step (log 91). -/
theorem throttled_iff (f : BitVec 16) (slow : Bool) : (slow || decide (f ≠ 2700)) = true ↔ slow = true ∨ f.toNat ≠ 2700 := by
  rw [Bool.or_eq_true, decide_eq_true_iff, ne_eq, ← BitVec.toNat_inj]; rfl

/-- The operating point of a compute die, or of the hub as die 4. -/
def diePoint (s : State) (die : Fin 5) : BitVec 16 := if die.val = 4 then s.hub.hubFreq else (getDie s die.val).freq

/-- DIESTAT.THROT of a die. -/
def dieThrottled (s : State) (die : Fin 5) : Bool := if die.val = 4 then s.hub.hubThrottled else (getDie s die.val).throttled

/-- R430: the die takes the next point and its THROT bit; memory and the contexts stay. -/
theorem leads_throttleStep (s : State) (die : Fin 5) (watts : Nat) (hot : Bool) :
    leads s (.throttleStep die watts hot) fun u => u.mem = s.mem ∧ u.ctxs = s.ctxs ∧
      diePoint u die = nextFreq (diePoint s die) (overLimit s.hub watts hot) ∧
      dieThrottled u die = (overLimit s.hub watts hot || decide (diePoint u die ≠ 2700)) := by
  change ∃ u, execThrottleStep die watts hot s = .next u ∧ _
  unfold execThrottleStep
  dsimp only
  split
  · next hdie => exact ⟨_, rfl, rfl, rfl, by simp [diePoint, hdie, overLimit], by simp [diePoint, dieThrottled, hdie, overLimit]⟩
  · next hdie => exact ⟨_, rfl, rfl, rfl, by simp [diePoint, hdie, overLimit], by simp [diePoint, dieThrottled, hdie, overLimit]⟩

/-! ## RDMA writes (R374, R192) and checkpoints (R342) -/

/-- A move of the network is made where its source is there: a port that is up, or firmware that runs. -/
theorem exec_ethernetRdmaWrite {s : State} {pa : Nat} {bytes : List Byte} {core : Option (Fin 4)}
    (hport : core = none → 5 < s.hub.bootStep ∧ (0 ∉ s.hub.outEther ∨ 1 ∉ s.hub.outEther))
    (hcore : core ≠ none → s.hub.bootSlot ≠ none) (hne : bytes ≠ []) (hpop : populated s pa bytes.length = true) :
    exec (.ethernetRdmaWrite pa bytes core) s = .next (homeWriteBytes s (physKey s pa) bytes) := by
  rw [← outsideWrite_populated hne hpop]
  change execEthernetRdmaWrite pa bytes core s = _
  refine if_pos ?_
  cases core with
  | none =>
    obtain ⟨hstep, hup⟩ := hport rfl
    simp [etherUp, etherPortUp, hstep, hup]
  | some c => simp [Option.isSome_iff_ne_none.mpr (hcore (Option.some_ne_none c))]

theorem physKey_add (s : State) (pa : Nat) : physKey s pa = physKey s 0 + pa := by simp [physKey, memKey]

theorem storesDone_of_empty {s : State} (hcells : ∀ k ∈ s.cells, k.2.regq = [] ∧ k.2.amos = []) (hgw : s.gwq = []) :
    storesDone s = true := by
  unfold storesDone
  rw [hgw, List.all_nil, Bool.and_true, List.all_eq_true]
  intro k hk
  obtain ⟨hreg, hamo⟩ := hcells k hk
  rw [hreg, hamo]; rfl

theorem exec_checkpointStream {s : State} {cluster pa : Nat} {port : Fin 2} (hquiet : quiesced s = true) (hdone : storesDone s = true)
    (hstep : s.hub.bootStep = 9) (hport : port.val ∉ s.hub.outEther) (hcl : cluster < 512) (hin : cluster ∉ s.hub.outClusters)
    (hpa : pa % 4096 = 0) (hpop : populated s pa 4096 = true) :
    exec (.checkpointStream cluster pa port) s = .next (streamChunk s pa port.val) := by
  have hup : etherPortUp s.hub port.val = true := by simp [etherPortUp, hstep, hport]
  change execCheckpointStream cluster pa port s = _
  simp [execCheckpointStream, checkpointChunk, hquiet, hdone, hstep, hup, hcl, hin, hpa, hpop]

end Sys2Proof.Claims

open Sys2Proof.Claims

/-- Settles O54: the quote and the RDMA write by the bytes that a registration at the home leaves in memory, the throttling step by
the next frequency's value, the checkpoint by the chunk that is read. -/
theorem quotesThrottlingAndTheNetwork : Obligations.QuotesThrottlingAndTheNetwork := by
  unfold Obligations.QuotesThrottlingAndTheNetwork
  intro s h
  refine ⟨fun nonce pa k hslot hpop => ?quote, fun die watts hot => ?throttle,
    fun pa bytes core hport hcore hne hpop => ?rdma, fun cluster pa port hev hcells hgw hstep hport hcl hin hpa hpop => ?checkpoint⟩
  case quote =>
    exact ⟨_, exec_attestationQuote nonce hslot hpop, homeWriteBytes_ctxs _ _ _, readLE_quote (holds_homeWriteBytes _ _ _)⟩
  case throttle =>
    dsimp only
    intro hlow hhigh
    obtain ⟨u, hmove, hmem, hctxs, hpoint, hthrot⟩ := leads_throttleStep s die watts hot
    have hfreq : (diePoint u die).toNat = _ := (hpoint ▸ toNat_nextFreq hlow hhigh _).trans (if_congr (overLimit_iff _ _ _) rfl rfl)
    refine ⟨u, hmove, hmem, hctxs, hfreq, ?_⟩
    rw [← hfreq, ← overLimit_iff, ← throttled_iff, ← hthrot]; rfl
  case rdma =>
    refine ⟨_, exec_ethernetRdmaWrite hport hcore hne hpop, homeWriteBytes_ctxs _ _ _, fun a => ?_⟩
    rw [readByte_homeWriteBytes, physKey_add s pa, Nat.add_sub_add_left]
    exact if_congr (by omega) rfl rfl
  case checkpoint =>
    have hquiet : Sys2Proof.Machine.quiesced s = true := List.all_eq_true.mpr hev
    refine ⟨_, exec_checkpointStream hquiet (storesDone_of_empty hcells hgw) hstep hport hcl hin hpa hpop, rfl, rfl,
      _, rfl, length_readBytes _ _ _, fun i hi => ?_⟩
    rw [Sys2Proof.Machine.checkpointChunk, readBytes_eq_map]
    simp [hi]
end
